-- ==== Sys2Proof/Word.lean ====
section
/-! DEFINITION. The plain words of the CL-3208: bytes, the numbers of channels, receivers, groups, bridges, slots and
watches (00_scope.md, Numbering), and reading and writing one place of a fixed table. -/

namespace Sys2Proof

/-- One byte of the register window. -/
abbrev Byte := BitVec 8
/-- Channels are numbered 0 to 31. -/
abbrev Chan := Fin 32
/-- Digit receivers are numbered 0 to 7. -/
abbrev RxIx := Fin 8
/-- Hunt groups are numbered 0 to 7. -/
abbrev GroupIx := Fin 8
/-- Bridges are numbered 0 to 3. -/
abbrev BridgeIx := Fin 4
/-- Dial plan slots are numbered 0 to 127. -/
abbrev SlotIx := Fin 128
/-- Watches are numbered 0 and 1. -/
abbrev WatchIx := Fin 2
/-- Timing parameters are numbered 0 to 22. -/
abbrev ParamIx := Fin 23

/-- What stands at place `i` of a table. -/
def look {α : Type} {n : Nat} (v : Vector α n) (i : Fin n) : α := v[i]

/-- The table `v` with `x` at place `i`. -/
def put {α : Type} {n : Nat} (v : Vector α n) (i : Fin n) (x : α) : Vector α n := v.set i x

/-- The table whose place `i` holds `f i`. -/
def tabulate {α : Type} {n : Nat} (f : Fin n → α) : Vector α n := Vector.ofFn f

/-- The table `v` with `f` applied at every place. -/
def every {α β : Type} {n : Nat} (f : α → β) (v : Vector α n) : Vector β n := tabulate fun i => f (look v i)

@[simp] theorem look_put_self {α : Type} {n : Nat} (v : Vector α n) (i : Fin n) (x : α) : look (put v i x) i = x := by
  simp [look, put]

@[simp] theorem look_put_ne {α : Type} {n : Nat} (v : Vector α n) (i j : Fin n) (x : α) (h : i ≠ j) :
    look (put v i x) j = look v j := by
  have h' : (i : Nat) ≠ j := fun e => h (Fin.ext e)
  simp [look, put, h']

/-- Reading a table after one write, in one equation. -/
theorem look_put {α : Type} {n : Nat} (v : Vector α n) (i j : Fin n) (x : α) :
    look (put v i x) j = if i = j then x else look v j := by
  split
  · next h => subst h; simp
  · next h => simp [h]

@[simp] theorem look_tabulate {α : Type} {n : Nat} (f : Fin n → α) (i : Fin n) : look (tabulate f) i = f i := by
  simp [look, tabulate]

@[simp] theorem look_every {α β : Type} {n : Nat} (f : α → β) (v : Vector α n) (i : Fin n) :
    look (every f v) i = f (look v i) := by
  simp [every]

@[simp] theorem look_replicate {α : Type} {n : Nat} (x : α) (i : Fin n) : look (Vector.replicate n x) i = x := by
  simp [look]

/-- Two tables that hold the same at every place are equal. -/
theorem table_ext {α : Type} {n : Nat} {v w : Vector α n} (h : ∀ i, look v i = look w i) : v = w := by
  apply Vector.ext
  intro i hi
  exact h ⟨i, hi⟩

/-- Of two writes at one place the later stands. -/
@[simp] theorem put_put {α : Type} {n : Nat} (v : Vector α n) (i : Fin n) (x y : α) : put (put v i x) i y = put v i y := by
  apply table_ext
  intro j
  simp only [look_put]
  split <;> rfl

/-- Writing what already stands there changes nothing. -/
@[simp] theorem put_look {α : Type} {n : Nat} (v : Vector α n) (i : Fin n) : put v i (look v i) = v := by
  apply table_ext
  intro j
  rw [look_put]
  split
  · next h => rw [h]
  · rfl

end Sys2Proof
end

