-- ==== Sys2Proof/Syntax.lean ====
section
/-! DEFINITION. The commands of the block: one constructor for each row of spec/opcode_table.json, with the row's
operands. A row that takes the command in flight has none: its parameters are the copy the mailbox made at the offer
(R165, R178). -/

namespace Sys2Proof

/-- The twelve digit symbols (00_scope.md, Symbols). -/
inductive Digit where
  | num (n : Fin 10)
  | star
  | hash
  deriving DecidableEq, Repr

/-- The five tones a listen source can name (R122). -/
inductive Tone where
  | dial
  | ringback
  | busy
  | reorder
  | hold
  deriving DecidableEq, Repr

/-- When ST takes what a qualifier or a receiver delivers: in the step that delivers it, or later, with other events
taken first (R13, R50, R64, R65; log 1). -/
inductive Taking where
  | now
  | later
  deriving DecidableEq, Repr

/-- How the clocks of the highway run on from FS: the slot within which the next event is taken (none: no event comes
between the slots), and the last slot of the frame before FS or PCLK is stopped (R124; log 10). -/
structure Clocking where
  pause : Option Chan
  last : Chan
  deriving DecidableEq, Repr

/-- The clocks run through the whole frame with no event between its slots. -/
def Clocking.whole : Clocking := ⟨none, 31⟩

/-- A detector's indication: the slot the receiver was listening to, and absent or a digit (R61). -/
structure Indication where
  slot : Chan
  digit : Option Digit
  deriving DecidableEq, Repr

/-- The commands of the CL-3208. -/
inductive Instr where
  /-- HARDWARE_RESET: the RESET input is asserted (R38). -/
  | hardwareReset
  /-- CONDITION_REPORT: a report frame is complete on SDI: its start bit, its 16 bits and its stop bit (R29, R179). -/
  | conditionReport (byte0 byte1 : Byte) (stop : Bool) (start : Bool := true) (t : Taking := .now)
  /-- FRAME_COMPLETION: the last bit of the order frame in flight leaves SDO (R35). -/
  | frameCompletion
  /-- FRAME_SYNC: FS begins a highway frame, whose incoming samples are given, and how far the clocks run on (R124). -/
  | frameSync (slots : Vector Byte 32) (clocks : Clocking := .whole)
  /-- TONE_STEP_END: a tone generator's step ends (R126). -/
  | toneStepEnd (t : Tone)
  /-- DETECTOR_INDICATION: a receiver's detector gives an indication (R61). -/
  | detectorIndication (r : RxIx) (ind : Indication)
  /-- TONE_ON_MIN_EXPIRY at a receiver (R62). -/
  | toneOnMinExpiry (r : RxIx) (t : Taking := .now)
  /-- TONE_GAP_MIN_EXPIRY at a receiver (R63). -/
  | toneGapMinExpiry (r : RxIx)
  /-- SEIZE_QUAL_EXPIRY at a loop qualifier (R40). -/
  | seizeQualExpiry (c : Chan) (t : Taking := .now)
  /-- FLASH_MAX_EXPIRY at a loop qualifier (R43). -/
  | flashMaxExpiry (c : Chan) (t : Taking := .now)
  /-- PULSE_MAKE_END_EXPIRY at a loop qualifier (R44). -/
  | pulseMakeEndExpiry (c : Chan) (t : Taking := .now)
  /-- BURST_TIMER_EXPIRY at a ring qualifier (R46, R47). -/
  | burstTimerExpiry (c : Chan) (t : Taking := .now)
  /-- GAP_TIMER_EXPIRY at a ring qualifier (R47). -/
  | gapTimerExpiry (c : Chan) (t : Taking := .now)
  /-- BATT_SEIZE_QUAL_EXPIRY at a battery qualifier (R48). -/
  | battSeizeQualExpiry (c : Chan) (t : Taking := .now)
  /-- FAR_OPEN_MIN_EXPIRY at a battery qualifier (R48). -/
  | farOpenMinExpiry (c : Chan) (t : Taking := .now)
  /-- FIRST_DIGIT_EXPIRY at a session record (R73). -/
  | firstDigitExpiry (c : Chan)
  /-- INTERDIGIT_EXPIRY at a session record (R83). -/
  | interdigitExpiry (c : Chan)
  /-- OVERLAP_EXPIRY at a session record (R83). -/
  | overlapExpiry (c : Chan)
  /-- RX_WAIT_EXPIRY at a session record (R55). -/
  | rxWaitExpiry (c : Chan)
  /-- CADENCE_EXPIRY at an originator (R106). -/
  | cadenceExpiry (c : Chan)
  /-- QUEUE_WAIT_EXPIRY at a queued originator (R116). -/
  | queueWaitExpiry (c : Chan)
  /-- TONEOUT_EXPIRY at a session record (R24). -/
  | toneoutExpiry (c : Chan)
  /-- GUARD_EXPIRY at a session record (R26). -/
  | guardExpiry (c : Chan)
  /-- SEIZE_WAIT_EXPIRY at a seizing trunk (R111). -/
  | seizeWaitExpiry (c : Chan)
  /-- CUT_THROUGH_EXPIRY at a seizing trunk (R110). -/
  | cutThroughExpiry (c : Chan)
  /-- STATUS_READ: a read of address 0 (R161). -/
  | statusRead
  /-- PARAM_WRITE: a write of PARAMk (R163). -/
  | paramWrite (k : Fin 8) (b : Byte)
  /-- RESULT_READ: a read of RESULTk (R167). -/
  | resultRead (k : Fin 8)
  /-- COMPLETION_READ: a read of address 10 (R166). -/
  | completionRead
  /-- CONTROL_WRITE: a write of address 15 (R162). -/
  | controlWrite (b : Byte)
  /-- IGNORED_REGISTER_WRITE: a write to an address marked ignored (R161). -/
  | ignoredRegisterWrite (a : Fin 16) (b : Byte)
  /-- UNKNOWN: a write of an undefined code to COMMAND (R165). -/
  | unknown (code : Byte)
  /-- START taken (R171). -/
  | start
  /-- STOP taken (R172). -/
  | stop
  /-- SET_PARAM taken (R175). -/
  | setParam
  /-- APPLY_PARAMS taken (R176). -/
  | applyParams
  /-- READ_PARAM taken (R177). -/
  | readParam
  /-- SET_NOTICE_MASK taken (R183). -/
  | setNoticeMask
  /-- CONFIGURE_CHANNEL taken (R7). -/
  | configureChannel
  /-- BLOCK taken (R156). -/
  | block
  /-- RESTORE taken (R157). -/
  | restore
  /-- READ_SESSION taken (R158). -/
  | readSession
  /-- READ_DIGITS taken (R92). -/
  | readDigits
  /-- WRITE_ENTRY taken (R77). -/
  | writeEntry
  /-- CLEAR_ENTRY taken (R78). -/
  | clearEntry
  /-- WRITE_GROUP taken (R95). -/
  | writeGroup
  /-- SET_MEMBERS taken (R96). -/
  | setMembers
  /-- ADD_MEMBER taken (R96). -/
  | addMember
  /-- DROP_MEMBER taken (R96). -/
  | dropMember
  /-- READ_GROUP taken (R97). -/
  | readGroup
  /-- RECEIVER_SERVICE taken (R59). -/
  | receiverService
  /-- HOLD taken (R148). -/
  | hold
  /-- RETRIEVE taken (R149). -/
  | retrieve
  /-- TRANSFER taken (R150). -/
  | transfer
  /-- DROP taken (R151, R152). -/
  | drop
  /-- PLACE taken (R153). -/
  | place
  /-- CONNECT taken (R154). -/
  | connect
  /-- SET_LISTEN taken (R155). -/
  | setListen
  /-- CONFERENCE taken (R130, R131). -/
  | conference
  /-- JOIN taken (R132, R133). -/
  | join
  /-- READ_BRIDGE taken (R137). -/
  | readBridge
  /-- TAKE_NOTICES taken (R184). -/
  | takeNotices
  /-- SET_WATCH taken (R191). -/
  | setWatch
  /-- ARM_WATCH taken (R192). -/
  | armWatch
  /-- DISARM_WATCH taken (R192). -/
  | disarmWatch
  /-- COMMAND_OFFER: a write of a defined code to COMMAND (R163). -/
  | commandOffer (code : Byte)
  /-- RESET_END: the RESET input is released (R38). -/
  | resetEnd
  deriving DecidableEq, Repr

end Sys2Proof
end

