-- ==== Sys2Proof/Machine/Params.lean ====
section
/-! DEFINITION. The fixed tables of the part: the 23 timing parameters with their ranges and defaults (R174), and the
step patterns of the five tone generators (R126). -/

namespace Sys2Proof.Machine

/-- One set of the 23 timing parameters, by index (R174). -/
abbrev ParamSet := Vector Nat 23

namespace Param
abbrev seizeQual : ParamIx := 0
abbrev hitMax : ParamIx := 1
abbrev pulseBreakMax : ParamIx := 2
abbrev flashMin : ParamIx := 3
abbrev flashMax : ParamIx := 4
abbrev pulseMakeEnd : ParamIx := 5
abbrev firstDigitTime : ParamIx := 6
abbrev interdigitTime : ParamIx := 7
abbrev overlapTime : ParamIx := 8
abbrev toneOnMin : ParamIx := 9
abbrev toneGapMin : ParamIx := 10
abbrev ringOnTime : ParamIx := 11
abbrev ringOffTime : ParamIx := 12
abbrev noAnswerCycles : ParamIx := 13
abbrev toneoutTime : ParamIx := 14
abbrev guardStation : ParamIx := 15
abbrev guardTrunk : ParamIx := 16
abbrev trunkSeizeWait : ParamIx := 17
abbrev cutThroughDelay : ParamIx := 18
abbrev ringBurstMin : ParamIx := 19
abbrev ringGapMax : ParamIx := 20
abbrev farOpenMin : ParamIx := 21
abbrev rxWaitNotice : ParamIx := 22
end Param

/-- The least value of each parameter (R174, Range). -/
def paramLow : ParamSet :=
  #v[10, 5, 20, 100, 300, 100, 1000, 1000, 500, 20, 20, 200, 200, 1, 1000, 0, 0, 200, 0, 50, 1000, 50, 500]

/-- The greatest value of each parameter (R174, Range). -/
def paramHigh : ParamSet :=
  #v[250, 100, 200, 1000, 3000, 1000, 60000, 60000, 60000, 200, 200, 5000, 10000, 15, 60000, 5000, 10000, 10000,
    5000, 1000, 20000, 5000, 30000]

/-- The default of each parameter (R174, Default). -/
def paramDefault : ParamSet :=
  #v[30, 15, 100, 250, 1100, 250, 10000, 8000, 3000, 40, 40, 1000, 3000, 6, 10000, 200, 1500, 2000, 500, 150, 6000,
    400, 3000]

/-- A value lies in the range of parameter `i` (R174, R175). -/
def paramInRange (i : ParamIx) (v : Nat) : Bool := look paramLow i ≤ v && v ≤ look paramHigh i

/-- The first of the four relations of R176 that a set fails, by its number; 0 when all hold. -/
def failedRelation (p : ParamSet) : Nat :=
  if ¬ look p Param.hitMax < look p Param.pulseBreakMax then 1
  else if ¬ look p Param.pulseBreakMax < look p Param.flashMin then 2
  else if ¬ look p Param.flashMin < look p Param.flashMax then 3
  else if ¬ look p Param.overlapTime ≤ look p Param.interdigitTime then 4
  else 0

/-- The number of a tone: its code (R178, Codes) and its place in the table of generators. -/
def toneIx : Tone → Fin 5
  | .dial => 0
  | .ringback => 1
  | .busy => 2
  | .reorder => 3
  | .hold => 4

/-- The frequencies of a tone, in Hz, sounded together (R126). -/
def toneFrequencies : Tone → List Nat
  | .dial => [425, 475]
  | .ringback => [425, 475]
  | .busy => [475, 625]
  | .reorder => [475, 625]
  | .hold => [525]

/-- The repeated pattern of a tone generator (R126): for each step whether it is a tone burst, and its length in ms;
no length means that the step has no end. -/
def tonePattern : Tone → List (Bool × Option Nat)
  | .dial => [(true, none)]
  | .ringback => [(true, some 1000), (false, some 3000)]
  | .busy => [(true, some 500), (false, some 500)]
  | .reorder => [(true, some 250), (false, some 250)]
  | .hold => [(true, some 200), (false, some 200), (true, some 200), (false, some 4400)]

/-- The state of a tone generator: its present step and the time remaining in it, none when the step has no end
(R126). -/
structure ToneGen where
  step : Nat
  left : Option Nat
  deriving DecidableEq, Repr

/-- Generator `t` at the start of step `i` of its pattern, with the step's full length (R126). -/
def ToneGen.atStep (t : Tone) (i : Nat) : ToneGen := ⟨i, ((tonePattern t)[i]?).bind (·.2)⟩

/-- The step after step `i`, wrapping from the last to the first (R126). -/
def ToneGen.after (t : Tone) (i : Nat) : Nat := if i + 1 < (tonePattern t).length then i + 1 else 0

/-- The generators at the end of hardware reset: each at its first step (R126). -/
def toneStart : Vector ToneGen 5 :=
  #v[.atStep .dial 0, .atStep .ringback 0, .atStep .busy 0, .atStep .reorder 0, .atStep .hold 0]

/-- Generator `t` gives its tone, not silence, in its present step (R126). -/
def ToneGen.sounding (t : Tone) (g : ToneGen) : Bool := (((tonePattern t)[g.step]?).map (·.1)).getD false

end Sys2Proof.Machine
end

