-- ==== Sys2Proof/Machine/State.lean ====
section
/-! DEFINITION. The state of the CL-3208, block by block, and the state after hardware reset. -/

namespace Sys2Proof.Machine

/-- What the channel is (R1, R6). -/
inductive ChanClass where
  | unused
  | station
  | trunk
  deriving DecidableEq, Repr

/-- How a station dials (R1, R6). -/
inductive DigitMode where
  | tone
  | pulse
  | either
  deriving DecidableEq, Repr

/-- Whether a station's flash acts or is only reported (R1, R6). -/
inductive FlashMode where
  | notice
  | consult
  deriving DecidableEq, Repr

/-- The tone a station hears in TONEOUT (R1, R24). -/
inductive ToneOut where
  | busy
  | reorder
  deriving DecidableEq, Repr

/-- The session states of stations (R8) and trunks (R9), in the order of their codes (R178, Codes). -/
inductive SState where
  | idle
  | blocked
  | seized
  | collecting
  | hostwait
  | outring
  | trunkwait
  | queued
  | ringing
  | talk
  | held
  | confer
  | toneout
  | lockout
  | releasing
  | ringin
  | seizing
  deriving DecidableEq, Repr

/-- The kinds of the session timer (R4). -/
inductive TimerKind where
  | firstDigit
  | interdigit
  | overlap
  | rxWait
  | cadence
  | queueWait
  | toneout
  | guard
  | seizeWait
  | cutThrough
  deriving DecidableEq, Repr

/-- A running session timer: its kind and its remaining time in ms (R4). -/
structure Timer where
  kind : TimerKind
  left : Nat
  deriving DecidableEq, Repr

/-- The session record of one channel (R1): five configuration fields, then the call fields. -/
structure Session where
  cls : ChanClass
  digitMode : DigitMode
  serviceClass : Fin 4
  flashMode : FlashMode
  answerGroup : Option GroupIx
  state : SState
  peer : Option Chan
  ringCount : Nat
  phaseOn : Bool
  cycles : Nat
  holds : Option Chan
  heldBy : Option Chan
  receiver : Option RxIx
  bridge : Option BridgeIx
  digits : List Digit
  curGroup : Option GroupIx
  tried : BitVec 8
  timer : Option Timer
  toneKind : ToneOut
  deriving DecidableEq, Repr

/-- What a channel hears on its outgoing slot (R122). -/
inductive Listen where
  | none
  | tone (t : Tone)
  | slot (d : Chan)
  | bridge (b : BridgeIx)
  deriving DecidableEq, Repr

/-- The two levels of one line in an image (R33): ring on or off, loop closed or open. -/
structure Levels where
  ring : Bool
  loop : Bool
  deriving DecidableEq, Repr

/-- The states of a loop qualifier (R39). -/
inductive LoopState where
  | onhook
  | seizeTiming
  | offhook
  | openTiming
  deriving DecidableEq, Repr

/-- The kinds of a loop qualifier's timer (R39). -/
inductive LoopTimer where
  | seizeQual
  | flashMax
  | pulseMakeEnd
  deriving DecidableEq, Repr

/-- The loop qualifier of a station (R39). -/
structure LoopQual where
  state : LoopState
  pulses : Nat
  timer : Option (LoopTimer × Nat)
  openStart : Nat
  hitMax : Nat
  breakMax : Nat
  flashMin : Nat
  deriving DecidableEq, Repr

/-- The states of a ring qualifier (R45). -/
inductive RingState where
  | ringIdle
  | burstTiming
  | inBurst
  | gapTiming
  deriving DecidableEq, Repr

/-- The ring qualifier of a trunk (R45). -/
structure RingQual where
  state : RingState
  burst : Option Nat
  gap : Option Nat
  inCheck : Bool
  deriving DecidableEq, Repr

/-- The states of a battery qualifier (R48). -/
inductive BattState where
  | absent
  | timing
  | present
  | dropTiming
  deriving DecidableEq, Repr

/-- The battery qualifier of a trunk (R48). Its timer is SEIZE_QUAL in BATT_TIMING and FAR_OPEN_MIN in DROP_TIMING. -/
structure BattQual where
  state : BattState
  timer : Option Nat
  deriving DecidableEq, Repr

/-- Whether a receiver may be lent (R51). -/
inductive RxService where
  | inService
  | withdrawPending
  | out
  deriving DecidableEq, Repr

/-- What a receiver is doing (R51). -/
inductive RxState where
  | free
  | offline
  | quiet
  | onset
  | digit
  | gap
  deriving DecidableEq, Repr

/-- The kinds of a receiver's qualification timer (R51). -/
inductive RxTimer where
  | toneOnMin
  | toneGapMin
  deriving DecidableEq, Repr

/-- One digit receiver (R51). -/
structure Receiver where
  service : RxService
  state : RxState
  assigned : Option Chan
  current : Option Digit
  indication : Option Digit
  timer : Option (RxTimer × Nat)
  deriving DecidableEq, Repr

/-- How a hunt chooses among the members of a group (R94). -/
inductive Method where
  | linear
  | circular
  | all
  deriving DecidableEq, Repr

/-- One hunt group (R94). The queue wait is in seconds. -/
structure Group where
  method : Method
  members : List Chan
  position : Nat
  overflow : Option GroupIx
  noAnswer : Option GroupIx
  queueLimit : Nat
  queueWait : Nat
  queue : List Chan
  deriving DecidableEq, Repr

/-- The symbols of a pattern: the digit symbols and `X` (R75). -/
inductive PatSym where
  | digit (d : Digit)
  | x
  deriving DecidableEq, Repr

/-- The action of a dial plan entry with its argument (R76). -/
inductive Action where
  | channel (c : Chan)
  | extension (offset : Fin 32)
  | group (g : GroupIx)
  | refer
  | deny
  deriving DecidableEq, Repr

/-- One dial plan entry (R74). -/
structure Entry where
  pattern : List PatSym
  action : Action
  minClass : Fin 4
  deriving DecidableEq, Repr

/-- A notice set or the notice enable mask: one bit per channel notice kind, bit 15 unused (R178, Codes). -/
abbrev NoticeSet := BitVec 16

/-- The state that an event of the Session Table changes (R13): the session records and everything that follows a
record's change in the same event: listen sources, desired levels, receivers and their wait queue, groups with their
camp-on queues and positions, bridges, battery qualifiers prepared for a seizure (R49) and notice sets. -/
structure Calls where
  sessions : Vector Session 32
  listen : Vector Listen 32
  out : Vector Levels 32
  battQ : Vector BattQual 32
  receivers : Vector Receiver 8
  rxQueue : List Chan
  groups : Vector Group 8
  bridges : Vector (List Chan) 4
  notices : Vector NoticeSet 32
  deriving DecidableEq, Repr

/-- The order frames of the scan link (02, section 2.1; R179). -/
inductive Order where
  | ringOff (c : Chan)
  | ringOn (c : Chan)
  | loopOpen (c : Chan)
  | loopClose (c : Chan)
  | clearAll
  | statusRequest
  deriving DecidableEq, Repr

/-- The Scan Link Port beside its output image (R33, R34, R38). -/
structure ScanLink where
  sent : Vector Levels 32
  position : Chan
  errorFlag : Bool
  clearPending : Bool
  statusPending : Bool
  flight : Option Order
  deriving DecidableEq, Repr

/-- The two parameter sets and the notice enable mask of the Parameter Store (R174). -/
structure ParamStore where
  staged : ParamSet
  current : ParamSet
  mask : NoticeSet
  deriving DecidableEq, Repr

/-- The mailbox states (R163). -/
inductive MailState where
  | idle
  | busy
  | done
  deriving DecidableEq, Repr

/-- The completion codes (R169) and NO_RESULT. -/
inductive Completion where
  | noResult
  | ok
  | unknown
  | wrongMode
  | badState
  | badArg
  | noResource
  | duplicate
  | inconsistent
  deriving DecidableEq, Repr

/-- A command in flight: its code and the copy of the parameter buffer made at the offer (R163). -/
structure InFlight where
  code : Byte
  params : Vector Byte 16
  deriving DecidableEq, Repr

/-- The mailbox fields (R163). -/
structure Mailbox where
  state : MailState
  params : Vector Byte 16
  writePage : Fin 2
  inFlight : Option InFlight
  result : Vector Byte 32
  readPage : Fin 4
  completion : Completion
  collision : Bool
  lastCode : Byte
  deriving DecidableEq, Repr

/-- The qualified events (R50). -/
inductive LineEvent where
  | seize
  | pulseDigit (d : Digit)
  | flash
  | disconnect
  | ringBurst
  | ringGone
  | battOn
  | farOpen
  deriving DecidableEq, Repr

/-- What LQ or a receiver has delivered to the session record of `c` and ST has not yet taken: a qualified event
(R50), or a tone digit with its receiver (R64). -/
inductive Delivery where
  | event (c : Chan) (ev : LineEvent)
  | digit (r : RxIx) (c : Chan) (d : Digit)
  deriving DecidableEq, Repr

/-- The operating states (R170). -/
inductive OpState where
  | config
  | run
  | stopping
  deriving DecidableEq, Repr

/-- How a watch combines its channels' states (R188). -/
inductive WatchMode where
  | any
  | all
  deriving DecidableEq, Repr

/-- A watch record (R188): channel `c` is bit `c` of the channel set, state code `s` bit `s` of the state set. -/
structure Watch where
  chans : BitVec 32
  states : BitVec 17
  mode : WatchMode
  armed : Bool
  fired : Bool
  deriving DecidableEq, Repr

/-- The Attention Unit beside the channel notice sets (R162, R180, R188). -/
structure Attention where
  linkErr : Bool
  irqaEnable : Bool
  irqbEnable : Bool
  doneEnable : Bool
  watches : Vector Watch 2
  deriving DecidableEq, Repr

/-- The PCM highway (R124, R125): the sample last received in each slot of PCMI, the samples arriving in the present
frame, the slot now being sent and received (none: no slot is driven or received), the last slot of the frame before
the clocks stop (31 when they run on; log 10), what each slot of PCMO carried when it was last sent (none: high
impedance ever since hardware reset), and a count of frames, the model's own argument of the free tone samples (log
9). -/
structure Highway where
  received : Vector Byte 32
  arriving : Vector Byte 32
  slot : Option Chan
  last : Chan
  carried : Vector (Option Byte) 32
  frames : Nat
  deriving DecidableEq, Repr

/-- The inputs of the processor port (R161; 00_scope.md, Signal summary): `cs`, `rd` and `wr` say that the pin is low,
`address` is A0 to A3, and `data` is what the processor drives on D0 to D7 in a write. -/
structure BusPins where
  cs : Bool
  rd : Bool
  wr : Bool
  address : Fin 16
  data : Byte
  deriving DecidableEq, Repr

/-- Why the part stops. The spec names no event that stops it, so there is no constructor: a command that may not be
carried out completes with a code (R169). -/
inductive Fault where
  deriving DecidableEq, Repr

/-- Why the model gives no meaning. -/
inductive Refusal where
  /-- Raised by an arm of exec whose row has no meaning yet; safe. No arm raises it now. -/
  | notModelled (mnemonic : String)
  deriving DecidableEq, Repr

/-- The whole state of the CL-3208. `pending` is the queue of commands that wait, first in, first out; `now` is the
timebase in ms; `deliveries` is what ST has yet to take, in the order of its delivery (log 1); `lastRead` is the model's
own record of the byte that the last read access gave; the pins D0 to D7 themselves are `State.dataBus` (log 11). -/
structure State where
  pending : List Instr
  resetAsserted : Bool
  now : Nat
  op : OpState
  calls : Calls
  link : ScanLink
  loopQ : Vector LoopQual 32
  ringQ : Vector RingQual 32
  deliveries : List Delivery
  plan : Vector (Option Entry) 128
  tones : Vector ToneGen 5
  highway : Highway
  params : ParamStore
  mbox : Mailbox
  attn : Attention
  lastRead : Option Byte
  deriving DecidableEq, Repr

/-- A session record after hardware reset (R2). -/
def Session.reset : Session where
  cls := .unused
  digitMode := .tone
  serviceClass := 0
  flashMode := .notice
  answerGroup := none
  state := .idle
  peer := none
  ringCount := 0
  phaseOn := false
  cycles := 0
  holds := none
  heldBy := none
  receiver := none
  bridge := none
  digits := []
  curGroup := none
  tried := 0
  timer := none
  toneKind := .reorder

/-- Both levels off and open (R38). -/
def Levels.rest : Levels := ⟨false, false⟩

/-- A loop qualifier after reset and at the start of a station's (R39, R7). The open start and the threshold copies
have no reset value in the spec: DESIGN CHOICE 0 (log 7). -/
def LoopQual.reset : LoopQual := ⟨.onhook, 0, none, 0, 0, 0, 0⟩

/-- A ring qualifier after reset and at the start of a trunk's (R45, R7). -/
def RingQual.reset : RingQual := ⟨.ringIdle, none, none, false⟩

/-- A battery qualifier after reset and at the start of a trunk's (R48, R7). -/
def BattQual.reset : BattQual := ⟨.absent, none⟩

/-- A receiver after reset (R51). -/
def Receiver.reset : Receiver := ⟨.inService, .free, none, none, none, none⟩

/-- A group after reset (R94). -/
def Group.reset : Group := ⟨.linear, [], 0, none, none, 0, 30, []⟩

/-- The highway after reset (R124): nothing sent, so PCMO is at high impedance in every slot. The incoming sample store
has no reset value in the spec: DESIGN CHOICE 0 (log 8). -/
def Highway.reset : Highway where
  received := Vector.replicate 32 0
  arriving := Vector.replicate 32 0
  slot := none
  last := 31
  carried := Vector.replicate 32 none
  frames := 0

/-- A watch after reset (R188). -/
def Watch.reset : Watch := ⟨0, 0, .any, false, false⟩

/-- The call state after reset (R2, R38, R48, R51, R53, R94, R122, R128, R180). -/
def Calls.reset : Calls where
  sessions := Vector.replicate 32 Session.reset
  listen := Vector.replicate 32 .none
  out := Vector.replicate 32 Levels.rest
  battQ := Vector.replicate 32 BattQual.reset
  receivers := Vector.replicate 8 Receiver.reset
  rxQueue := []
  groups := Vector.replicate 8 Group.reset
  bridges := Vector.replicate 4 []
  notices := Vector.replicate 32 0

/-- The mailbox after reset (R163). -/
def Mailbox.reset : Mailbox where
  state := .idle
  params := Vector.replicate 16 0
  writePage := 0
  inFlight := none
  result := Vector.replicate 32 0
  readPage := 0
  completion := .noResult
  collision := false
  lastCode := 0

/-- The state HARDWARE_RESET leaves, with RESET still asserted: RESET_END releases it (R38; log 6). -/
def State.reset : State where
  pending := []
  resetAsserted := true
  now := 0
  op := .config
  calls := Calls.reset
  link := ⟨Vector.replicate 32 Levels.rest, 31, false, true, true, none⟩
  loopQ := Vector.replicate 32 LoopQual.reset
  ringQ := Vector.replicate 32 RingQual.reset
  deliveries := []
  plan := Vector.replicate 128 none
  tones := toneStart
  highway := .reset
  params := ⟨paramDefault, paramDefault, 0x7FFF⟩
  mbox := Mailbox.reset
  attn := ⟨false, false, false, false, Vector.replicate 2 Watch.reset⟩
  lastRead := none

end Sys2Proof.Machine
end

