-- ==== Sys2Proof/Machine/Ops.lean ====
section
/-! DEFINITION. The operations every event of the Session Table is built from: reading and writing a record, entering a
state (R3, R4, R8, R9, R10), raising a notice (R181), the states a release or an outcome sends a channel to, and a
two-party connection. -/

namespace Sys2Proof.Machine

/-- Every channel, in ascending number. -/
def allChans : List Chan := List.finRange 32

/-- The fifteen channel notice kinds (R180), in the order of their bits (R178, Codes). -/
inductive Notice where
  | seize
  | refer
  | vacant
  | barred
  | busy
  | noanswer
  | answer
  | flash
  | release
  | ringin
  | abandon
  | trunkfault
  | rxwait
  | transfer
  | queueout
  deriving DecidableEq, Repr

/-- The bit of a notice kind in a notice set and in the mask (R178, Codes). -/
def Notice.bit : Notice → Nat
  | .seize => 0
  | .refer => 1
  | .vacant => 2
  | .barred => 3
  | .busy => 4
  | .noanswer => 5
  | .answer => 6
  | .flash => 7
  | .release => 8
  | .ringin => 9
  | .abandon => 10
  | .trunkfault => 11
  | .rxwait => 12
  | .transfer => 13
  | .queueout => 14

/-- What an event of the Session Table reads and does not change: the operating state, the current parameter set, the
notice enable mask, the dial plan, and the loop and ring qualifiers as the event finds them. -/
structure Env where
  op : OpState
  params : ParamSet
  mask : NoticeSet
  plan : Vector (Option Entry) 128
  loopQ : Vector LoopQual 32
  ringQ : Vector RingQual 32

/-- What the events of a state read. -/
def State.env (s : State) : Env := ⟨s.op, s.params.current, s.params.mask, s.plan, s.loopQ, s.ringQ⟩

/-- A duration, from the current parameter set (R4, R174). -/
def Env.time (e : Env) (i : ParamIx) : Nat := look e.params i

/-! ### Records -/

/-- The session record of channel `c`. -/
def Calls.ses (k : Calls) (c : Chan) : Session := look k.sessions c

/-- The record of `c` replaced. -/
def Calls.setSes (c : Chan) (r : Session) (k : Calls) : Calls := { k with sessions := put k.sessions c r }

/-- The record of `c` changed by `f`. -/
def Calls.alter (c : Chan) (f : Session → Session) (k : Calls) : Calls := k.setSes c (f (k.ses c))

/-- The listen source of `c` written. -/
def Calls.setListen (c : Chan) (l : Listen) (k : Calls) : Calls := { k with listen := put k.listen c l }

/-- The desired levels of `c` written into the output image (R33). -/
def Calls.setOut (c : Chan) (v : Levels) (k : Calls) : Calls := { k with out := put k.out c v }

/-- A channel's desired levels. -/
def Calls.levels (k : Calls) (c : Chan) : Levels := look k.out c

/-- A notice raised on `c`: recorded when its kind is enabled in the mask (R181, R17). -/
def Calls.raise (e : Env) (n : Notice) (c : Chan) (k : Calls) : Calls :=
  if e.mask.getLsbD n.bit then
    { k with notices := put k.notices c (look k.notices c ||| BitVec.twoPow 16 n.bit) }
  else k

/-- A group record. -/
def Calls.group (k : Calls) (g : GroupIx) : Group := look k.groups g

/-- A group record changed by `f`. -/
def Calls.alterGroup (g : GroupIx) (f : Group → Group) (k : Calls) : Calls :=
  { k with groups := put k.groups g (f (k.group g)) }

/-! ### States -/

/-- A session that is neither IDLE nor BLOCKED (R7, R28). -/
def Session.active (r : Session) : Bool := r.state != .idle && r.state != .blocked

/-- The states in which the peer field is set (R3). -/
def SState.hasPeer : SState → Bool
  | .talk | .ringing | .seizing | .trunkwait => true
  | _ => false

/-- The states in which an originator keeps a ringing set (R3). -/
def SState.rings : SState → Bool
  | .outring | .ringin => true
  | _ => false

/-- The four placement states, in which the current group and the groups tried are set (R3). -/
def SState.placing : SState → Bool
  | .outring | .ringin | .queued | .trunkwait => true
  | _ => false

/-- A record that enters state `st`: the fields that R3 says return to their reset values do so, and the timer stops
(R4). A new state's own fields and timer are set after it. -/
def Session.moved (st : SState) (r : Session) : Session :=
  { r with
    state := st
    peer := if st.hasPeer then r.peer else none
    ringCount := if st.rings then r.ringCount else 0
    phaseOn := if st.rings then r.phaseOn else false
    cycles := if st.rings then r.cycles else 0
    holds := if st = .releasing ∨ st = .idle then none else r.holds
    heldBy := if st = .held then r.heldBy else none
    receiver := if st = .collecting then r.receiver else none
    bridge := if st = .confer then r.bridge else none
    digits := if st = .collecting ∨ st = .idle then [] else r.digits
    curGroup := if st.placing then r.curGroup else none
    tried := if st.placing then r.tried else 0
    timer := none }

/-- The record's timer started, replacing any that ran (R4). -/
def Session.startTimer (kind : TimerKind) (left : Nat) (r : Session) : Session := { r with timer := some ⟨kind, left⟩ }

/-- The listen source R8 and R9 give for a record on entering its state. -/
def Session.listen (r : Session) : Listen :=
  match r.state with
  | .collecting => .tone .dial
  | .outring => .tone .ringback
  | .queued => if r.cls = .station then .tone .ringback else .none
  | .talk => match r.peer with
    | some p => .slot p
    | none => .none
  | .held => .tone .hold
  | .confer => match r.bridge with
    | some b => .bridge b
    | none => .none
  | .toneout => match r.toneKind with
    | .busy => .tone .busy
    | .reorder => .tone .reorder
  | .idle | .blocked | .seized | .hostwait | .trunkwait | .ringing | .lockout | .releasing | .ringin | .seizing => .none

/-- The desired levels R8, R9 and R10 give for a record on entering its state, from those it had: a ring output is off
(a station that is rung gets its originator's phase after it, R104), and a trunk's loop is closed in SEIZING, TALK, HELD
and CONFER, as it stood in HOSTWAIT, and open elsewhere. -/
def Session.levels (r : Session) (was : Levels) : Levels where
  ring := false
  loop := match r.state with
    | .seizing | .talk | .held | .confer => r.cls == .trunk
    | .hostwait => r.cls == .trunk && was.loop
    | .idle | .blocked | .seized | .collecting | .outring | .trunkwait | .queued | .ringing | .toneout | .lockout
    | .releasing | .ringin => false

/-- Channel `c` enters state `st` (R10): the fields of the state left are given their reset values (R3), `f` sets the
fields and the timer of the new one, and the listen source and the desired levels follow. -/
def Calls.enter (c : Chan) (st : SState) (f : Session → Session) (k : Calls) : Calls :=
  let r := f ((k.ses c).moved st)
  { k with
    sessions := put k.sessions c r
    listen := put k.listen c r.listen
    out := put k.out c (r.levels (k.levels c)) }

/-- IDLE, by the clearing stage of R27 alone. -/
def Calls.toIdle (c : Chan) (k : Calls) : Calls := k.enter c .idle id

/-- RELEASING with the GUARD timer of the class (R4, R16, R26). -/
def Calls.toReleasing (e : Env) (c : Chan) (k : Calls) : Calls :=
  k.enter c .releasing fun r =>
    r.startTimer .guard (if r.cls = .trunk then e.time Param.guardTrunk else e.time Param.guardStation)

/-- TONEOUT with a kind and a fresh TONEOUT timer (R24). -/
def Calls.toToneout (e : Env) (kind : ToneOut) (c : Chan) (k : Calls) : Calls :=
  k.enter c .toneout fun r => { r with toneKind := kind }.startTimer .toneout (e.time Param.toneoutTime)

/-- LOCKOUT (R25). -/
def Calls.toLockout (c : Chan) (k : Calls) : Calls := k.enter c .lockout id

/-- HOSTWAIT with listen source NONE; a trunk's loop stays as it stood (R9, R87). -/
def Calls.toHostwait (c : Chan) (k : Calls) : Calls := k.enter c .hostwait id

/-- HOSTWAIT of a held party handed on: a trunk is answered, with its loop closed (R146, R150). -/
def Calls.toHostwaitAnswered (c : Chan) (k : Calls) : Calls :=
  (k.toHostwait c).setOut c ⟨false, (k.ses c).cls == .trunk⟩

/-- TALK with peer `p` (R8, R9). -/
def Calls.toTalk (c p : Chan) (k : Calls) : Calls := k.enter c .talk fun r => { r with peer := some p }

/-- A two-party connection: each names the other as peer and hears the other's slot (R12, R123). -/
def Calls.pair (a b : Chan) (k : Calls) : Calls := (k.toTalk a b).toTalk b a

/-- HELD by `holder` (R140). -/
def Calls.toHeld (c holder : Chan) (k : Calls) : Calls := k.enter c .held fun r => { r with heldBy := some holder }

/-- CONFER in bridge `b` (R131, R133). -/
def Calls.toConfer (c : Chan) (b : BridgeIx) (k : Calls) : Calls := k.enter c .confer fun r => { r with bridge := some b }

/-- The party whose partner has gone: a station to TONEOUT REORDER, a trunk to RELEASING (R20). -/
def Calls.dropPartner (e : Env) (p : Chan) (k : Calls) : Calls :=
  if (k.ses p).cls = .trunk then k.toReleasing e p else k.toToneout e .reorder p

/-- The ringing set of originator `o`: the RINGING stations whose peer it is, in ascending number (R12). -/
def Calls.ringSet (k : Calls) (o : Chan) : List Chan :=
  allChans.filter fun d => (k.ses d).state = .ringing && (k.ses d).peer = some o

/-- The stations that the ringing set of `c` returns to IDLE when `c` gives its state up (R11): none unless `c` is an
originator with a ringing set. -/
def Calls.returning (k : Calls) (c : Chan) : List Chan := if (k.ses c).state.rings then k.ringSet c else []

/-- `c` keeps no ringing set: count 0, cadence OFF with cycles 0 (R11, R145). -/
def Session.noRinging (r : Session) : Session := { r with ringCount := 0, phaseOn := false, cycles := 0 }

/-- The ringing set of `o` given up: each station cleared to IDLE (stage 1 of R27), the count 0 and the cadence stopped
(R11, R107). -/
def Calls.clearRinging (o : Chan) (k : Calls) : Calls :=
  ((k.ringSet o).foldl (fun k d => k.toIdle d) k).alter o Session.noRinging

/-- `c` leaves every camp-on queue; the others keep their order (R115). -/
def Calls.leaveQueues (c : Chan) (k : Calls) : Calls :=
  { k with groups := every (fun g => { g with queue := g.queue.filter (· ≠ c) }) k.groups }

end Sys2Proof.Machine
end

