-- ==== Sys2Proof/Machine/Bridges.lean ====
section
/-! DEFINITION. The bridge records of the Connection Map: forming, growing, shrinking and dissolving (R128 to R135). -/

namespace Sys2Proof.Machine

/-- Every bridge, in ascending number. -/
def allBridges : List BridgeIx := List.finRange 4

/-- The member list of a bridge, in order of joining (R128). -/
def Calls.members (k : Calls) (b : BridgeIx) : List Chan := look k.bridges b

/-- The member list of a bridge replaced. -/
def Calls.setMembers (b : BridgeIx) (l : List Chan) (k : Calls) : Calls := { k with bridges := put k.bridges b l }

/-- The lowest-numbered free bridge (R131). -/
def Calls.lowestFreeBridge (k : Calls) : Option BridgeIx := allBridges.find? fun b => k.members b = []

/-- The forming of bridge `b` by `ch`, its held party `h` and its partner `p` (R131). -/
def Calls.formBridge (b : BridgeIx) (ch h p : Chan) (k : Calls) : Calls :=
  ((((k.setMembers b [ch, h, p]).alter ch fun r => { r with holds := none }).toConfer ch b).toConfer h b).toConfer p b

/-- The holder of a held channel holds nobody (R11, R20). -/
def Calls.freeHolder (c : Chan) (k : Calls) : Calls :=
  match (k.ses c).heldBy with
  | some h => k.alter h fun r => { r with holds := none }
  | none => k

/-- The joining of `c` to bridge `b` (R133). -/
def Calls.joinBridge (b : BridgeIx) (c : Chan) (k : Calls) : Calls :=
  ((if (k.ses c).state = .held then k.freeHolder c else k).setMembers b (k.members b ++ [c])).toConfer c b

/-- A member leaves its bridge, which shrinks (R134): with two members left it dissolves, and they enter TALK as mutual
peers (R135). -/
def Calls.leaveBridge (c : Chan) (k : Calls) : Calls :=
  match (k.ses c).bridge with
  | none => k
  | some b =>
    match (k.members b).filter (· ≠ c) with
    | [x, y] => (k.setMembers b []).pair x y
    | rest => k.setMembers b rest

end Sys2Proof.Machine
end

