-- ==== Sys2Proof/Machine/Receivers.lean ====
section
/-! DEFINITION. The Digit Receiver Pool towards the session records: lending, the wait queue and return (R54 to R58), and
the seizure that asks for a receiver (R14, R68). -/

namespace Sys2Proof.Machine

/-- Every receiver, in ascending number. -/
def allReceivers : List RxIx := List.finRange 8

/-- A receiver record. -/
def Calls.rx (k : Calls) (r : RxIx) : Receiver := look k.receivers r

/-- A receiver record replaced. -/
def Calls.setRx (r : RxIx) (x : Receiver) (k : Calls) : Calls := { k with receivers := put k.receivers r x }

/-- A receiver lent to `c`: QUIET, current digit none, detector absent, timer stopped (R54, R58). -/
def Receiver.lentTo (c : Chan) (x : Receiver) : Receiver := ⟨x.service, .quiet, some c, none, none, none⟩

/-- A receiver FREE with service IN (R57). -/
def Receiver.freed : Receiver := ⟨.inService, .free, none, none, none, none⟩

/-- A receiver OFFLINE with service OUT (R57). -/
def Receiver.retired : Receiver := ⟨.out, .offline, none, none, none, none⟩

/-- Entering COLLECTING (R68): the list emptied, dial tone, FIRST_DIGIT started, the receiver named. -/
def Calls.startCollecting (e : Env) (c : Chan) (rx : Option RxIx) (k : Calls) : Calls :=
  k.enter c .collecting fun r => { r with receiver := rx }.startTimer .firstDigit (e.time Param.firstDigitTime)

/-- Receiver `r` assigned to `c`, which enters COLLECTING with it (R54, R58). -/
def Calls.lend (e : Env) (r : RxIx) (c : Chan) (k : Calls) : Calls :=
  (k.setRx r ((k.rx r).lentTo c)).startCollecting e c (some r)

/-- The lowest-numbered FREE receiver (R54). -/
def Calls.lowestFree (k : Calls) : Option RxIx := allReceivers.find? fun r => (k.rx r).state = .free

/-- `c` joins the tail of the receiver wait queue and enters SEIZED with RX_WAIT started (R54, R55). -/
def Calls.waitForReceiver (e : Env) (c : Chan) (k : Calls) : Calls :=
  { k with rxQueue := k.rxQueue ++ [c] }.enter c .seized fun r => r.startTimer .rxWait (e.time Param.rxWaitNotice)

/-- The request for a receiver and DRP's answer in the same event (R54). -/
def Calls.requestReceiver (e : Env) (c : Chan) (k : Calls) : Calls :=
  match k.lowestFree with
  | some r => k.lend e r c
  | none => k.waitForReceiver e c

/-- A station begins to dial according to its digit mode (R14, R140): TONE and EITHER ask for a receiver, PULSE
collects without one. -/
def Calls.startDialling (e : Env) (c : Chan) (k : Calls) : Calls :=
  match (k.ses c).digitMode with
  | .pulse => k.startCollecting e c none
  | .tone | .either => k.requestReceiver e c

/-- A seizure (R14): the notice SEIZE, and the station begins to dial. -/
def Calls.seizure (e : Env) (c : Chan) (k : Calls) : Calls := (k.raise e .seize c).startDialling e c

/-- Receiver `r` is returned (R57): pending withdrawal it goes OFFLINE; else it is assigned to the queue head (R58), or
becomes FREE. -/
def Calls.returnReceiver (e : Env) (r : RxIx) (k : Calls) : Calls :=
  match (k.rx r).service with
  | .withdrawPending | .out => k.setRx r .retired
  | .inService =>
    match k.rxQueue with
    | h :: q => { k with rxQueue := q }.lend e r h
    | [] => k.setRx r .freed

end Sys2Proof.Machine
end

