-- ==== Sys2Proof/Machine/Hunt.lean ====
section
/-! DEFINITION. The Hunt Unit's placements: eligibility, hunts, ringing, trunk seizure, camp-on queues, the free path and
what entering IDLE leads to (R27, R98 to R118), and the no-answer outcome, the answer and the seize failure. -/

namespace Sys2Proof.Machine

/-- Every group, in ascending number. -/
def allGroups : List GroupIx := List.finRange 8

/-- Member `m` is eligible for originator `o` in a group of method `method` (R98). -/
def Calls.eligible (k : Calls) (method : Method) (o m : Chan) : Bool :=
  (k.ses m).cls != .unused && (k.ses m).state == .idle && m != o
    && !((k.ses m).cls == .trunk && method == .all)
    && !((k.ses m).cls == .trunk && (k.ses o).cls == .trunk)

/-- Station `d` is rung for `o` (R104): the first one starts the cadence, every one takes the present phase. -/
def Calls.ring (e : Env) (o d : Chan) (k : Calls) : Calls :=
  let k1 :=
    if (k.ses o).state.rings && 0 < (k.ses o).ringCount then
      k.alter o fun r => { r with ringCount := r.ringCount + 1 }
    else
      k.enter o (if (k.ses o).cls = .trunk then .ringin else .outring) fun r =>
        { r with ringCount := 1, phaseOn := true, cycles := 0 }.startTimer .cadence (e.time Param.ringOnTime)
  let k2 := k1.enter d .ringing fun r => { r with peer := some o }
  k2.setOut d ⟨(k2.ses o).phaseOn, false⟩

/-- The battery qualifier of a trunk entering SEIZING is set up for a fresh BATT_ON (R49). -/
def BattQual.prepared (e : Env) (q : BattQual) : BattQual :=
  match q.state with
  | .absent => q
  | .timing => q
  | .present => ⟨.timing, some (e.time Param.seizeQual)⟩
  | .dropTiming => ⟨.absent, none⟩

/-- Trunk `t` is seized for `o` (R110). -/
def Calls.seizeTrunk (e : Env) (o t : Chan) (k : Calls) : Calls :=
  let k1 := k.enter t .seizing fun r => { r with peer := some o }.startTimer .seizeWait (e.time Param.trunkSeizeWait)
  let k2 := { k1 with battQ := put k1.battQ t ((look k1.battQ t).prepared e) }
  k2.enter o .trunkwait fun r => { r with peer := some t }

/-- Channel `m` chosen for `o`: a trunk is seized, a station is rung (R99, R117). -/
def Calls.placeOn (e : Env) (o m : Chan) (k : Calls) : Calls :=
  if (k.ses m).cls = .trunk then k.seizeTrunk e o m else k.ring e o m

/-- The busy outcome (R103). -/
def Calls.busyOutcome (e : Env) (o : Chan) (k : Calls) : Calls :=
  (if (k.ses o).cls = .trunk then k.toHostwait o else k.toToneout e .busy o).raise e .busy o

/-- `o` joins the tail of group `g`'s camp-on queue (R116). -/
def Calls.joinQueue (g : GroupIx) (o : Chan) (k : Calls) : Calls :=
  (k.alterGroup g fun x => { x with queue := x.queue ++ [o] }).enter o .queued fun r =>
    r.startTimer .queueWait ((k.group g).queueWait * 1000)

/-- The members in the order in which a hunt of the group's method examines them (R100, R101). -/
def Group.searchOrder (g : Group) : List Chan :=
  match g.method with
  | .linear | .all => g.members
  | .circular =>
    let start := (g.position + 1) % g.members.length
    g.members.drop start ++ g.members.take start

/-- The choice of a hunt in `g` among the members `cands`, and the placement on what it chose; none when nothing is
eligible (R100, R101). -/
def Calls.choose (e : Env) (g : GroupIx) (o : Chan) (cands : List Chan) (k : Calls) : Option Calls :=
  match (k.group g).method with
  | .linear => (cands.find? (k.eligible .linear o)).map fun m => k.placeOn e o m
  | .circular =>
    (cands.find? (k.eligible .circular o)).map fun m =>
      (k.alterGroup g fun x => { x with position := x.members.idxOf m }).placeOn e o m
  | .all =>
    match cands.filter (k.eligible .all o) with
    | [] => none
    | ms => some (ms.foldl (fun k m => k.ring e o m) k)

/-- How a hunt that found nothing in `g` goes on (R102). -/
inductive Onward where
  | queue
  | overflow (h : GroupIx)
  | busy
  deriving DecidableEq, Repr

/-- The group named by a link, unless the originator has tried it (R102, R107, R116). -/
def Calls.untried (k : Calls) (o : Chan) (link : Option GroupIx) : Option GroupIx :=
  match link with
  | some h => if (k.ses o).tried.getLsbD h then none else some h
  | none => none

/-- The overflow step or the busy step (R102, R116). -/
def Calls.overflowStep (k : Calls) (g : GroupIx) (o : Chan) : Onward :=
  match k.untried o (k.group g).overflow with
  | some h => .overflow h
  | none => .busy

/-- The first of the steps of R102 whose condition holds. -/
def Calls.onward (k : Calls) (g : GroupIx) (o : Chan) : Onward :=
  if 0 < (k.group g).queueLimit && (k.group g).queue.length < (k.group g).queueLimit then .queue
  else k.overflowStep g o

/-- A hunt in `g` joins the attempt: `g` is added to the groups tried and becomes the current group (R99). -/
def Calls.markGroup (g : GroupIx) (o : Chan) (k : Calls) : Calls :=
  k.alter o fun r => { r with tried := r.tried ||| BitVec.twoPow 8 g, curGroup := some g }

/-- A hunt in `g` for `o`, with its overflow chain (R99 to R103). The fuel counts the groups the chain may still visit:
each is visited at most once, so eight is enough. -/
def Calls.hunt (e : Env) : Nat → GroupIx → Chan → Calls → Calls
  | 0, _, o, k => k.busyOutcome e o
  | n + 1, g, o, k =>
    let k1 := k.markGroup g o
    match k1.choose e g o (k1.group g).searchOrder with
    | some k2 => k2
    | none =>
      match k1.onward g o with
      | .queue => k1.joinQueue g o
      | .overflow h => Calls.hunt e n h o k1
      | .busy => k1.busyOutcome e o

/-- The number of groups, the most a chain of hunts visits (R102). -/
def huntFuel : Nat := 8

/-- A placement attempt begins: groups tried empty, current group none (R99, R105). -/
def Calls.newAttempt (o : Chan) (k : Calls) : Calls := k.alter o fun r => { r with tried := 0, curGroup := none }

/-- A hunt that starts a placement attempt (R89, R99, R114, R153). -/
def Calls.huntFresh (e : Env) (g : GroupIx) (o : Chan) (k : Calls) : Calls := (k.newAttempt o).hunt e huntFuel g o

/-- A direct placement of `o` on `d` (R105). -/
def Calls.placeDirect (e : Env) (o d : Chan) (k : Calls) : Calls :=
  let k1 := k.newAttempt o
  match (k.ses d).state, (k.ses d).cls with
  | .idle, .station => k1.ring e o d
  | .idle, .trunk => if (k.ses o).cls = .trunk then k1.busyOutcome e o else k1.seizeTrunk e o d
  | _, _ => k1.busyOutcome e o

/-- An incoming call on trunk `t` (R114). -/
def Calls.incomingCall (e : Env) (t : Chan) (k : Calls) : Calls :=
  let k1 := k.raise e .ringin t
  match (k.ses t).answerGroup with
  | none => k1.toHostwait t
  | some g => k1.huntFresh e g t

/-- The line check of R27: an off-hook station is taken as seized, a ringing trunk as an incoming call. -/
def Calls.lineCheck (e : Env) (c : Chan) (k : Calls) : Calls :=
  match (k.ses c).cls with
  | .station =>
    match (look e.loopQ c).state with
    | .offhook | .openTiming => k.seizure e c
    | .onhook | .seizeTiming => k
  | .trunk => if (look e.ringQ c).state = .inBurst then k.incomingCall e c else k
  | .unused => k

/-- Group `g` can use the free channel `c` for the head of its queue (R117). -/
def Calls.queueServes (k : Calls) (c : Chan) (g : GroupIx) : Bool :=
  (k.group g).members.contains c &&
    match (k.group g).queue with
    | h :: _ => k.eligible (k.group g).method h c
    | [] => false

/-- The head of group `g`'s queue is placed on `c` (R117). -/
def Calls.serveQueue (e : Env) (c : Chan) (g : GroupIx) (k : Calls) : Calls :=
  match (k.group g).queue with
  | h :: q =>
    (k.alterGroup g fun x =>
      { x with queue := q, position := if x.method = .circular then x.members.idxOf c else x.position }).placeOn e h c
  | [] => k

/-- The free path: `c` is offered to the camp-on queues in ascending group number (R117). -/
def Calls.freePath (e : Env) (c : Chan) (k : Calls) : Calls :=
  match allGroups.find? (k.queueServes c) with
  | some g => k.serveQueue e c g
  | none => k

/-- The line check and the free path for a channel that entered IDLE (stages 2 and 3 of R27); nothing when it is IDLE no
longer (R107). -/
def Calls.afterIdle (e : Env) (c : Chan) (k : Calls) : Calls :=
  if (k.ses c).state = .idle then
    let k1 := k.lineCheck e c
    if (k1.ses c).state = .idle ∧ (k1.ses c).cls ≠ .unused then k1.freePath e c else k1
  else k

/-- Stages 2 and 3 of R27 for the channels one event returned to IDLE, in the order given (R107, R118); in RUN only. -/
def Calls.idleStages (e : Env) (cs : List Chan) (k : Calls) : Calls :=
  if e.op = .run then cs.foldl (fun k c => k.afterIdle e c) k else k

/-- Entering IDLE by all the stages of R27. -/
def Calls.enterIdle (e : Env) (c : Chan) (k : Calls) : Calls := (k.toIdle c).idleStages e [c]

/-- Every station of the ringing set of `o` has its ring output set (R106, R107). -/
def Calls.ringOutputs (o : Chan) (on : Bool) (k : Calls) : Calls :=
  (k.ringSet o).foldl (fun k d => k.setOut d ⟨on, false⟩) k

/-- The no-answer group that an originator's placement may go on to (R107). -/
def Calls.noAnswerGroup (k : Calls) (o : Chan) : Option GroupIx :=
  match (k.ses o).curGroup with
  | some g => k.untried o (k.group g).noAnswer
  | none => none

/-- The no-answer outcome (R107; R12 when no station is left to ring). -/
def Calls.noAnswer (e : Env) (o : Chan) (k : Calls) : Calls :=
  let k0 := k.raise e .noanswer o
  let back := k0.ringSet o
  match k0.noAnswerGroup o with
  | some n => ((k0.clearRinging o).hunt e huntFuel n o).idleStages e back
  | none =>
    if (k0.ses o).cls = .trunk then
      if back = [] then k0.toHostwait o
      else
        (k0.alter o fun r =>
          { r with cycles := 0, phaseOn := true }.startTimer .cadence (e.time Param.ringOnTime)).ringOutputs o true
    else ((k0.clearRinging o).toToneout e .busy o).idleStages e back

/-- Station `d`, RINGING for `o`, answers (R108). -/
def Calls.answer (e : Env) (d o : Chan) (k : Calls) : Calls :=
  let others := (k.ringSet o).filter (· ≠ d)
  let k1 := (k.pair d o).raise e .answer o
  (others.foldl (fun k c => k.toIdle c) k1).idleStages e others

/-- The members that a hunt continued after the failure of trunk `t` examines (R111). -/
def Group.searchAfter (g : Group) (t : Chan) : List Chan :=
  match g.method with
  | .linear => if g.members.contains t then g.members.drop (g.members.idxOf t + 1) else g.members
  | .circular | .all => g.searchOrder

/-- The originator of a failed seizure goes on (R111): its hunt continues in its current group without adding it to the
groups tried again; a direct placement gives the busy outcome. -/
def Calls.continueHunt (e : Env) (t o : Chan) (k : Calls) : Calls :=
  match (k.ses o).curGroup with
  | none => k.busyOutcome e o
  | some g =>
    match k.choose e g o ((k.group g).searchAfter t) with
    | some k2 => k2
    | none =>
      match k.onward g o with
      | .queue => k.joinQueue g o
      | .overflow h => k.hunt e huntFuel h o
      | .busy => k.busyOutcome e o

/-- The seize failure of trunk `t` (R111). -/
def Calls.seizeFailed (e : Env) (t : Chan) (k : Calls) : Calls :=
  let k1 := (k.enter t .blocked id).raise e .trunkfault t
  match (k.ses t).peer with
  | some o => k1.continueHunt e t o
  | none => k1

/-- The cut-through of trunk `t` (R110). -/
def Calls.cutThrough (t : Chan) (k : Calls) : Calls :=
  match (k.ses t).peer with
  | some o => k.pair t o
  | none => k

/-- The CADENCE expiry of originator `o` (R106). -/
def Calls.cadence (e : Env) (o : Chan) (k : Calls) : Calls :=
  if (k.ses o).phaseOn then
    (k.alter o fun r => { r with phaseOn := false }.startTimer .cadence (e.time Param.ringOffTime)).ringOutputs o false
  else
    let done := min ((k.ses o).cycles + 1) 15
    let k1 := k.alter o fun r => { r with cycles := done }
    if e.time Param.noAnswerCycles ≤ done then k1.noAnswer e o
    else
      (k1.alter o fun r => { r with phaseOn := true }.startTimer .cadence (e.time Param.ringOnTime)).ringOutputs o true

/-- The QUEUE_WAIT expiry of originator `o` (R116). -/
def Calls.queueOut (e : Env) (o : Chan) (k : Calls) : Calls :=
  let k1 := (k.leaveQueues o).raise e .queueout o
  match (k.ses o).curGroup with
  | none => k1.busyOutcome e o
  | some g =>
    match k1.overflowStep g o with
    | .overflow h => k1.hunt e huntFuel h o
    | .queue | .busy => k1.busyOutcome e o

end Sys2Proof.Machine
end

