-- ==== Sys2Proof/Machine/Release.lean ====
section
/-! DEFINITION. Giving up what a state holds (R11, R20, R141), handing a held party on (R144 to R146, R150), the release
cascade (R16, R22), and hold, consultation and return (R140, R142). -/

namespace Sys2Proof.Machine

/-- `c` gives up what its state holds, and each party linked to it by that state takes its new state (R11, R20, R141).
The stations of a ringing set are cleared here; their line check and free path come at the event's end (R118). -/
def Calls.giveUp (e : Env) (c : Chan) (k : Calls) : Calls :=
  match (k.ses c).state with
  | .seized => { k with rxQueue := k.rxQueue.filter (· ≠ c) }
  | .collecting =>
    match (k.ses c).receiver with
    | some r => (k.alter c fun x => { x with receiver := none }).returnReceiver e r
    | none => k
  | .outring | .ringin => k.clearRinging c
  | .trunkwait =>
    match (k.ses c).peer with
    | some t => (k.alter c fun x => { x with peer := none }).toReleasing e t
    | none => k
  | .queued => k.leaveQueues c
  | .talk =>
    match (k.ses c).peer with
    | some p => (k.alter c fun x => { x with peer := none }).dropPartner e p
    | none => k
  | .held => k.freeHolder c
  | .confer => k.leaveBridge c
  | .seizing =>
    match (k.ses c).peer with
    | some o => (k.alter c fun x => { x with peer := none }).toToneout e .reorder o
    | none => k
  | .idle | .blocked | .hostwait | .ringing | .toneout | .lockout | .releasing => k

/-- The originator role of `ch` as ringing originator passes to station `h` whole (R145, Ringing set). -/
def Calls.passRinging (ch h : Chan) (k : Calls) : Calls :=
  let r := k.ses ch
  let k1 := (k.ringSet ch).foldl (fun k d => k.alter d fun x => { x with peer := some h }) k
  let k2 := k1.enter h .outring fun x =>
    { x with ringCount := r.ringCount, phaseOn := r.phaseOn, cycles := r.cycles, timer := r.timer,
             curGroup := r.curGroup, tried := r.tried }
  k2.alter ch fun x => { x.noRinging with timer := none }

/-- The seizing trunk of `ch` passes to station `h` (R145, Seizing trunk). -/
def Calls.passTrunk (ch h t : Chan) (k : Calls) : Calls :=
  let r := k.ses ch
  let k1 := k.alter t fun x => { x with peer := some h }
  let k2 := k1.enter h .trunkwait fun x => { x with peer := some t, curGroup := r.curGroup, tried := r.tried }
  k2.alter ch fun x => { x with peer := none }

/-- The camp-on queue place of `ch` passes to station `h` (R145, Queue place). -/
def Calls.passQueue (ch h : Chan) (k : Calls) : Calls :=
  let r := k.ses ch
  let k1 := { k with
    groups := every (fun g : Group => { g with queue := g.queue.map fun x => if x = ch then h else x }) k.groups }
  let k2 := k1.enter h .queued fun x => { x with curGroup := r.curGroup, tried := r.tried, timer := r.timer }
  k2.alter ch fun x => { x with timer := none }

/-- The held party of a holder whose state has nothing to pass (R144, last row): a station to TONEOUT REORDER, a trunk
to RELEASING; by TRANSFER (`park`) it goes to HOSTWAIT with the notice TRANSFER instead (R150). -/
def Calls.partHeld (e : Env) (park : Bool) (h : Chan) (k : Calls) : Calls :=
  if park then (k.toHostwaitAnswered h).raise e .transfer h else k.dropPartner e h

/-- The held party `h` of `ch` is dealt with by the state of `ch` (R144, R150). -/
def Calls.handOn (e : Env) (park : Bool) (ch h : Chan) (k : Calls) : Calls :=
  let r := k.ses ch
  let k0 := k.alter ch fun x => { x with holds := none }
  let trunk := (k.ses h).cls = .trunk
  match r.state with
  | .talk =>
    match r.peer with
    | some p => ((k0.alter ch fun x => { x with peer := none }).pair h p).raise e .transfer h
    | none => k0.partHeld e park h
  | .outring => (if trunk then k0.toHostwaitAnswered h else k0.passRinging ch h).raise e .transfer h
  | .trunkwait =>
    match r.peer with
    | some t => (if trunk then k0.toHostwaitAnswered h else k0.passTrunk ch h t).raise e .transfer h
    | none => k0.partHeld e park h
  | .queued => (if trunk then k0.toHostwaitAnswered h else k0.passQueue ch h).raise e .transfer h
  | .seized | .collecting | .hostwait | .toneout | .lockout => k0.partHeld e park h
  | .idle | .blocked | .ringing | .held | .confer | .releasing | .ringin | .seizing => k0.partHeld e park h

/-- Stage 1 of a release: the held party, if any, is handed on (R16, R144). -/
def Calls.handOnHeld (e : Env) (park : Bool) (ch : Chan) (k : Calls) : Calls :=
  match (k.ses ch).holds with
  | some h => k.handOn e park ch h
  | none => k

/-- Stages 1 to 3 of R16, then `last` for the channel itself, then the line checks and the free path of the stations
that the event returned to IDLE (R118). -/
def Calls.unwind (e : Env) (park : Bool) (c : Chan) (last : Calls → Calls) (k : Calls) : Calls :=
  let k1 := k.handOnHeld e park c
  let back := k1.returning c
  (last (k1.giveUp e c)).idleStages e back

/-- The release of `c` by its own DISCONNECT or FAR_OPEN (R16, R18, R21). -/
def Calls.release (e : Env) (c : Chan) (k : Calls) : Calls :=
  k.unwind e false c fun k => (k.toReleasing e c).raise e .release c

/-- The abandonment of an unanswered trunk (R22). -/
def Calls.abandon (e : Env) (c : Chan) (k : Calls) : Calls :=
  let back := k.returning c
  (((k.giveUp e c).toReleasing e c).raise e .abandon c).idleStages e back

/-- A consultation is started on `ch` in TALK with `p` (R140). -/
def Calls.consult (e : Env) (ch p : Chan) (k : Calls) : Calls :=
  ((k.toHeld p ch).alter ch fun r => { r with holds := some p, peer := none }).startDialling e ch

/-- The return of `ch` to its held party `h` (R141, R142). -/
def Calls.returnToHeld (e : Env) (ch h : Chan) (k : Calls) : Calls :=
  let back := k.returning ch
  (((k.giveUp e ch).alter ch fun r => { r with holds := none }).pair ch h).idleStages e back

/-- The condition of a consultation: `ch` is a station in TALK, it and its peer hold nobody (R139, R148). Answers the
peer. -/
def Calls.consultPeer (k : Calls) (ch : Chan) : Option Chan :=
  let r := k.ses ch
  if r.cls = .station ∧ r.state = .talk ∧ r.holds = none then
    match r.peer with
    | some p => if (k.ses p).holds = none then some p else none
    | none => none
  else none

/-- The states of a holder (R3, R139). -/
def SState.holder : SState → Bool
  | .seized | .collecting | .hostwait | .outring | .trunkwait | .queued | .talk | .toneout | .lockout => true
  | _ => false

/-- A FLASH taken in RUN on station `ch` (R139). -/
def Calls.flash (e : Env) (ch : Chan) (k : Calls) : Calls :=
  let k1 := k.raise e .flash ch
  match (k.ses ch).flashMode with
  | .notice => k1
  | .consult =>
    match (k.ses ch).holds with
    | some h => if (k.ses ch).state.holder then k1.returnToHeld e ch h else k1
    | none =>
      match k.consultPeer ch with
      | some p => k1.consult e ch p
      | none => k1

end Sys2Proof.Machine
end

