-- ==== Sys2Proof/Machine/Collect.lean ====
section
/-! DEFINITION. Digit collection and the Translation Unit: pattern agreement, evaluation and verdicts (R75, R80, R81,
R83), and what each end of a collection does (R69 to R73, R84 to R89). -/

namespace Sys2Proof.Machine

/-- Every dial plan slot, in ascending index. -/
def allSlots : List SlotIx := List.finRange 128

/-- A pattern symbol agrees with a digit (R75). -/
def PatSym.agrees : PatSym → Digit → Bool
  | .digit s, d => s = d
  | .x, .num _ => true
  | .x, .star => false
  | .x, .hash => false

/-- The part of a pattern that stands beyond a digit list its first symbols agree with; none when the entry is no
candidate (R80). -/
def beyond : List PatSym → List Digit → Option (List PatSym)
  | p, [] => some p
  | [], _ :: _ => none
  | s :: p, d :: ds => if s.agrees d then beyond p ds else none

/-- The entry of a slot is a candidate exactly as long as the list (R80). -/
def exactAt (plan : Vector (Option Entry) 128) (ds : List Digit) (i : SlotIx) : Bool :=
  match look plan i with
  | some en => beyond en.pattern ds == some []
  | none => false

/-- The entry of a slot is a longer candidate (R80). -/
def longerAt (plan : Vector (Option Entry) 128) (ds : List Digit) (i : SlotIx) : Bool :=
  match look plan i with
  | some en => match beyond en.pattern ds with
    | some (_ :: _) => true
    | _ => false
  | none => false

/-- The lowest index among the candidates exactly as long (R81, R83). -/
def lowestExact (plan : Vector (Option Entry) 128) (ds : List Digit) : Option SlotIx := allSlots.find? (exactAt plan ds)

/-- Some candidate is longer (R81). -/
def someLonger (plan : Vector (Option Entry) 128) (ds : List Digit) : Bool := allSlots.any (longerAt plan ds)

/-- TU's answer to an evaluation (R81, R83). -/
inductive Verdict where
  | wait
  | waitShort
  | complete (i : SlotIx)
  | vacant
  deriving DecidableEq, Repr

/-- The evaluation after a digit (R81). -/
def evaluate (plan : Vector (Option Entry) 128) (ds : List Digit) : Verdict :=
  match lowestExact plan ds with
  | some i => if someLonger plan ds then .waitShort else .complete i
  | none => if someLonger plan ds then .wait else .vacant

/-- The evaluation at the expiry of INTERDIGIT or OVERLAP (R83). -/
def evaluateAtExpiry (plan : Vector (Option Entry) 128) (ds : List Digit) : Verdict :=
  match lowestExact plan ds with
  | some i => .complete i
  | none => .vacant

/-- The digits in the positions where the pattern holds `X`, read as a decimal number (R88). -/
def dialledNumber : List PatSym → List Digit → Nat → Nat
  | .x :: p, .num n :: ds, acc => dialledNumber p ds (acc * 10 + n)
  | _ :: p, _ :: ds, acc => dialledNumber p ds acc
  | _, _, acc => acc

/-- A collection ends in TONEOUT REORDER, its receiver returned (R73, R84, R85, R86). -/
def Calls.endReorder (e : Env) (c : Chan) (k : Calls) : Calls := (k.giveUp e c).toToneout e .reorder c

/-- The VACANT end of a collection (R84). -/
def Calls.endVacant (e : Env) (c : Chan) (k : Calls) : Calls := (k.endReorder e c).raise e .vacant c

/-- The BARRED end of a collection, by the class check or by DENY (R85, R86). -/
def Calls.endBarred (e : Env) (c : Chan) (k : Calls) : Calls := (k.endReorder e c).raise e .barred c

/-- The channel of a number, when it is one that may be placed on: at most 31, not UNUSED, not BLOCKED, not the dialling
station itself (R88). -/
def Calls.destination (k : Calls) (c : Chan) (n : Nat) : Option Chan :=
  if h : n < 32 then
    let d : Chan := ⟨n, h⟩
    if (k.ses d).cls = .unused ∨ (k.ses d).state = .blocked ∨ d = c then none else some d
  else none

/-- A completion that names a destination channel (R88). -/
def Calls.endDirect (e : Env) (c : Chan) (n : Nat) (k : Calls) : Calls :=
  match k.destination c n with
  | some d => (k.giveUp e c).placeDirect e c d
  | none => k.endVacant e c

/-- A COMPLETE verdict on entry `en` is acted on (R85 to R89). -/
def Calls.endComplete (e : Env) (c : Chan) (en : Entry) (k : Calls) : Calls :=
  if (k.ses c).serviceClass < en.minClass then k.endBarred e c
  else
    match en.action with
    | .deny => k.endBarred e c
    | .refer => ((k.giveUp e c).toHostwait c).raise e .refer c
    | .channel d => k.endDirect e c d
    | .extension offset => k.endDirect e c (offset + dialledNumber en.pattern (k.ses c).digits 0)
    | .group g => (k.giveUp e c).huntFresh e g c

/-- ST acts on a verdict (R81, R82, R84, R85). -/
def Calls.actOn (e : Env) (c : Chan) (v : Verdict) (k : Calls) : Calls :=
  match v with
  | .wait => k.alter c fun r => r.startTimer .interdigit (e.time Param.interdigitTime)
  | .waitShort => k.alter c fun r => r.startTimer .overlap (e.time Param.overlapTime)
  | .vacant => k.endVacant e c
  | .complete i =>
    match look e.plan i with
    | some en => k.endComplete e c en
    | none => k.endVacant e c

/-- A digit is appended, dial tone ends, and the list is evaluated (R69, R70, R81). -/
def Calls.appendDigit (e : Env) (c : Chan) (d : Digit) (k : Calls) : Calls :=
  let k1 := (k.alter c fun r => { r with digits := r.digits ++ [d] }).setListen c .none
  k1.actOn e c (evaluate e.plan (k1.ses c).digits)

/-- ST takes a tone digit delivered by receiver `r` (R64, R69). -/
def Calls.toneDigit (e : Env) (r : RxIx) (c : Chan) (d : Digit) (k : Calls) : Calls :=
  if e.op = .run ∧ (k.ses c).state = .collecting ∧ (k.ses c).receiver = some r then k.appendDigit e c d else k

/-- ST takes a pulse digit (R14, R69). -/
def Calls.pulseDigit (e : Env) (c : Chan) (d : Digit) (k : Calls) : Calls :=
  if e.op = .run ∧ (k.ses c).state = .collecting ∧ (k.ses c).digitMode ≠ .tone then k.appendDigit e c d else k

/-- The INTERDIGIT or OVERLAP expiry (R83). -/
def Calls.collectionExpiry (e : Env) (c : Chan) (k : Calls) : Calls :=
  k.actOn e c (evaluateAtExpiry e.plan (k.ses c).digits)

end Sys2Proof.Machine
end

