-- ==== Sys2Proof/Machine/Flags.lean ====
section
/-! DEFINITION. The Attention Unit's views and its watches: the attention summary (R185), IRQA (R186), IRQB (R190), the
evaluation and firing of a watch (R189, R190). -/

namespace Sys2Proof.Machine

/-- The code of a session state (R178, Codes): its bit in a watch's state set. -/
def SState.code : SState → Nat
  | .idle => 0
  | .blocked => 1
  | .seized => 2
  | .collecting => 3
  | .hostwait => 4
  | .outring => 5
  | .trunkwait => 6
  | .queued => 7
  | .ringing => 8
  | .talk => 9
  | .held => 10
  | .confer => 11
  | .toneout => 12
  | .lockout => 13
  | .releasing => 14
  | .ringin => 15
  | .seizing => 16

/-- The notice set of channel `c` is pending: it is not empty (R180). -/
def State.noticePending (s : State) (c : Chan) : Bool := look s.calls.notices c != 0

/-- IRQA is asserted (R186). -/
def State.irqa (s : State) : Bool :=
  (s.attn.irqaEnable && (allChans.any s.noticePending || s.attn.linkErr)) ||
    (s.attn.doneEnable && s.mbox.state == .done)

/-- IRQB is asserted (R190). -/
def State.irqb (s : State) : Bool :=
  s.attn.irqbEnable && ((look s.attn.watches 0).fired || (look s.attn.watches 1).fired)

/-- Channel `c` is selected by a watch (R188). -/
def Watch.selects (w : Watch) (c : Chan) : Bool := w.chans.getLsbD c

/-- A watch's condition (R189). An empty channel set or an empty state set makes it false. -/
def Watch.condition (w : Watch) (k : Calls) : Bool :=
  let sel := allChans.filter w.selects
  let hit := fun c => w.states.getLsbD (k.ses c).state.code
  match w.mode with
  | .any => sel.any hit
  | .all => sel != [] && sel.all hit

/-- The evaluation of a watch: armed with a true condition it fires (R190). -/
def Watch.evaluate (w : Watch) (k : Calls) : Watch :=
  if w.armed && w.condition k then { w with armed := false, fired := true } else w

/-- An event that led from `k0` to `k1` changed the state of a channel the watch selects (R189). -/
def Watch.concerned (w : Watch) (k0 k1 : Calls) : Bool :=
  allChans.any fun c => w.selects c && (k0.ses c).state != (k1.ses c).state

/-- A watch at the close of an event that led from `k0` to `k1` (R189). -/
def Watch.close (w : Watch) (k0 k1 : Calls) : Watch := if w.concerned k0 k1 then w.evaluate k1 else w

/-- Both watches at the close of an event that began with the records `k0` (R189). -/
def State.closeWatches (k0 : Calls) (s : State) : State :=
  { s with attn := { s.attn with watches := every (fun w => w.close k0 s.calls) s.attn.watches } }

end Sys2Proof.Machine
end

