-- ==== Sys2Proof/Machine/Link.lean ====
section
/-! DEFINITION. The Scan Link Port: frames and their check (R179), the difference and agreement of the images (R33,
R37), the transmitter's pick (R34) and the completion of a frame (R35). -/

namespace Sys2Proof.Machine

/-- The check of a frame, from its byte 0: rotated left by three, then complemented (R179). -/
def frameCheck (byte0 : Byte) : Byte := ~~~ (byte0.rotateLeft 3)

/-- Byte 0 of an order frame (R179). -/
def Order.byte0 : Order → Byte
  | .ringOff c => BitVec.ofNat 8 c
  | .ringOn c => BitVec.ofNat 8 (0x20 + c)
  | .loopOpen c => BitVec.ofNat 8 (0x40 + c)
  | .loopClose c => BitVec.ofNat 8 (0x60 + c)
  | .clearAll => 0xC0
  | .statusRequest => 0xE0

/-- The 18 bits of a frame as the line carries them, the first the most significant: a start bit at high level, byte 0
and byte 1 with the most significant bit first, and the stop bit (R179). -/
def frameBits (byte0 byte1 : Byte) (stop : Bool) (start : Bool := true) : BitVec 18 :=
  BitVec.ofBool start ++ byte0 ++ byte1 ++ BitVec.ofBool stop

/-- The order frame on SDO (R179): its check after byte 0, and a stop bit at low level. -/
def Order.frame (o : Order) : BitVec 18 := frameBits o.byte0 (frameCheck o.byte0) false

/-- What SDO carries: the bits of the frame in flight; none while the line rests at low level (R179). -/
def State.sdo (s : State) : Option (BitVec 18) := s.link.flight.map Order.frame

/-- The conditions a report may name (02, section 2.1). -/
inductive Condition where
  | loop
  | ringv
  | batt
  deriving DecidableEq, Repr

/-- A good report: channel, condition and level; the level is true for closed or present (R29, R179). -/
structure Report where
  chan : Chan
  cond : Condition
  level : Bool
  deriving DecidableEq, Repr

/-- The condition of a report frame's byte 0; none for the undefined code (R179). -/
def reportCondition (byte0 : Byte) : Option Condition :=
  match byte0.toNat / 2 % 4 with
  | 1 => some .loop
  | 2 => some .ringv
  | 3 => some .batt
  | _ => none

/-- The start bit of a frame (R179). -/
def frameStart (f : BitVec 18) : Bool := f.getLsbD 17

/-- Byte 0 of a frame (R179). -/
def frameByte0 (f : BitVec 18) : Byte := f.extractLsb' 9 8

/-- Byte 1 of a frame (R179). -/
def frameByte1 (f : BitVec 18) : Byte := f.extractLsb' 1 8

/-- The stop bit of a frame (R179). -/
def frameStop (f : BitVec 18) : Bool := f.getLsbD 0

/-- The report of a frame that passes the three tests of R29; none for a bad frame (R30). -/
def readReport (f : BitVec 18) : Option Report :=
  let byte0 := frameByte0 f
  if frameStop f = false ∧ frameByte1 f = frameCheck byte0 then
    (reportCondition byte0).map fun cond => ⟨Fin.ofNat 32 (byte0.toNat / 8), cond, byte0.toNat % 2 = 1⟩
  else none

/-- Channel `c` differs between the images (R33). -/
def State.differs (s : State) (c : Chan) : Bool := s.calls.levels c != look s.link.sent c

/-- The two images agree (R33, R37). -/
def State.agree (s : State) : Bool := allChans.all fun c => !s.differs c

/-- The channels in the order of the round-robin search: from the one after the transmit position, wrapping from 31 to 0
(R34). -/
def searchFrom (position : Chan) : List Chan := allChans.map fun i => i + position + 1

/-- The order that carries a difference of channel `c`: the ring order if its ring level differs, else the loop order
(R34). -/
def State.orderFor (s : State) (c : Chan) : Order :=
  let want := s.calls.levels c
  if want.ring != (look s.link.sent c).ring then (if want.ring then .ringOn c else .ringOff c)
  else (if want.loop then .loopClose c else .loopOpen c)

/-- The pick of the transmitter (R34). `afterStatus` says that the frame just completed was a STATUS_REQUEST. -/
def State.pick (afterStatus : Bool) (s : State) : State :=
  if s.link.clearPending then
    { s with link := { s.link with clearPending := false, flight := some .clearAll } }
  else if s.link.statusPending && !(afterStatus && !s.agree) then
    { s with link := { s.link with statusPending := false, flight := some .statusRequest } }
  else
    match (searchFrom s.link.position).find? s.differs with
    | some c => { s with link := { s.link with position := c, flight := some (s.orderFor c) } }
    | none => s

/-- While idle, the transmitter picks at each event that gives it something to send (R34). -/
def State.kick (s : State) : State := if s.link.flight.isSome then s else s.pick false

/-- The sent image after the completion of a frame (R35). -/
def sentAfter (o : Order) (sent : Vector Levels 32) : Vector Levels 32 :=
  match o with
  | .ringOff c => put sent c { look sent c with ring := false }
  | .ringOn c => put sent c { look sent c with ring := true }
  | .loopOpen c => put sent c { look sent c with loop := false }
  | .loopClose c => put sent c { look sent c with loop := true }
  | .clearAll => Vector.replicate 32 Levels.rest
  | .statusRequest => sent

/-- Agreement of the images ends STOPPING (R37, R173). -/
def State.endStopping (s : State) : State := if s.op = .stopping ∧ s.agree then { s with op := .config } else s

/-- The completion of the frame in flight (R35), the end of STOPPING (R173) and the next pick (R34). -/
def State.completeFrame (o : Order) (s : State) : State :=
  ({ s with link := { s.link with sent := sentAfter o s.link.sent, flight := none } }.endStopping).pick
    (o == Order.statusRequest)

/-- A bad report frame (R30, R182). -/
def State.badFrame (s : State) : State :=
  { s with
    link := { s.link with errorFlag := true, statusPending := true }
    attn := { s.attn with linkErr := true } }.kick

/-- An event of a trunk's battery qualifier; the others come from the loop or the ring qualifier (R50). -/
def LineEvent.ofBattery : LineEvent → Bool
  | .battOn | .farOpen => true
  | .seize | .pulseDigit _ | .flash | .disconnect | .ringBurst | .ringGone => false

/-- Trunk `c` enters SEIZING in an event that leads from the records `k0` to `k` (R49, R110). -/
def Calls.seizes (k0 k : Calls) (c : Chan) : Bool := (k.ses c).state == .seizing && (k0.ses c).state != .seizing

/-- A delivery in flight may still be taken after an event that leads from the records `k0` to `k`. A digit may while
its channel collects with the receiver that delivered it (R64, R67): it is lost with its collection, so that "no digit
of one collection reaches another" (R65). A BATT_ON or FAR_OPEN of a trunk that the event seizes may not: the seizure
needs "a fresh BATT_ON", and "a stale FAR_OPEN never meets the new seizure" (R49). -/
def Calls.awaits (k0 k : Calls) : Delivery → Bool
  | .event c ev => !(ev.ofBattery && k0.seizes k c)
  | .digit r c _ => (k.ses c).state == .collecting && (k.ses c).receiver == some r

/-- The close of an event of the Session Table: its records become `k`, what is in flight and may not be taken after it
is dropped (R49, R65, R67), the watches are evaluated (R189) and an idle transmitter picks (R34). -/
def State.close (k : Calls) (s : State) : State :=
  ({ s with calls := k, deliveries := s.deliveries.filter (s.calls.awaits k) }.closeWatches s.calls).kick

end Sys2Proof.Machine
end

