-- ==== Sys2Proof/Machine/Lines.lean ====
section
/-! DEFINITION. The Line Qualifier: the loop, ring and battery qualifiers (R39 to R48), the qualified events they deliver
(R50) and what the Session Table does with each by session state (R13, R14, R15). -/

namespace Sys2Proof.Machine

/-- The class of the channels an event comes from (R50). -/
def LineEvent.cls : LineEvent → ChanClass
  | .seize | .pulseDigit _ | .flash | .disconnect => .station
  | .ringBurst | .ringGone | .battOn | .farOpen => .trunk

/-- SEIZE by session state (R14). -/
def Calls.takeSeize (e : Env) (c : Chan) (k : Calls) : Calls :=
  match (k.ses c).state with
  | .idle => k.seizure e c
  | .blocked => k.raise e .seize c
  | .ringing =>
    match (k.ses c).peer with
    | some o => k.answer e c o
    | none => k
  | .seized | .collecting | .hostwait | .outring | .trunkwait | .queued | .talk | .held | .confer | .toneout | .lockout
  | .releasing | .ringin | .seizing => k

/-- DISCONNECT by session state (R14, R18). -/
def Calls.takeDisconnect (e : Env) (c : Chan) (k : Calls) : Calls :=
  match (k.ses c).state with
  | .seized | .collecting | .hostwait | .outring | .trunkwait | .queued | .talk | .held | .confer | .toneout
  | .lockout => k.release e c
  | .idle | .blocked | .ringing | .releasing | .ringin | .seizing => k

/-- RING_BURST by session state (R15). -/
def Calls.takeRingBurst (e : Env) (c : Chan) (k : Calls) : Calls :=
  if (k.ses c).state = .idle then k.incomingCall e c else k

/-- RING_GONE by session state (R15, R22). -/
def Calls.takeRingGone (e : Env) (c : Chan) (k : Calls) : Calls :=
  match (k.ses c).state with
  | .ringin | .queued => k.abandon e c
  | .hostwait => if (k.levels c).loop then k else k.abandon e c
  | .idle | .blocked | .seized | .collecting | .outring | .trunkwait | .ringing | .talk | .held | .confer | .toneout
  | .lockout | .releasing | .seizing => k

/-- BATT_ON by session state (R15, R110). -/
def Calls.takeBattOn (e : Env) (c : Chan) (k : Calls) : Calls :=
  if (k.ses c).state = .seizing ∧ (k.ses c).timer.map (·.kind) = some .seizeWait then
    k.alter c fun r => r.startTimer .cutThrough (e.time Param.cutThroughDelay)
  else k

/-- FAR_OPEN by session state (R15, R21). -/
def Calls.takeFarOpen (e : Env) (c : Chan) (k : Calls) : Calls :=
  match (k.ses c).state with
  | .seizing | .talk | .held | .confer => k.release e c
  | .hostwait => if (k.levels c).loop then k.release e c else k
  | .idle | .blocked | .seized | .collecting | .outring | .trunkwait | .queued | .ringing | .toneout | .lockout
  | .releasing | .ringin => k

/-- ST takes a qualified event at the record of `c`: in RUN by session state, and in CONFIG and STOPPING not at all
(R13, R14, R15). -/
def Calls.take (e : Env) (c : Chan) (ev : LineEvent) (k : Calls) : Calls :=
  if e.op = .run ∧ (k.ses c).cls = ev.cls then
    match ev with
    | .seize => k.takeSeize e c
    | .pulseDigit d => k.pulseDigit e c d
    | .flash => k.flash e c
    | .disconnect => k.takeDisconnect e c
    | .ringBurst => k.takeRingBurst e c
    | .ringGone => k.takeRingGone e c
    | .battOn => k.takeBattOn e c
    | .farOpen => k.takeFarOpen e c
  else k

/-- ST takes a delivery as one event at the session record of its channel (R50, R64). -/
def Calls.takeDelivery (e : Env) (v : Delivery) (k : Calls) : Calls :=
  match v with
  | .event c ev => k.take e c ev
  | .digit r c d => k.toneDigit e r c d

/-- `w` came from the same qualifier or the same receiver as `v`, so that `v` is taken after it (R50, R62). -/
def Delivery.follows (v w : Delivery) : Bool :=
  match v, w with
  | .event c ev, .event d ew => c == d && ev.ofBattery == ew.ofBattery
  | .digit r _ _, .digit q _ _ => r == q
  | .event _ _, .digit _ _ _ => false
  | .digit _ _ _, .event _ _ => false

/-- A delivery is handed to ST, which takes it in the same step and closes the event, unless it is to be taken later or
an earlier one of the same source is still in flight (log 1). -/
def State.hand (t : Taking) (v : Delivery) (s : State) : State :=
  if t = .now ∧ s.deliveries.any v.follows = false then s.close (s.calls.takeDelivery s.env v)
  else { s with deliveries := s.deliveries ++ [v] }

/-- LQ delivers an event, if any, as the closing action of its own (R50). -/
def State.deliver (t : Taking) (c : Chan) (ev : Option LineEvent) (s : State) : State :=
  match ev with
  | some v => s.hand t (.event c v)
  | none => s

/-- ST takes a delivery that was in flight, and the event closes (R13). -/
def State.takeFlying (v : Delivery) (rest : List Delivery) (s : State) : State :=
  { s with deliveries := rest }.close (s.calls.takeDelivery s.env v)

/-! ### The station loop qualifier -/

/-- A closed loop at the end of an open interval of length `len` (R42). `counted` says that a pulse break counts now, and
`makeEnd` is PULSE_MAKE_END. -/
def LoopQual.classify (makeEnd : Nat) (counted : Bool) (len : Nat) (q : LoopQual) : LoopQual × Option LineEvent :=
  if len < q.hitMax then
    ({ q with state := .offhook, timer := if 0 < q.pulses then some (.pulseMakeEnd, makeEnd) else none }, none)
  else if len ≤ q.breakMax then
    if counted then
      ({ q with state := .offhook, pulses := min (q.pulses + 1) 11, timer := some (.pulseMakeEnd, makeEnd) }, none)
    else ({ q with state := .offhook, pulses := 0, timer := none }, none)
  else if len < q.flashMin then ({ q with state := .offhook, pulses := 0, timer := none }, none)
  else ({ q with state := .offhook, pulses := 0, timer := none }, some .flash)

/-- A LOOP report at a loop qualifier (R40, R41, R42); a level equal to the held one changes nothing (R39). -/
def LoopQual.report (p : ParamSet) (now : Nat) (counted closed : Bool) (q : LoopQual) : LoopQual × Option LineEvent :=
  match q.state, closed with
  | .onhook, true => ({ q with state := .seizeTiming, timer := some (.seizeQual, look p Param.seizeQual) }, none)
  | .onhook, false => (q, none)
  | .seizeTiming, false => ({ q with state := .onhook, timer := none }, none)
  | .seizeTiming, true => (q, none)
  | .offhook, false =>
    ({ q with
        state := .openTiming
        openStart := now
        hitMax := look p Param.hitMax
        breakMax := look p Param.pulseBreakMax
        flashMin := look p Param.flashMin
        timer := some (.flashMax, look p Param.flashMax) }, none)
  | .offhook, true => (q, none)
  | .openTiming, true => q.classify (look p Param.pulseMakeEnd) counted (now - q.openStart)
  | .openTiming, false => (q, none)

/-- A pulse break counts when the session collects and its digit mode is PULSE or EITHER (R42). -/
def Calls.countsPulses (k : Calls) (c : Chan) : Bool :=
  (k.ses c).state == .collecting && (k.ses c).digitMode != .tone

/-- The digit a pulse count stands for; none for 0 and for more than ten (R44). -/
def pulseDigitOf (count : Nat) : Option Digit :=
  if count = 10 then some (.num 0)
  else if h : 1 ≤ count ∧ count ≤ 9 then some (.num ⟨count, by omega⟩)
  else none

/-- The loop qualifier of `c` replaced. -/
def State.setLoopQ (c : Chan) (q : LoopQual) (s : State) : State := { s with loopQ := put s.loopQ c q }

/-- The SEIZE_QUAL expiry (R40). -/
def State.seizeQual (t : Taking) (c : Chan) (s : State) : State :=
  let q := look s.loopQ c
  if q.state = .seizeTiming ∧ q.timer = some (.seizeQual, 0) then
    (s.setLoopQ c { q with state := .offhook, pulses := 0, timer := none }).deliver t c (some .seize)
  else s

/-- The FLASH_MAX expiry (R43). -/
def State.flashMax (t : Taking) (c : Chan) (s : State) : State :=
  let q := look s.loopQ c
  if q.state = .openTiming ∧ q.timer = some (.flashMax, 0) then
    (s.setLoopQ c { q with state := .onhook, pulses := 0, timer := none }).deliver t c (some .disconnect)
  else s

/-- The PULSE_MAKE_END expiry (R44). -/
def State.pulseMakeEnd (t : Taking) (c : Chan) (s : State) : State :=
  let q := look s.loopQ c
  if q.state = .offhook ∧ q.timer = some (.pulseMakeEnd, 0) then
    (s.setLoopQ c { q with pulses := 0, timer := none }).deliver t c ((pulseDigitOf q.pulses).map .pulseDigit)
  else s

/-! ### The trunk ring qualifier -/

/-- A RINGV report at a ring qualifier (R46, R47); a level equal to the held one changes nothing (R45). -/
def RingQual.report (p : ParamSet) (present : Bool) (q : RingQual) : RingQual :=
  match q.state, present, q.inCheck with
  | .ringIdle, true, _ => { q with state := .burstTiming, burst := some (look p Param.ringBurstMin) }
  | .burstTiming, false, _ => { q with state := .ringIdle, burst := none }
  | .inBurst, false, _ => { q with state := .gapTiming, gap := some (look p Param.ringGapMax), inCheck := false }
  | .gapTiming, true, false => { q with inCheck := true, burst := some (look p Param.ringBurstMin) }
  | .gapTiming, false, true => { q with inCheck := false, burst := none }
  | .ringIdle, false, _ => q
  | .burstTiming, true, _ => q
  | .inBurst, true, _ => q
  | .gapTiming, true, true => q
  | .gapTiming, false, false => q

/-- The ring qualifier of `c` replaced. -/
def State.setRingQ (c : Chan) (q : RingQual) (s : State) : State := { s with ringQ := put s.ringQ c q }

/-- The burst timer's expiry (R46, R47). -/
def State.burstEnd (t : Taking) (c : Chan) (s : State) : State :=
  let q := look s.ringQ c
  if q.burst = some 0 then
    match q.state, q.inCheck with
    | .burstTiming, _ => (s.setRingQ c { q with state := .inBurst, burst := none }).deliver t c (some .ringBurst)
    | .gapTiming, true => s.setRingQ c ⟨.inBurst, none, none, false⟩
    | .gapTiming, false => s
    | .ringIdle, _ => s
    | .inBurst, _ => s
  else s

/-- The gap timer's expiry (R47). -/
def State.gapEnd (t : Taking) (c : Chan) (s : State) : State :=
  let q := look s.ringQ c
  if q.state = .gapTiming ∧ q.gap = some 0 then
    (s.setRingQ c { q with state := if q.inCheck then .burstTiming else .ringIdle, gap := none, inCheck := false }).deliver
      t c (some .ringGone)
  else s

/-! ### The trunk battery qualifier -/

/-- A BATT report at a battery qualifier (R48). -/
def BattQual.report (p : ParamSet) (present : Bool) (q : BattQual) : BattQual :=
  match q.state, present with
  | .absent, true => ⟨.timing, some (look p Param.seizeQual)⟩
  | .timing, false => ⟨.absent, none⟩
  | .present, false => ⟨.dropTiming, some (look p Param.farOpenMin)⟩
  | .dropTiming, true => ⟨.present, none⟩
  | .absent, false => q
  | .timing, true => q
  | .present, true => q
  | .dropTiming, false => q

/-- The battery qualifier of `c`. -/
def Calls.batt (k : Calls) (c : Chan) : BattQual := look k.battQ c

/-- The battery qualifier of `c` replaced. -/
def Calls.setBatt (c : Chan) (q : BattQual) (k : Calls) : Calls := { k with battQ := put k.battQ c q }

/-- The SEIZE_QUAL expiry of a battery qualifier (R48). -/
def State.battOn (t : Taking) (c : Chan) (s : State) : State :=
  if s.calls.batt c = ⟨.timing, some 0⟩ then
    { s with calls := s.calls.setBatt c ⟨.present, none⟩ }.deliver t c (some .battOn)
  else s

/-- The FAR_OPEN_MIN expiry (R48). -/
def State.farOpen (t : Taking) (c : Chan) (s : State) : State :=
  if s.calls.batt c = ⟨.dropTiming, some 0⟩ then
    { s with calls := s.calls.setBatt c ⟨.absent, none⟩ }.deliver t c (some .farOpen)
  else s

/-! ### Routing -/

/-- A good report at the qualifier its channel's class gives (R32, R36). -/
def State.route (t : Taking) (r : Report) (s : State) : State :=
  match (s.calls.ses r.chan).cls, r.cond with
  | .station, .loop =>
    let out := (look s.loopQ r.chan).report s.params.current s.now (s.calls.countsPulses r.chan) r.level
    (s.setLoopQ r.chan out.1).deliver t r.chan out.2
  | .trunk, .ringv => s.setRingQ r.chan ((look s.ringQ r.chan).report s.params.current r.level)
  | .trunk, .batt => { s with calls := s.calls.setBatt r.chan ((s.calls.batt r.chan).report s.params.current r.level) }
  | .station, .ringv => s
  | .station, .batt => s
  | .trunk, .loop => s
  | .unused, _ => s

end Sys2Proof.Machine
end

