-- ==== Sys2Proof/Machine/Detector.lean ====
section
/-! DEFINITION. Tone digit qualification at the receivers (R61 to R64), and the three commands of the table that take a
receiver's events. -/

namespace Sys2Proof.Machine

/-- While RESET is held asserted nothing is taken (R38; log 6); otherwise the part changes by `f`. -/
def awake (f : State → State) (s : State) : Host.Outcome State Fault Refusal :=
  .next (if s.resetAsserted then s else f s)

/-- The four assigned states of a receiver (R52). -/
def RxState.assigned : RxState → Bool
  | .quiet | .onset | .digit | .gap => true
  | .free | .offline => false

/-- The receiver enters ONSET with a digit, its timer started afresh (R62, R63). -/
def Receiver.toOnset (p : ParamSet) (d : Digit) (x : Receiver) : Receiver :=
  { x with state := .onset, current := some d, timer := some (.toneOnMin, look p Param.toneOnMin) }

/-- A new indication at a receiver (R61, R62, R63). One equal to the stored indication changes nothing, and an
unassigned receiver does not listen. -/
def Receiver.indicate (p : ParamSet) (ind : Option Digit) (x : Receiver) : Receiver :=
  if x.state.assigned = false ∨ ind = x.indication then x
  else
    let y := { x with indication := ind }
    match x.state, ind with
    | .quiet, some d => y.toOnset p d
    | .quiet, none => y
    | .onset, some d => if x.current = some d then y else y.toOnset p d
    | .onset, none => { y with state := .quiet, current := none, timer := none }
    | .digit, some d => if x.current = some d then y else y.toOnset p d
    | .digit, none => { y with state := .gap, timer := some (.toneGapMin, look p Param.toneGapMin) }
    | .gap, some d => if x.current = some d then { y with state := .digit, timer := none } else y.toOnset p d
    | .gap, none => y
    | .free, _ => x
    | .offline, _ => x

/-- A receiver's TONE_ON_MIN is due (R62). -/
def Receiver.onDue (x : Receiver) : Bool := x.state == .onset && x.timer == some (.toneOnMin, 0)

/-- A receiver's TONE_GAP_MIN is due (R63). -/
def Receiver.gapDue (x : Receiver) : Bool := x.state == .gap && x.timer == some (.toneGapMin, 0)

/-- The TONE_ON_MIN expiry (R62): DIGIT, and the digit handed to ST for the session record of the assigned channel
(R64). -/
def State.toneOn (t : Taking) (r : RxIx) (s : State) : State :=
  let x := s.calls.rx r
  let s1 := { s with calls := s.calls.setRx r { x with state := .digit, timer := none } }
  match x.assigned, x.current with
  | some c, some d => s1.hand t (.digit r c d)
  | _, _ => s1

/-- An indication that the detector of `r` gave for a slot: discarded when the receiver is no longer lent to that channel
(R61). -/
def State.indication (r : RxIx) (slot : Chan) (ind : Option Digit) (s : State) : State :=
  if (s.calls.rx r).assigned = some slot then
    { s with calls := s.calls.setRx r ((s.calls.rx r).indicate s.params.current ind) }
  else s

/-- The TONE_GAP_MIN expiry (R63). -/
def Calls.toneGap (r : RxIx) (k : Calls) : Calls :=
  k.setRx r { k.rx r with state := .quiet, current := none, timer := none }

/-- DETECTOR_INDICATION (R61). -/
def execDetectorIndication (r : RxIx) (ind : Indication) (s : State) : Host.Outcome State Fault Refusal :=
  awake (State.indication r ind.slot ind.digit) s

/-- TONE_ON_MIN_EXPIRY (R62). -/
def execToneOnMinExpiry (r : RxIx) (s : State) (t : Taking := .now) : Host.Outcome State Fault Refusal :=
  awake (fun s => if (s.calls.rx r).onDue then s.toneOn t r else s) s

/-- TONE_GAP_MIN_EXPIRY (R63). -/
def execToneGapMinExpiry (r : RxIx) (s : State) : Host.Outcome State Fault Refusal :=
  awake (fun s => if (s.calls.rx r).gapDue then { s with calls := s.calls.toneGap r } else s) s

end Sys2Proof.Machine
end

