-- ==== Sys2Proof/Machine/Codes.lean ====
section
/-! DEFINITION. The codes of the byte layouts (R178, R179 and the tables after them): commands, completion codes and the
values of the fields. -/

namespace Sys2Proof.Machine

/-- The defined commands (08, section 8.6). -/
inductive Cmd where
  | start | stop | setParam | applyParams | readParam | setNoticeMask
  | configureChannel | block | restore | readSession | readDigits
  | writeEntry | clearEntry
  | writeGroup | setMembers | addMember | dropMember | readGroup
  | receiverService
  | hold | retrieve | transfer | drop | place | connect | setListen
  | conference | join | readBridge
  | takeNotices | setWatch | armWatch | disarmWatch
  deriving DecidableEq, Repr

/-- The code of a command (08, Command codes, parameters and results). -/
def Cmd.code : Cmd → Byte
  | .start => 0x01
  | .stop => 0x02
  | .setParam => 0x08
  | .applyParams => 0x09
  | .readParam => 0x0A
  | .setNoticeMask => 0x0B
  | .configureChannel => 0x10
  | .block => 0x11
  | .restore => 0x12
  | .readSession => 0x14
  | .readDigits => 0x15
  | .writeEntry => 0x18
  | .clearEntry => 0x19
  | .writeGroup => 0x20
  | .setMembers => 0x21
  | .addMember => 0x22
  | .dropMember => 0x23
  | .readGroup => 0x24
  | .receiverService => 0x28
  | .hold => 0x30
  | .retrieve => 0x31
  | .transfer => 0x32
  | .drop => 0x33
  | .place => 0x34
  | .connect => 0x35
  | .setListen => 0x36
  | .conference => 0x38
  | .join => 0x39
  | .readBridge => 0x3A
  | .takeNotices => 0x40
  | .setWatch => 0x41
  | .armWatch => 0x42
  | .disarmWatch => 0x43

/-- Every defined command. -/
def allCmds : List Cmd :=
  [.start, .stop, .setParam, .applyParams, .readParam, .setNoticeMask, .configureChannel, .block, .restore,
    .readSession, .readDigits, .writeEntry, .clearEntry, .writeGroup, .setMembers, .addMember, .dropMember, .readGroup,
    .receiverService, .hold, .retrieve, .transfer, .drop, .place, .connect, .setListen, .conference, .join, .readBridge,
    .takeNotices, .setWatch, .armWatch, .disarmWatch]

/-- The command that a code names, if any (R165). -/
def Cmd.ofCode (b : Byte) : Option Cmd := allCmds.find? fun c => c.code == b

/-- A code that names a command (R165). -/
def definedCode (b : Byte) : Bool := allCmds.any fun c => c.code == b

/-- The row of the table that takes each command. -/
def Cmd.row : Cmd → Instr
  | .start => .start
  | .stop => .stop
  | .setParam => .setParam
  | .applyParams => .applyParams
  | .readParam => .readParam
  | .setNoticeMask => .setNoticeMask
  | .configureChannel => .configureChannel
  | .block => .block
  | .restore => .restore
  | .readSession => .readSession
  | .readDigits => .readDigits
  | .writeEntry => .writeEntry
  | .clearEntry => .clearEntry
  | .writeGroup => .writeGroup
  | .setMembers => .setMembers
  | .addMember => .addMember
  | .dropMember => .dropMember
  | .readGroup => .readGroup
  | .receiverService => .receiverService
  | .hold => .hold
  | .retrieve => .retrieve
  | .transfer => .transfer
  | .drop => .drop
  | .place => .place
  | .connect => .connect
  | .setListen => .setListen
  | .conference => .conference
  | .join => .join
  | .readBridge => .readBridge
  | .takeNotices => .takeNotices
  | .setWatch => .setWatch
  | .armWatch => .armWatch
  | .disarmWatch => .disarmWatch

/-- The value of a completion code (08, Register map). -/
def Completion.code : Completion → Byte
  | .noResult => 0
  | .ok => 1
  | .unknown => 2
  | .wrongMode => 3
  | .badState => 4
  | .badArg => 5
  | .noResource => 6
  | .duplicate => 7
  | .inconsistent => 8

def MailState.code : MailState → Nat
  | .idle => 0
  | .busy => 1
  | .done => 2

def OpState.code : OpState → Nat
  | .config => 0
  | .run => 1
  | .stopping => 2

def ChanClass.code : ChanClass → Nat
  | .unused => 0
  | .station => 1
  | .trunk => 2

def DigitMode.code : DigitMode → Nat
  | .tone => 0
  | .pulse => 1
  | .either => 2

def FlashMode.code : FlashMode → Nat
  | .notice => 0
  | .consult => 1

def ToneOut.code : ToneOut → Nat
  | .busy => 0
  | .reorder => 1

/-- The code of the session timer's kind; 0 when it is stopped. -/
def timerCode : Option Timer → Nat
  | none => 0
  | some t =>
    match t.kind with
    | .firstDigit => 1
    | .interdigit => 2
    | .overlap => 3
    | .rxWait => 4
    | .cadence => 5
    | .queueWait => 6
    | .toneout => 7
    | .guard => 8
    | .seizeWait => 9
    | .cutThrough => 10

/-- The kind and the argument of a listen source: the tone, channel or bridge, 0 for NONE. -/
def Listen.code : Listen → Nat × Nat
  | .none => (0, 0)
  | .tone t => (1, toneIx t)
  | .slot d => (2, d)
  | .bridge b => (3, b)

/-- The code of a digit symbol (R178, Codes). -/
def digitCode : Digit → Nat
  | .num n => n
  | .star => 10
  | .hash => 11

def Method.code : Method → Nat
  | .linear => 0
  | .circular => 1
  | .all => 2

def LoopState.code : LoopState → Nat
  | .onhook => 0
  | .seizeTiming => 1
  | .offhook => 2
  | .openTiming => 3

def RingState.code : RingState → Nat
  | .ringIdle => 0
  | .burstTiming => 1
  | .inBurst => 2
  | .gapTiming => 3

def BattState.code : BattState → Nat
  | .absent => 0
  | .timing => 1
  | .present => 2
  | .dropTiming => 3

def RxService.code : RxService → Nat
  | .inService => 0
  | .withdrawPending => 1
  | .out => 2

def RxState.code : RxState → Nat
  | .free => 0
  | .offline => 1
  | .quiet => 2
  | .onset => 3
  | .digit => 4
  | .gap => 5

/-- A byte of a value. -/
def byteOf (n : Nat) : Byte := BitVec.ofNat 8 n

/-- None is coded FFh (R178). -/
def optByte {n : Nat} : Option (Fin n) → Byte
  | none => 0xFF
  | some i => byteOf i

/-- A two-byte value, the least significant byte first (R178). -/
def wordBytes (n : Nat) : List Byte := [byteOf n, byteOf (n / 256)]

/-- Packed symbols: two per byte, the earlier in bits 3 to 0 (R178, Codes). -/
def packDigits : List Digit → List Byte
  | [] => []
  | [d] => [byteOf (digitCode d)]
  | d :: d' :: ds => byteOf (digitCode d + 16 * digitCode d') :: packDigits ds

/-- The two bytes of a notice set (R178, Codes). -/
def noticeBytes (n : NoticeSet) : List Byte := [n.setWidth 8, (n >>> 8).setWidth 8]

/-- `true` as 1. -/
def bit (b : Bool) : Nat := if b then 1 else 0

end Sys2Proof.Machine
end

