-- ==== Sys2Proof/Machine/Operands.lean ====
section
/-! DEFINITION. The operand forms: reading a command's parameter bytes (R178; a value out of range or a code that is not
defined reads as none, and the command is refused with BAD_ARG), and laying out result bytes. -/

namespace Sys2Proof.Machine

/-- The 16 parameter bytes of the command in flight (R163). -/
abbrev Params := Vector Byte 16

/-- A number below `n` (R178). -/
def readFin (n : Nat) (b : Byte) : Option (Fin n) := if h : b.toNat < n then some ⟨b.toNat, h⟩ else none

/-- A number below `n`, or none coded FFh (R178). -/
def readOptFin (n : Nat) (b : Byte) : Option (Option (Fin n)) := if b = 0xFF then some none else (readFin n b).map some

/-- A code looked up in a list of the field's values in the order of their codes (R178). -/
def readCode {α : Type} (values : List α) (b : Byte) : Option α := values[b.toNat]?

/-- A two-byte value, the least significant byte first (R178). -/
def readWord (lo hi : Byte) : Nat := lo.toNat + 256 * hi.toNat

def readClass : Byte → Option ChanClass := readCode [.unused, .station, .trunk]
def readDigitMode : Byte → Option DigitMode := readCode [.tone, .pulse, .either]
def readFlashMode : Byte → Option FlashMode := readCode [.notice, .consult]
def readMethod : Byte → Option Method := readCode [.linear, .circular, .all]
def readTone : Byte → Option Tone := readCode [.dial, .ringback, .busy, .reorder, .hold]
def readWatchMode : Byte → Option WatchMode := readCode [.any, .all]

/-- A pattern symbol: 0 to 9, 10 `*`, 11 `#`, 12 `X` (R178, Codes). -/
def readSym (n : Nat) : Option PatSym :=
  if h : n < 10 then some (.digit (.num ⟨n, h⟩))
  else if n = 10 then some (.digit .star)
  else if n = 11 then some (.digit .hash)
  else if n = 12 then some .x
  else none

/-- The symbol at place `i` of a packed list: the earlier of two in bits 3 to 0 (R178, Codes). -/
def packedAt (bytes : List Byte) (i : Nat) : Nat :=
  let b := (bytes.getD (i / 2) 0).toNat
  if i % 2 = 0 then b % 16 else b / 16

/-- All of a list of optional values, or none when one is missing. -/
def allSome {α : Type} : List (Option α) → Option (List α)
  | [] => some []
  | none :: _ => none
  | some a :: l => (allSome l).map (a :: ·)

/-- A pattern of length `n` from its packed bytes; the symbols beyond the length are ignored (R77, R178). -/
def readPattern (n : Nat) (bytes : List Byte) : Option (List PatSym) :=
  if 1 ≤ n ∧ n ≤ 12 then allSome ((List.range n).map fun i => readSym (packedAt bytes i)) else none

/-- An action with its argument (R76); the argument byte of REFER and DENY is ignored (08, section 8.7). -/
def readAction (code arg : Byte) : Option Action :=
  if code = 0 then (readFin 32 arg).map .channel
  else if code = 1 then (readFin 32 arg).map .extension
  else if code = 2 then (readFin 8 arg).map .group
  else if code = 3 then some .refer
  else if code = 4 then some .deny
  else none

/-- An EXTENSION entry's pattern holds one or two `X`; the other actions place no limit (R76). -/
def actionFits (a : Action) (pattern : List PatSym) : Bool :=
  match a with
  | .extension _ => let n := pattern.count .x; n == 1 || n == 2
  | .channel _ | .group _ | .refer | .deny => true

/-- The slot and the entry of WRITE_ENTRY (R77). -/
def readEntry (p : Params) : Option (SlotIx × Entry) :=
  match readFin 128 (look p 0),
      readPattern (look p 1).toNat [look p 8, look p 9, look p 10, look p 11, look p 12, look p 13],
      readAction (look p 2) (look p 3), readFin 4 (look p 4) with
  | some slot, some pattern, some action, some minClass =>
    if actionFits action pattern then some (slot, ⟨pattern, action, minClass⟩) else none
  | _, _, _, _ => none

/-- The parameters of CONFIGURE_CHANNEL (R7). -/
structure ConfigArgs where
  chan : Chan
  cls : ChanClass
  digitMode : DigitMode
  serviceClass : Fin 4
  flashMode : FlashMode
  answerGroup : Option GroupIx
  deriving DecidableEq, Repr

def readConfig (p : Params) : Option ConfigArgs :=
  match readFin 32 (look p 0), readClass (look p 1), readDigitMode (look p 2), readFin 4 (look p 3),
      readFlashMode (look p 4), readOptFin 8 (look p 5) with
  | some chan, some cls, some mode, some sc, some fm, some ag => some ⟨chan, cls, mode, sc, fm, ag⟩
  | _, _, _, _, _, _ => none

/-- The channel that is a command's only parameter. -/
def readChan (p : Params) : Option Chan := readFin 32 (look p 0)

/-- The two channels of CONNECT, which must differ (R154). -/
def readTwoChans (p : Params) : Option (Chan × Chan) :=
  match readFin 32 (look p 0), readFin 32 (look p 1) with
  | some a, some b => if a = b then none else some (a, b)
  | _, _ => none

/-- What PLACE places on (R153). -/
inductive PlaceOn where
  | group (g : GroupIx)
  | channel (d : Chan)
  deriving DecidableEq, Repr

def readPlace (p : Params) : Option (Chan × PlaceOn) :=
  match readFin 32 (look p 0), look p 1 with
  | some c, 0 => (readFin 8 (look p 2)).map fun g => (c, .group g)
  | some c, 1 => (readFin 32 (look p 2)).map fun d => (c, .channel d)
  | _, _ => none

/-- The channel and the source of SET_LISTEN: NONE or a tone (R155); the tone byte is ignored for NONE. -/
def readListen (p : Params) : Option (Chan × Listen) :=
  match readFin 32 (look p 0), look p 1 with
  | some c, 0 => some (c, .none)
  | some c, 1 => (readTone (look p 2)).map fun t => (c, .tone t)
  | _, _ => none

/-- The parameters of WRITE_GROUP (R95). -/
structure GroupArgs where
  group : GroupIx
  method : Method
  overflow : Option GroupIx
  noAnswer : Option GroupIx
  queueLimit : Nat
  queueWait : Nat
  deriving DecidableEq, Repr

def readGroupArgs (p : Params) : Option GroupArgs :=
  match readFin 8 (look p 0), readMethod (look p 1), readOptFin 8 (look p 2), readOptFin 8 (look p 3) with
  | some g, some m, some ov, some na =>
    if (look p 4).toNat ≤ 8 ∧ 1 ≤ (look p 5).toNat then some ⟨g, m, ov, na, (look p 4).toNat, (look p 5).toNat⟩
    else none
  | _, _, _, _ => none

/-- The group and the channels of SET_MEMBERS: the first `n` of bytes 2 to 7 are used (R96, 08). -/
def readMembers (p : Params) : Option (GroupIx × List Chan) :=
  match readFin 8 (look p 0) with
  | some g =>
    if (look p 1).toNat ≤ 6 then
      (allSome (([look p 2, look p 3, look p 4, look p 5, look p 6, look p 7].take (look p 1).toNat).map
        (readFin 32))).map fun l => (g, l)
    else none
  | none => none

/-- The group and the channel of ADD_MEMBER and DROP_MEMBER (R96). -/
def readMember (p : Params) : Option (GroupIx × Chan) :=
  match readFin 8 (look p 0), readFin 32 (look p 1) with
  | some g, some c => some (g, c)
  | _, _ => none

/-- The bridge and the channel of JOIN (R132). -/
def readJoin (p : Params) : Option (BridgeIx × Chan) :=
  match readFin 4 (look p 0), readFin 32 (look p 1) with
  | some b, some c => some (b, c)
  | _, _ => none

/-- The receiver and the direction of RECEIVER_SERVICE, true for IN (R59). -/
def readService (p : Params) : Option (RxIx × Bool) :=
  match readFin 8 (look p 0), look p 1 with
  | some r, 0 => some (r, false)
  | some r, 1 => some (r, true)
  | _, _ => none

/-- The index and the value of SET_PARAM, in the parameter's range (R175). -/
def readParamArgs (p : Params) : Option (ParamIx × Nat) :=
  match readFin 23 (look p 0) with
  | some i =>
    if paramInRange i (readWord (look p 1) (look p 2)) then some (i, readWord (look p 1) (look p 2)) else none
  | none => none

/-- The notice enable mask of SET_NOTICE_MASK; bit 15 is ignored (R183). -/
def readMask (p : Params) : NoticeSet := (look p 1 ++ look p 0) &&& 0x7FFF

/-- The parameters of SET_WATCH (R191); bits 17 to 23 of the state set are ignored. -/
def readWatch (p : Params) : Option (WatchIx × WatchMode × BitVec 32 × BitVec 17) :=
  match readFin 2 (look p 0), readWatchMode (look p 1) with
  | some w, some m =>
    some (w, m, look p 5 ++ look p 4 ++ look p 3 ++ look p 2,
      (look p 8 ++ look p 7 ++ look p 6 : BitVec 24).setWidth 17)
  | _, _ => none

/-! ### Results -/

/-- The result buffer rewritten whole: every byte not given is 0 (R166). -/
def resultBuffer (bytes : List Byte) : Vector Byte 32 := tabulate fun i => bytes.getD i 0

/-- A session result (08, section 8.7): the channel named and its state, and the second channel, if any, and its. -/
def sessionResult (k : Calls) (c : Chan) (second : Option Chan) : List Byte :=
  [byteOf c, byteOf (k.ses c).state.code] ++
    match second with
    | some d => [byteOf d, byteOf (k.ses d).state.code]
    | none => [0xFF, 0xFF]

/-- A group record (08, section 8.7). -/
def groupResult (k : Calls) (g : GroupIx) : List Byte :=
  let r := k.group g
  [byteOf g, byteOf r.method.code, optByte r.overflow, optByte r.noAnswer, byteOf r.queueLimit, byteOf r.queueWait,
    byteOf r.members.length, byteOf r.position, byteOf r.queue.length] ++
    (List.range 16).map fun i => optByte r.members[i]?

/-- The result of SET_PARAM and READ_PARAM (R175, R177). -/
def paramResult (s : State) (i : ParamIx) : List Byte :=
  [byteOf i] ++ wordBytes (look s.params.staged i) ++ wordBytes (look s.params.current i)

/-- The result of READ_BRIDGE (R137). -/
def bridgeResult (k : Calls) (b : BridgeIx) : List Byte :=
  let l := look k.bridges b
  [byteOf b, byteOf l.length] ++ (List.range 4).map fun i => optByte l[i]?

/-- The result of RECEIVER_SERVICE (R52, R59). -/
def receiverResult (k : Calls) (r : RxIx) : List Byte :=
  let x := look k.receivers r
  [byteOf r, byteOf x.service.code, byteOf x.state.code, optByte x.assigned,
    match x.current with
    | some d => byteOf (digitCode d)
    | none => 0xFF,
    byteOf k.rxQueue.length]

/-- The result of the watch commands: the flags as the command found them (R191). -/
def watchResult (i : WatchIx) (w : Watch) : List Byte := [byteOf i, byteOf (bit w.armed), byteOf (bit w.fired)]

/-- A place in a queue counted from 1 at the head, or none (R53, R97). -/
def placeIn (c : Chan) (q : List Chan) : Byte := if q.contains c then byteOf (q.idxOf c + 1) else 0xFF

/-- The queue position READ_SESSION reports (R53, R97, R158). -/
def queuePosition (k : Calls) (c : Chan) : Byte :=
  match (k.ses c).state, (k.ses c).curGroup with
  | .seized, _ => placeIn c k.rxQueue
  | .queued, some g => placeIn c (k.group g).queue
  | _, _ => 0xFF

/-- The qualifier bytes 20 and 21 of the session record (08, section 8.7). -/
def qualifierBytes (s : State) (c : Chan) : List Byte :=
  match (s.calls.ses c).cls with
  | .station => [byteOf (look s.loopQ c).state.code, byteOf (look s.loopQ c).pulses]
  | .trunk => [byteOf (look s.ringQ c).state.code, byteOf (look s.calls.battQ c).state.code]
  | .unused => [0xFF, 0xFF]

/-- The 32 bytes of the session record (R158; 08, section 8.7). -/
def sessionRecord (s : State) (c : Chan) : List Byte :=
  let r := s.calls.ses c
  let left := match r.timer with
    | some t => t.left
    | none => 0
  let out := s.calls.levels c
  let sent := look s.link.sent c
  [byteOf c,
    byteOf (r.cls.code + 4 * r.digitMode.code + 16 * r.serviceClass + 64 * r.flashMode.code + 128 * r.toneKind.code),
    optByte r.answerGroup, byteOf r.state.code, optByte r.peer, optByte r.holds, optByte r.heldBy, optByte r.receiver,
    optByte r.bridge, optByte r.curGroup, r.tried, byteOf r.ringCount, byteOf (r.cycles % 16 + 128 * bit r.phaseOn),
    byteOf (timerCode r.timer), byteOf left, byteOf (left / 256), byteOf (left / 65536 % 4),
    byteOf (look s.calls.listen c).code.1, byteOf (look s.calls.listen c).code.2,
    byteOf (bit out.ring + 2 * bit out.loop + 4 * bit sent.ring + 8 * bit sent.loop)] ++
    qualifierBytes s c ++ [queuePosition s.calls c] ++ noticeBytes (look s.calls.notices c) ++
    [byteOf r.digits.length] ++ packDigits r.digits

end Sys2Proof.Machine
end

