-- ==== Sys2Proof/Machine/Port.lean ====
section
/-! DEFINITION. The processor port: the sixteen registers as they read (R161, R162, R167), the data bus and the access
that the pins make (R161), and the commands of the table that are port accesses (R161 to R167). -/

namespace Sys2Proof.Machine

/-- The STATUS byte (R161; 08, Register map). -/
def State.statusByte (s : State) : Byte :=
  byteOf (s.mbox.state.code + 4 * s.op.code + 16 * bit s.mbox.collision + 32 * bit s.link.errorFlag + 64 * bit s.irqa +
    128 * bit s.irqb)

/-- Byte `k` of the result page that the read page names (R167). -/
def Mailbox.resultByte (m : Mailbox) (k : Fin 8) : Byte := look m.result ⟨8 * m.readPage + k, by omega⟩

/-- ATTN register `n`: the attention summary of channels 8n to 8n + 7 (R162, R185). -/
def State.attnByte (s : State) (n : Fin 4) : Byte :=
  byteOf (((List.finRange 8).map fun k : Fin 8 =>
    if s.noticePending ⟨8 * n + k, by omega⟩ then 2 ^ (k : Nat) else 0).sum)

/-- The CONTROL register as it reads: unused bits 0 (R162). -/
def State.controlByte (s : State) : Byte :=
  byteOf (bit s.attn.irqaEnable + 2 * bit s.attn.irqbEnable + 4 * bit s.attn.doneEnable)

/-- What each of the sixteen addresses reads as (R161). -/
def State.register (s : State) (a : Fin 16) : Byte :=
  if a = 0 then s.statusByte
  else if a = 1 then s.mbox.lastCode
  else if h : 2 ≤ a.val ∧ a.val ≤ 9 then s.mbox.resultByte ⟨a.val - 2, by omega⟩
  else if a = 10 then s.mbox.completion.code
  else if h : 11 ≤ a.val ∧ a.val ≤ 14 then s.attnByte ⟨a.val - 11, by omega⟩
  else s.controlByte

/-- A read access: CS low and RD alone strobed (R161). -/
def BusPins.reads (p : BusPins) : Bool := p.cs && p.rd && !p.wr

/-- A write access: CS low and WR alone strobed (R161). -/
def BusPins.writes (p : BusPins) : Bool := p.cs && p.wr && !p.rd

/-- D0 to D7 as the part drives them: during a read the register's value, else high impedance (R161). -/
def State.dataBus (p : BusPins) (s : State) : Option Byte := if p.reads then some (s.register p.address) else none

/-- The row that a read of an address is. The reads of addresses 1 and 11 to 15 only show the register and have none
(log 11). -/
def readRow (a : Fin 16) : Option Instr :=
  if a = 0 then some .statusRead
  else if h : 2 ≤ a.val ∧ a.val ≤ 9 then some (.resultRead ⟨a.val - 2, by omega⟩)
  else if a = 10 then some .completionRead
  else none

/-- The row that a write of a byte to an address is (R161, R163, R165). -/
def writeRow (a : Fin 16) (b : Byte) : Instr :=
  if a = 1 then (if definedCode b then .commandOffer b else .unknown b)
  else if h : 2 ≤ a.val ∧ a.val ≤ 9 then .paramWrite ⟨a.val - 2, by omega⟩ b
  else if a = 15 then .controlWrite b
  else .ignoredRegisterWrite a b

/-- The row of the table that a strobe is: each read or write strobe with CS low is one access, and RD and WR both low
is none (R161). -/
def BusPins.row (p : BusPins) : Option Instr :=
  if p.reads then readRow p.address else if p.writes then some (writeRow p.address p.data) else none

/-- The byte that a read of an address gives, recorded (log 11). -/
def State.recordRead (a : Fin 16) (s : State) : State := { s with lastRead := some (s.register a) }

/-- A change of the mailbox fields. -/
def State.mail (f : Mailbox → Mailbox) (s : State) : State := { s with mbox := f s.mbox }

/-- STATUS_READ: the byte as it stands, then the collision flag is clear (R161). -/
def execStatusRead (s : State) : Host.Outcome State Fault Refusal :=
  awake (fun s => (s.recordRead 0).mail fun m => { m with collision := false }) s

/-- A write ignored while BUSY (R164). -/
def Mailbox.collided (m : Mailbox) : Mailbox := { m with collision := true }

/-- A byte written to PARAMk outside BUSY (R163). -/
def Mailbox.writeParam (k : Fin 8) (b : Byte) (m : Mailbox) : Mailbox :=
  { m with
    params := put m.params ⟨8 * m.writePage + k, by omega⟩ b
    writePage := if k = 7 then m.writePage + 1 else m.writePage }

/-- PARAM_WRITE (R163, R164). -/
def execParamWrite (k : Fin 8) (b : Byte) (s : State) : Host.Outcome State Fault Refusal :=
  awake (State.mail fun m => if m.state = .busy then m.collided else m.writeParam k b) s

/-- RESULT_READ (R167). -/
def execResultRead (k : Fin 8) (s : State) : Host.Outcome State Fault Refusal :=
  awake (fun s =>
    (s.recordRead ⟨2 + k, by omega⟩).mail fun m => { m with readPage := if k = 7 then m.readPage + 1 else m.readPage }) s

/-- COMPLETION_READ (R166). -/
def execCompletionRead (s : State) : Host.Outcome State Fault Refusal :=
  awake (fun s =>
    (s.recordRead 10).mail fun m =>
      { m with readPage := 0, state := if m.state = .done then .idle else m.state }) s

/-- CONTROL_WRITE (R162). -/
def execControlWrite (b : Byte) (s : State) : Host.Outcome State Fault Refusal :=
  awake (fun s =>
    { s with attn := { s.attn with
        irqaEnable := b.getLsbD 0
        irqbEnable := b.getLsbD 1
        doneEnable := b.getLsbD 2 } }) s

/-- IGNORED_REGISTER_WRITE: a write to an address marked ignored changes nothing (R161). -/
def execIgnoredRegisterWrite (_a : Fin 16) (_b : Byte) (s : State) : Host.Outcome State Fault Refusal := awake id s

/-- A completion posted (R166). -/
def Mailbox.post (code : Completion) (bytes : List Byte) (m : Mailbox) : Mailbox :=
  { m with
    result := resultBuffer bytes
    completion := code
    readPage := 0
    inFlight := none
    state := .done }

/-- A command offered (R163). -/
def Mailbox.offer (code : Byte) (m : Mailbox) : Mailbox :=
  { m with
    inFlight := some ⟨code, m.params⟩
    lastCode := code
    completion := .noResult
    writePage := 0
    state := .busy }

/-- A write to COMMAND (R163, R164, R165): a collision while BUSY; an undefined code completes in the event of its
offer. -/
def Mailbox.writeCommand (code : Byte) (m : Mailbox) : Mailbox :=
  if m.state = .busy then m.collided
  else if definedCode code then m.offer code
  else (m.offer code).post .unknown []

/-- COMMAND_OFFER (R163). -/
def execCommandOffer (code : Byte) (s : State) : Host.Outcome State Fault Refusal :=
  awake (State.mail (Mailbox.writeCommand code)) s

/-- UNKNOWN (R165): a write to COMMAND like any other (log 19). -/
def execUnknown (code : Byte) (s : State) : Host.Outcome State Fault Refusal :=
  awake (State.mail (Mailbox.writeCommand code)) s

end Sys2Proof.Machine
end

