-- ==== Sys2Proof/Machine/Mailbox.lean ====
section
/-! DEFINITION. The taking of the command in flight: the order of the checks (R165), the completion (R166), and the
operating states that accept a command (R170; 08, section 8.6). -/

namespace Sys2Proof.Machine

/-- What a taken command leaves: the state, the completion code and the result bytes (R165, R166). -/
structure Reply where
  state : State
  code : Completion
  bytes : List Byte

/-- The command is carried out, with its result bytes (R169). -/
def carried (bytes : List Byte) (s : State) : Reply := ⟨s, .ok, bytes⟩

/-- The command is refused: no state changes but the mailbox, and the result bytes are 0 (R165, R166). -/
def refuse (code : Completion) (s : State) : Reply := ⟨s, code, []⟩

/-- Accepted in CONFIG only (R171). -/
def inConfig (o : OpState) : Bool := o == .config
/-- Accepted in RUN only. -/
def inRun (o : OpState) : Bool := o == .run
/-- Accepted in CONFIG and RUN. -/
def outsideStopping (o : OpState) : Bool := o != .stopping
/-- Accepted in every operating state. -/
def anyMode (_ : OpState) : Bool := true

/-- The checks of R165 in their order: BAD_ARG when the parameters do not read as arguments, WRONG_MODE when the operating
state is not one that accepts the command, then the command's own conditions and effect. -/
def checked {α : Type} (allowed : OpState → Bool) (args : Params → Option α) (body : α → State → Reply) (p : Params)
    (s : State) : Reply :=
  match args p with
  | none => refuse .badArg s
  | some a => if allowed s.op then body a s else refuse .wrongMode s

/-- The owning block takes the command in flight when it is `cmd`, and the completion is posted as the closing action of
the same event (R165, R166). With no such command in flight there is nothing to take (log 2). -/
def takeCommand (cmd : Cmd) (body : Params → State → Reply) (s : State) : Host.Outcome State Fault Refusal :=
  awake (fun s =>
    match s.mbox.inFlight with
    | some f =>
      if f.code = cmd.code then
        let r := body f.params s
        r.state.mail (Mailbox.post r.code r.bytes)
      else s
    | none => s) s

/-- The arguments of a command without parameters. -/
def noArgs (_ : Params) : Option Unit := some ()

/-- An effect on the records, which closes its event (R189, R34), completed with the session result of the channels named
(08, section 8.7). -/
def withSessions (c : Chan) (second : Option Chan) (k : Calls) (s : State) : Reply :=
  let s1 := s.close k
  carried (sessionResult s1.calls c second) s1

end Sys2Proof.Machine
end

