-- ==== Sys2Proof/Machine/CallControl.lean ====
section
/-! DEFINITION. The session commands (R148 to R155) and the bridge commands (R130 to R133, R137). -/

namespace Sys2Proof.Machine

/-- HOLD's condition and effect (R148, R140). -/
def holdBody (c : Chan) (s : State) : Reply :=
  match s.calls.consultPeer c with
  | some p => withSessions c (some p) (s.calls.consult s.env c p) s
  | none => refuse .badState s

/-- HOLD (R148). -/
def execHold (s : State) : Host.Outcome State Fault Refusal := takeCommand .hold (checked inRun readChan holdBody) s

/-- RETRIEVE's condition and effect (R149, R142). -/
def retrieveBody (c : Chan) (s : State) : Reply :=
  match (s.calls.ses c).holds with
  | some h => withSessions c (some h) (s.calls.returnToHeld s.env c h) s
  | none => refuse .badState s

/-- RETRIEVE (R149). -/
def execRetrieve (s : State) : Host.Outcome State Fault Refusal :=
  takeCommand .retrieve (checked inRun readChan retrieveBody) s

/-- TRANSFER's condition and effect (R150): the held party is handed on, or parked in HOSTWAIT, and the holder enters
HOSTWAIT. -/
def transferBody (c : Chan) (s : State) : Reply :=
  match (s.calls.ses c).holds with
  | some h => withSessions c (some h) (s.calls.unwind s.env true c (Calls.toHostwait c)) s
  | none => refuse .badState s

/-- TRANSFER (R150). -/
def execTransfer (s : State) : Host.Outcome State Fault Refusal :=
  takeCommand .transfer (checked inRun readChan transferBody) s

/-- The DROP of a RINGING station (R152, R12): it is cleared to IDLE, its originator's count falls by one and at 0 the
originator takes the no-answer outcome, then the station goes through the line check and the free path (log 13). -/
def Calls.dropRinging (e : Env) (d : Chan) (k : Calls) : Calls :=
  match (k.ses d).peer with
  | some o =>
    let k1 := (k.toIdle d).alter o fun r => { r with ringCount := r.ringCount - 1 }
    (if (k1.ses o).ringCount = 0 then k1.noAnswer e o else k1).idleStages e [d]
  | none => k.enterIdle e d

/-- The DROP of a channel whose state has a session to clear (R151, R152): a trunk enters RELEASING, a station LOCKOUT. -/
def Calls.dropSession (e : Env) (c : Chan) (k : Calls) : Calls :=
  k.unwind e false c (if (k.ses c).cls = .trunk then Calls.toReleasing e c else Calls.toLockout c)

/-- DROP's condition and effect (R151, R152). -/
def dropBody (c : Chan) (s : State) : Reply :=
  match (s.calls.ses c).state with
  | .idle | .blocked | .releasing => refuse .badState s
  | .ringing => withSessions c none (s.calls.dropRinging s.env c) s
  | .seized | .collecting | .hostwait | .outring | .trunkwait | .queued | .talk | .held | .confer | .toneout | .lockout
  | .ringin | .seizing => withSessions c none (s.calls.dropSession s.env c) s

/-- DROP (R151, R152). -/
def execDrop (s : State) : Host.Outcome State Fault Refusal := takeCommand .drop (checked inRun readChan dropBody) s

/-- PLACE may act on `c` (R153): HOSTWAIT, and not an answered trunk. -/
def Calls.mayPlace (k : Calls) (c : Chan) : Bool :=
  (k.ses c).state == .hostwait && !((k.ses c).cls == .trunk && (k.levels c).loop)

/-- PLACE may name `d` as destination for `c` (R153). -/
def Calls.mayReach (k : Calls) (c d : Chan) : Bool :=
  d != c && (k.ses d).cls != .unused && (k.ses d).state != .blocked

/-- PLACE's condition and effect (R153). -/
def placeBody (a : Chan × PlaceOn) (s : State) : Reply :=
  if s.calls.mayPlace a.1 then
    match a.2 with
    | .group g => withSessions a.1 none (s.calls.huntFresh s.env g a.1) s
    | .channel d =>
      if s.calls.mayReach a.1 d then withSessions a.1 none (s.calls.placeDirect s.env a.1 d) s else refuse .badState s
  else refuse .badState s

/-- PLACE (R153). -/
def execPlace (s : State) : Host.Outcome State Fault Refusal := takeCommand .place (checked inRun readPlace placeBody) s

/-- CONNECT's condition and effect (R154). -/
def connectBody (a : Chan × Chan) (s : State) : Reply :=
  if (s.calls.ses a.1).state = .hostwait ∧ (s.calls.ses a.2).state = .hostwait then
    withSessions a.1 (some a.2) (s.calls.pair a.1 a.2) s
  else refuse .badState s

/-- CONNECT (R154). -/
def execConnect (s : State) : Host.Outcome State Fault Refusal :=
  takeCommand .connect (checked inRun readTwoChans connectBody) s

/-- SET_LISTEN may act on `c` (R155): HOSTWAIT, and not an unanswered trunk. -/
def Calls.mayListen (k : Calls) (c : Chan) : Bool :=
  (k.ses c).state == .hostwait && ((k.ses c).cls != .trunk || (k.levels c).loop)

/-- SET_LISTEN's condition and effect (R155). -/
def setListenBody (a : Chan × Listen) (s : State) : Reply :=
  if s.calls.mayListen a.1 then
    let s1 := { s with calls := s.calls.setListen a.1 a.2 }
    carried (sessionResult s1.calls a.1 none ++ [byteOf a.2.code.1, byteOf a.2.code.2]) s1
  else refuse .badState s

/-- SET_LISTEN (R155). -/
def execSetListen (s : State) : Host.Outcome State Fault Refusal :=
  takeCommand .setListen (checked inRun readListen setListenBody) s

/-- The held party and the partner a conference joins to `c` (R130). -/
def Calls.conferenceParties (k : Calls) (c : Chan) : Option (Chan × Chan) :=
  match (k.ses c).state, (k.ses c).holds, (k.ses c).peer with
  | .talk, some h, some p => if (k.ses p).holds = none then some (h, p) else none
  | _, _, _ => none

/-- CONFERENCE's conditions and effect (R130, R131). -/
def conferenceBody (c : Chan) (s : State) : Reply :=
  match s.calls.conferenceParties c with
  | none => refuse .badState s
  | some (h, p) =>
    match s.calls.lowestFreeBridge with
    | none => refuse .noResource s
    | some b => carried [byteOf b, 3] (s.close (s.calls.formBridge b c h p))

/-- CONFERENCE (R130, R131). -/
def execConference (s : State) : Host.Outcome State Fault Refusal :=
  takeCommand .conference (checked inRun readChan conferenceBody) s

/-- The most members of a bridge (R128, R132). -/
def bridgeLimit : Nat := 4

/-- `c` may join a bridge (R132): HELD, or HOSTWAIT and no station that holds a party. -/
def Calls.mayJoin (k : Calls) (c : Chan) : Bool :=
  match (k.ses c).state with
  | .held => true
  | .hostwait => !((k.ses c).cls == .station && (k.ses c).holds != none)
  | _ => false

/-- JOIN's conditions and effect (R132, R133). -/
def joinBody (a : BridgeIx × Chan) (s : State) : Reply :=
  if bridgeLimit ≤ (s.calls.members a.1).length then refuse .noResource s
  else if s.calls.members a.1 = [] then refuse .badState s
  else if s.calls.mayJoin a.2 then carried [byteOf a.1, 4] (s.close (s.calls.joinBridge a.1 a.2))
  else refuse .badState s

/-- JOIN (R132, R133). -/
def execJoin (s : State) : Host.Outcome State Fault Refusal := takeCommand .join (checked inRun readJoin joinBody) s

/-- READ_BRIDGE (R137). -/
def execReadBridge (s : State) : Host.Outcome State Fault Refusal :=
  takeCommand .readBridge
    (checked anyMode (fun p => readFin 4 (look p 0)) fun b s => carried (bridgeResult s.calls b) s) s

end Sys2Proof.Machine
end

