-- ==== Sys2Proof/Machine/Channels.lean ====
section
/-! DEFINITION. The commands that configure, block, restore and read a channel (R7, R156, R157, R158, R92). -/

namespace Sys2Proof.Machine

/-- The five configuration fields replaced together (R7). -/
def Session.configured (a : ConfigArgs) (r : Session) : Session :=
  { r with
    cls := a.cls
    digitMode := a.digitMode
    serviceClass := a.serviceClass
    flashMode := a.flashMode
    answerGroup := a.answerGroup }

/-- A change of class: new qualifiers in their reset states, both desired levels off and open, and a STATUS_REQUEST
pending (R7, R39, R45, R48). That the events of the old qualifiers that are in flight stay in flight is the model's choice
(log 1). -/
def State.reclassed (c : Chan) (s : State) : State :=
  { s with
    loopQ := put s.loopQ c .reset
    ringQ := put s.ringQ c .reset
    calls := (s.calls.setBatt c .reset).setOut c .rest
    link := { s.link with statusPending := true } }.kick

/-- The effect of CONFIGURE_CHANNEL (R7). -/
def State.configure (a : ConfigArgs) (s : State) : State :=
  let s1 := { s with calls := s.calls.alter a.chan (Session.configured a) }
  if a.cls = (s.calls.ses a.chan).cls then s1 else s1.reclassed a.chan

/-- CONFIGURE_CHANNEL's condition and effect (R7). -/
def configureBody (a : ConfigArgs) (s : State) : Reply :=
  if s.op = .run ∧ (s.calls.ses a.chan).active then refuse .badState s else carried [] (s.configure a)

/-- CONFIGURE_CHANNEL (R7). -/
def execConfigureChannel (s : State) : Host.Outcome State Fault Refusal :=
  takeCommand .configureChannel (checked outsideStopping readConfig configureBody) s

/-- BLOCK's condition and effect (R156). -/
def blockBody (c : Chan) (s : State) : Reply :=
  if (s.calls.ses c).state = .idle then withSessions c none (s.calls.enter c .blocked id) s else refuse .badState s

/-- BLOCK (R156), accepted in CONFIG and RUN: R160's refusal of BLOCK and RESTORE in a CONFIG that
follows a STOP is not followed here (DEDUCED, log 24). -/
def execBlock (s : State) : Host.Outcome State Fault Refusal :=
  takeCommand .block (checked outsideStopping readChan blockBody) s

/-- RESTORE's condition and effect (R157). -/
def restoreBody (c : Chan) (s : State) : Reply :=
  if (s.calls.ses c).state = .blocked then withSessions c none (s.calls.enterIdle s.env c) s else refuse .badState s

/-- RESTORE (R157), accepted in CONFIG and RUN as BLOCK is (DEDUCED, log 24). -/
def execRestore (s : State) : Host.Outcome State Fault Refusal :=
  takeCommand .restore (checked outsideStopping readChan restoreBody) s

/-- READ_SESSION (R158). -/
def execReadSession (s : State) : Host.Outcome State Fault Refusal :=
  takeCommand .readSession (checked anyMode readChan fun c s => carried (sessionRecord s c) s) s

/-- The result of READ_DIGITS (R92). -/
def digitsResult (k : Calls) (c : Chan) : List Byte :=
  [byteOf c, byteOf (k.ses c).digits.length] ++ packDigits (k.ses c).digits

/-- READ_DIGITS (R92). -/
def execReadDigits (s : State) : Host.Outcome State Fault Refusal :=
  takeCommand .readDigits (checked anyMode readChan fun c s => carried (digitsResult s.calls c) s) s

end Sys2Proof.Machine
end

