-- ==== Sys2Proof/Config.lean ====
section
/-! DEFINITION. What the manual leaves to the part or leaves unstated, as constants with no body. The manual specifies
no audio sample (00_scope.md, System context; 06, opening), so the coding of the PCM highway and the samples of the
tones are free values: nothing can be proved of any one of them (log 9). -/

namespace Sys2Proof.Config

/-- The code of silence, "the code of zero amplitude in that coding" (06, section 6.2). Free value, log 9. -/
opaque silence : Byte
/-- The sample of a tone burst: of the generator with that number, of the frequencies in Hz that sound together (R126), in
the frame with that number. Free value, log 9. -/
opaque toneSample : Nat → List Nat → Nat → Byte
/-- The linear value of a sample (R129, "expanded to linear values"). Free value, log 9. -/
opaque expand : Byte → Int
/-- The sample of a linear value within range (R129, "re-encoded"). Free value, log 9. -/
opaque encode : Int → Byte
/-- The largest linear value the coding can carry (R129). Free value, log 9. -/
opaque largest : Nat

end Sys2Proof.Config
end

