-- ==== Sys2Proof/Machine/Highway.lean ====
section
/-! DEFINITION. The outgoing highway and the tone generators of the Connection Map (R124 to R129). The samples are free
values of Config (log 9); a frame is one event, or several where other events come between its slots (log 10). -/

namespace Sys2Proof.Machine

/-- The sample most recently received in slot `d` when slot `c` is filled: from this frame when `d` precedes `c`, else
from the previous frame (R125). -/
def receivedFor (incoming before : Vector Byte 32) (c d : Chan) : Byte :=
  if d < c then look incoming d else look before d

/-- A linear value held within the largest the coding can carry, of the same sign (R129). -/
def clamped (v : Int) : Int := max (-(Config.largest : Int)) (min v Config.largest)

/-- What member `c` of a bridge hears: the sum of the other members' samples, re-encoded (R129). -/
def mixed (incoming before : Vector Byte 32) (c : Chan) (members : List Chan) : Byte :=
  Config.encode (clamped (((members.filter (· ≠ c)).map fun d => Config.expand (receivedFor incoming before c d)).sum))

/-- The output of a tone generator in a frame: the tone in a tone step, silence in a silence step (R126). -/
def toneOut (frame : Nat) (g : ToneGen) (t : Tone) : Byte :=
  if g.sounding t then Config.toneSample (toneIx t) (toneFrequencies t) frame else Config.silence

/-- The sample that slot `c` of PCMO carries when it begins in state `s` (R122, R124, R129). -/
def State.slotSample (incoming : Vector Byte 32) (s : State) (c : Chan) : Byte :=
  if (s.calls.ses c).cls = .unused then Config.silence
  else
    match look s.calls.listen c with
    | .none => Config.silence
    | .tone t => toneOut s.highway.frames (look s.tones (toneIx t)) t
    | .slot d => receivedFor incoming s.highway.received c d
    | .bridge b => mixed incoming s.highway.received c (look s.calls.bridges b)

/-- The slots `a` to `b` of the present frame begin one after the other with no event between: each carries the sample
its source gives in state `s`, every slot before `b` has been received, and `b` is the slot now being sent (R124,
R125). -/
def State.sendSlots (a b : Chan) (s : State) : State :=
  let h := s.highway
  { s with highway := { h with
      carried := tabulate fun c => if a ≤ c ∧ c ≤ b then some (s.slotSample h.arriving c) else look h.carried c
      received := tabulate fun d => if d < b then look h.arriving d else look h.received d
      slot := some b } }

/-- The slot being sent ends: it has been received, and no slot is driven (R124). -/
def State.endSlot (s : State) : State :=
  match s.highway.slot with
  | some c =>
    { s with highway := { s.highway with
        received := put s.highway.received c (look s.highway.arriving c)
        slot := none } }
  | none => s

/-- The slot after `c`, the one being sent, begins; or the frame ends, after its last slot or where the clocks stop
(R124). -/
def State.nextSlot (c : Chan) (s : State) : State :=
  if s.highway.last ≤ c then s.endSlot else s.sendSlots (c + 1) (c + 1)

/-- What PCMO carries now: the sample of the slot being sent, or nothing, at high impedance (R124). -/
def State.pcmo (s : State) : Option Byte := s.highway.slot.bind (look s.highway.carried)

/-- FS begins a frame whose incoming samples and last slot are given. A slot of the frame before that is still being
sent is cut off (log 10). -/
def State.beginFrame (incoming : Vector Byte 32) (last : Chan) (s : State) : State :=
  { s with highway := { s.highway with
      arriving := incoming, slot := none, last := last, frames := s.highway.frames + 1 } }

/-- A frame of the highway as far as the clocks run with no other event (R124; log 10): to within the slot where an
event comes between, if the clocks reach it, else to the end of its last slot. -/
def State.highwayFrame (incoming : Vector Byte 32) (clocks : Clocking) (s : State) : State :=
  let s1 := s.beginFrame incoming clocks.last
  match clocks.pause with
  | some c => if c ≤ clocks.last then s1.sendSlots 0 c else (s1.sendSlots 0 clocks.last).endSlot
  | none => (s1.sendSlots 0 clocks.last).endSlot

/-- FRAME_SYNC (R124). -/
def execFrameSync (slots : Vector Byte 32) (s : State) (clocks : Clocking := .whole) :
    Host.Outcome State Fault Refusal :=
  awake (State.highwayFrame slots clocks) s

/-- The generator of tone `t` moves to its next step when its present one has run out (R126). -/
def State.toneStep (t : Tone) (s : State) : State :=
  let g := look s.tones (toneIx t)
  if g.left = some 0 then { s with tones := put s.tones (toneIx t) (ToneGen.atStep t (ToneGen.after t g.step)) } else s

/-- TONE_STEP_END (R126). -/
def execToneStepEnd (t : Tone) (s : State) : Host.Outcome State Fault Refusal := awake (State.toneStep t) s

end Sys2Proof.Machine
end

