-- ==== Sys2Proof/Machine/SessionTimers.lean ====
section
/-! DEFINITION. The expiries of the session timer (R4, R5), one command of the table for each kind. An expiry belongs to
the run of the timer that produced it, so it acts only when a timer of its kind stands at zero in a state that runs it
(log 3). -/

namespace Sys2Proof.Machine

/-- The states in which a timer of each kind runs (R4, R8, R9). -/
def TimerKind.runsIn : TimerKind → SState → Bool
  | .firstDigit, st | .interdigit, st | .overlap, st => st == .collecting
  | .rxWait, st => st == .seized
  | .cadence, st => st.rings
  | .queueWait, st => st == .queued
  | .toneout, st => st == .toneout
  | .guard, st => st == .releasing
  | .seizeWait, st | .cutThrough, st => st == .seizing

/-- The session timer of a record is of kind `kind` and due (R4). -/
def Session.due (kind : TimerKind) (r : Session) : Bool := r.timer == some ⟨kind, 0⟩ && kind.runsIn r.state

/-- An expiry of the session timer of `c` (R4): `f` when it is due, nothing otherwise. -/
def State.expire (kind : TimerKind) (c : Chan) (f : Env → Chan → Calls → Calls) (s : State) : State :=
  if (s.calls.ses c).due kind then s.close (f s.env c s.calls) else s

/-- The RX_WAIT expiry (R5, R55): RXWAIT is raised, the timer stops, the record stays SEIZED in its place. -/
def Calls.rxWaitEnd (e : Env) (c : Chan) (k : Calls) : Calls :=
  (k.alter c fun r => { r with timer := none }).raise e .rxwait c

/-- FIRST_DIGIT_EXPIRY (R73). -/
def execFirstDigitExpiry (c : Chan) (s : State) : Host.Outcome State Fault Refusal :=
  awake (State.expire .firstDigit c Calls.endReorder) s

/-- INTERDIGIT_EXPIRY (R83). -/
def execInterdigitExpiry (c : Chan) (s : State) : Host.Outcome State Fault Refusal :=
  awake (State.expire .interdigit c Calls.collectionExpiry) s

/-- OVERLAP_EXPIRY (R83). -/
def execOverlapExpiry (c : Chan) (s : State) : Host.Outcome State Fault Refusal :=
  awake (State.expire .overlap c Calls.collectionExpiry) s

/-- RX_WAIT_EXPIRY (R5, R55). -/
def execRxWaitExpiry (c : Chan) (s : State) : Host.Outcome State Fault Refusal :=
  awake (State.expire .rxWait c Calls.rxWaitEnd) s

/-- CADENCE_EXPIRY (R106, R107). -/
def execCadenceExpiry (c : Chan) (s : State) : Host.Outcome State Fault Refusal :=
  awake (State.expire .cadence c Calls.cadence) s

/-- QUEUE_WAIT_EXPIRY (R116). -/
def execQueueWaitExpiry (c : Chan) (s : State) : Host.Outcome State Fault Refusal :=
  awake (State.expire .queueWait c Calls.queueOut) s

/-- TONEOUT_EXPIRY (R24). -/
def execToneoutExpiry (c : Chan) (s : State) : Host.Outcome State Fault Refusal :=
  awake (State.expire .toneout c fun _ => Calls.toLockout) s

/-- GUARD_EXPIRY (R26, R27). -/
def execGuardExpiry (c : Chan) (s : State) : Host.Outcome State Fault Refusal :=
  awake (State.expire .guard c Calls.enterIdle) s

/-- SEIZE_WAIT_EXPIRY (R111). -/
def execSeizeWaitExpiry (c : Chan) (s : State) : Host.Outcome State Fault Refusal :=
  awake (State.expire .seizeWait c Calls.seizeFailed) s

/-- CUT_THROUGH_EXPIRY (R110). -/
def execCutThroughExpiry (c : Chan) (s : State) : Host.Outcome State Fault Refusal :=
  awake (State.expire .cutThrough c fun _ => Calls.cutThrough) s

end Sys2Proof.Machine
end

