-- ==== Sys2Proof/Machine/Supervision.lean ====
section
/-! DEFINITION. The commands of the table that reset the part, cross the scan link, and end a qualifier's timer. -/

namespace Sys2Proof.Machine

/-- HARDWARE_RESET (R38 and the reset values of every chapter): every block takes its reset state, with RESET asserted
until RESET_END. The queue and the count of highway frames are the model's own and stand (logs 6, 9). -/
def execHardwareReset (s : State) : Host.Outcome State Fault Refusal :=
  .next { State.reset with
    pending := s.pending
    highway := { Highway.reset with frames := s.highway.frames } }

/-- RESET_END (R38, R126): the tone generators begin their first steps and the transmitter picks. -/
def execResetEnd (s : State) : Host.Outcome State Fault Refusal :=
  .next (if s.resetAsserted then { s with resetAsserted := false, tones := toneStart }.pick false else s)

/-- CONDITION_REPORT (R29, R30, R32). A frame is found at a high bit on a resting SDI, so bits without one are no frame,
and nothing is taken (R179). -/
def execConditionReport (byte0 byte1 : Byte) (stop : Bool) (s : State) (start : Bool := true) (t : Taking := .now) :
    Host.Outcome State Fault Refusal :=
  let frame := frameBits byte0 byte1 stop start
  awake (fun s =>
    if frameStart frame then
      match readReport frame with
      | some r => s.route t r
      | none => s.badFrame
    else s) s

/-- FRAME_COMPLETION (R35): of the frame in flight, if any. -/
def execFrameCompletion (s : State) : Host.Outcome State Fault Refusal :=
  awake (fun s =>
    match s.link.flight with
    | some o => s.completeFrame o
    | none => s) s

/-- SEIZE_QUAL_EXPIRY (R40). -/
def execSeizeQualExpiry (c : Chan) (s : State) (t : Taking := .now) : Host.Outcome State Fault Refusal :=
  awake (State.seizeQual t c) s

/-- FLASH_MAX_EXPIRY (R43). -/
def execFlashMaxExpiry (c : Chan) (s : State) (t : Taking := .now) : Host.Outcome State Fault Refusal :=
  awake (State.flashMax t c) s

/-- PULSE_MAKE_END_EXPIRY (R44). -/
def execPulseMakeEndExpiry (c : Chan) (s : State) (t : Taking := .now) : Host.Outcome State Fault Refusal :=
  awake (State.pulseMakeEnd t c) s

/-- BURST_TIMER_EXPIRY (R46, R47). -/
def execBurstTimerExpiry (c : Chan) (s : State) (t : Taking := .now) : Host.Outcome State Fault Refusal :=
  awake (State.burstEnd t c) s

/-- GAP_TIMER_EXPIRY (R47). -/
def execGapTimerExpiry (c : Chan) (s : State) (t : Taking := .now) : Host.Outcome State Fault Refusal :=
  awake (State.gapEnd t c) s

/-- BATT_SEIZE_QUAL_EXPIRY (R48). -/
def execBattSeizeQualExpiry (c : Chan) (s : State) (t : Taking := .now) : Host.Outcome State Fault Refusal :=
  awake (State.battOn t c) s

/-- FAR_OPEN_MIN_EXPIRY (R48). -/
def execFarOpenMinExpiry (c : Chan) (s : State) (t : Taking := .now) : Host.Outcome State Fault Refusal :=
  awake (State.farOpen t c) s

end Sys2Proof.Machine
end

