-- ==== Sys2Proof/Machine/Clock.lean ====
section
/-! DEFINITION. The timebase: which events are due, the passing of one millisecond, and what a step does on an empty
queue (R4, R39, R45, R48, R51, R126; log 4). -/

namespace Sys2Proof.Machine

/-- The loop qualifier's timer of a kind is due in a state that runs it (R40, R43, R44). -/
def LoopQual.due (q : LoopQual) (st : LoopState) (kind : LoopTimer) : Bool := q.state == st && q.timer == some (kind, 0)

/-- The burst timer is due in a state that runs it (R46, R47). -/
def RingQual.burstDue (q : RingQual) : Bool :=
  q.burst == some 0 && (q.state == .burstTiming || (q.state == .gapTiming && q.inCheck))

/-- The gap timer is due (R47). -/
def RingQual.gapDue (q : RingQual) : Bool := q.gap == some 0 && q.state == .gapTiming

/-- A single command when a condition holds. -/
def whenDue (b : Bool) (i : Instr) : List Instr := if b then [i] else []

/-- The commands due at the qualifiers and the session record of `c`. -/
def State.dueAt (s : State) (c : Chan) : List Instr :=
  let l := look s.loopQ c
  let r := look s.ringQ c
  let t := s.calls.ses c
  whenDue (l.due .seizeTiming .seizeQual) (.seizeQualExpiry c .now) ++
    whenDue (l.due .openTiming .flashMax) (.flashMaxExpiry c .now) ++
    whenDue (l.due .offhook .pulseMakeEnd) (.pulseMakeEndExpiry c .now) ++ whenDue r.burstDue (.burstTimerExpiry c .now) ++
    whenDue r.gapDue (.gapTimerExpiry c .now) ++
    whenDue (s.calls.batt c == ⟨.timing, some 0⟩) (.battSeizeQualExpiry c .now) ++
    whenDue (s.calls.batt c == ⟨.dropTiming, some 0⟩) (.farOpenMinExpiry c .now) ++
    whenDue (t.due .firstDigit) (.firstDigitExpiry c) ++ whenDue (t.due .interdigit) (.interdigitExpiry c) ++
    whenDue (t.due .overlap) (.overlapExpiry c) ++ whenDue (t.due .rxWait) (.rxWaitExpiry c) ++
    whenDue (t.due .cadence) (.cadenceExpiry c) ++ whenDue (t.due .queueWait) (.queueWaitExpiry c) ++
    whenDue (t.due .toneout) (.toneoutExpiry c) ++ whenDue (t.due .guard) (.guardExpiry c) ++
    whenDue (t.due .seizeWait) (.seizeWaitExpiry c) ++ whenDue (t.due .cutThrough) (.cutThroughExpiry c)

/-- The commands due at a receiver. -/
def State.dueAtReceiver (s : State) (r : RxIx) : List Instr :=
  whenDue (s.calls.rx r).onDue (.toneOnMinExpiry r .now) ++ whenDue (s.calls.rx r).gapDue (.toneGapMinExpiry r)

/-- The tones. -/
def allTones : List Tone := [.dial, .ringback, .busy, .reorder, .hold]

/-- The row that takes the command in flight (R165). R168 gives no time for the taking: that a command in flight is due
before the next millisecond passes is the model's choice (DESIGN CHOICE, log 25). -/
def State.dueTaking (s : State) : List Instr :=
  match s.mbox.inFlight with
  | some f => ((Cmd.ofCode f.code).map Cmd.row).toList
  | none => []

/-- Every command that the part's own time makes due now: the frame in flight has been sent (log 5), a tone step has
ended, a timer has run out, the command in flight is taken (log 25). The order is the model's (log 4). -/
def State.dueCommands (s : State) : List Instr :=
  whenDue s.link.flight.isSome .frameCompletion ++
    allTones.flatMap (fun t => whenDue ((look s.tones (toneIx t)).left == some 0) (.toneStepEnd t)) ++
    allReceivers.flatMap s.dueAtReceiver ++ allChans.flatMap s.dueAt ++ s.dueTaking

/-- One millisecond less on a timer that carries a kind. -/
def lessOne {α : Type} (t : α × Nat) : α × Nat := (t.1, t.2 - 1)

/-- One millisecond passes: every running timer has one less to run (R4, R39, R45, R48, R51, R126). -/
def State.tick (s : State) : State :=
  { s with
    now := s.now + 1
    calls := { s.calls with
      sessions := every (fun r : Session => { r with timer := r.timer.map fun t => ⟨t.kind, t.left - 1⟩ }) s.calls.sessions
      battQ := every (fun q : BattQual => { q with timer := q.timer.map (· - 1) }) s.calls.battQ
      receivers := every (fun x : Receiver => { x with timer := x.timer.map lessOne }) s.calls.receivers }
    loopQ := every (fun q : LoopQual => { q with timer := q.timer.map lessOne }) s.loopQ
    ringQ := every (fun q : RingQual => { q with burst := q.burst.map (· - 1), gap := q.gap.map (· - 1) }) s.ringQ
    tones := every (fun g : ToneGen => { g with left := g.left.map (· - 1) }) s.tones }

/-- A step on an empty queue (log 4): ST takes the first delivery in flight (log 1); with none, a highway frame in
progress goes on to its next slot (log 10); with none, the commands that are due join the queue; when none is due one
millisecond passes. While RESET is held the part stands still. -/
def State.idleStep (s : State) : State :=
  if s.resetAsserted then s
  else
    match s.deliveries, s.highway.slot with
    | v :: rest, _ => s.takeFlying v rest
    | [], some c => s.nextSlot c
    | [], none =>
      match s.dueCommands with
      | [] => s.tick
      | due => { s with pending := due }

end Sys2Proof.Machine
end

