-- ==== Sys2Proof/Machine/Notices.lean ====
section
/-! DEFINITION. The commands of the Attention Unit (R184, R191, R192). -/

namespace Sys2Proof.Machine

/-- TAKE_NOTICES for a channel: its set is copied and emptied (R184). -/
def takeChannelNotices (c : Chan) (s : State) : Reply :=
  carried (byteOf c :: noticeBytes (look s.calls.notices c))
    { s with calls := { s.calls with notices := put s.calls.notices c 0 } }

/-- TAKE_NOTICES for the system set: it is copied and emptied, and the link error flag is cleared (R184, R31). -/
def takeSystemNotices (s : State) : Reply :=
  carried [32, byteOf (bit s.attn.linkErr), 0]
    { s with
      attn := { s.attn with linkErr := false }
      link := { s.link with errorFlag := false } }

/-- TAKE_NOTICES' effect and result (R184). -/
def takeNoticesBody (n : Fin 33) (s : State) : Reply :=
  if h : n.val < 32 then takeChannelNotices ⟨n.val, h⟩ s else takeSystemNotices s

/-- TAKE_NOTICES (R184). -/
def execTakeNotices (s : State) : Host.Outcome State Fault Refusal :=
  takeCommand .takeNotices (checked anyMode (fun p => readFin 33 (look p 0)) takeNoticesBody) s

/-- A watch record replaced by `f` of it, completed with its flags as the command found them (R191). -/
def withWatch (i : WatchIx) (f : Watch → Watch) (s : State) : Reply :=
  carried (watchResult i (look s.attn.watches i))
    { s with attn := { s.attn with watches := put s.attn.watches i (f (look s.attn.watches i)) } }

/-- SET_WATCH's effect (R191): disarmed, the watch cannot fire at its evaluation. -/
def setWatchBody (a : WatchIx × WatchMode × BitVec 32 × BitVec 17) (s : State) : Reply :=
  withWatch a.1 (fun _ => ({ chans := a.2.2.1, states := a.2.2.2, mode := a.2.1, armed := false, fired := false } :
    Watch).evaluate s.calls) s

/-- SET_WATCH (R191). -/
def execSetWatch (s : State) : Host.Outcome State Fault Refusal :=
  takeCommand .setWatch (checked outsideStopping readWatch setWatchBody) s

/-- ARM_WATCH's effect (R192): armed, then evaluated at once. -/
def armWatchBody (i : WatchIx) (s : State) : Reply :=
  withWatch i (fun w => { w with armed := true, fired := false }.evaluate s.calls) s

/-- ARM_WATCH (R192). -/
def execArmWatch (s : State) : Host.Outcome State Fault Refusal :=
  takeCommand .armWatch (checked outsideStopping (fun p => readFin 2 (look p 0)) armWatchBody) s

/-- DISARM_WATCH's effect (R192). -/
def disarmWatchBody (i : WatchIx) (s : State) : Reply :=
  withWatch i (fun w => { w with armed := false, fired := false }) s

/-- DISARM_WATCH (R192). -/
def execDisarmWatch (s : State) : Host.Outcome State Fault Refusal :=
  takeCommand .disarmWatch (checked outsideStopping (fun p => readFin 2 (look p 0)) disarmWatchBody) s

end Sys2Proof.Machine
end

