-- ==== Sys2Proof/Machine/Operating.lean ====
section
/-! DEFINITION. START and STOP (R171, R172, R28, R67, R120, R138) and the commands of the Parameter Store (R175, R176,
R177, R183). -/

namespace Sys2Proof.Machine

/-- The stations START takes up as seized (R171). -/
def Calls.offHookStations (e : Env) (k : Calls) : List Chan :=
  allChans.filter fun c => (k.ses c).cls == .station && (k.ses c).state == .idle &&
    ((look e.loopQ c).state == .offhook || (look e.loopQ c).state == .openTiming)

/-- The trunks START takes up as incoming calls (R171). -/
def Calls.ringingTrunks (e : Env) (k : Calls) : List Chan :=
  allChans.filter fun c => (k.ses c).cls == .trunk && (k.ses c).state == .idle && (look e.ringQ c).state == .inBurst

/-- The take-up of START: stations before trunks, each in ascending number (R171). -/
def Calls.takeUp (e : Env) (k : Calls) : Calls :=
  (k.ringingTrunks e).foldl (fun k c => k.incomingCall e c) ((k.offHookStations e).foldl (fun k c => k.seizure e c) k)

/-- START's effect and result (R171). -/
def startBody (_ : Unit) (s : State) : Reply :=
  let s1 := { s with op := .run }
  let s2 := s1.close (s1.calls.takeUp s1.env)
  carried [byteOf s2.op.code, byteOf (s.calls.offHookStations s1.env).length, byteOf (s.calls.ringingTrunks s1.env).length]
    s2

/-- START (R171). -/
def execStart (s : State) : Host.Outcome State Fault Refusal := takeCommand .start (checked inConfig noArgs startBody) s


/-- A receiver at STOP (R67). -/
def Receiver.stopped (x : Receiver) : Receiver :=
  if x.state.assigned then (if x.service = .inService then .freed else .retired) else x

/-- The call state STOP leaves (R28, R67, R120, R138): no line check, no free path and no notice. -/
def Calls.stopAll (k : Calls) : Calls :=
  { k with
    sessions := every (fun r : Session => if r.active then r.moved .idle else r) k.sessions
    listen := tabulate fun c => if (k.ses c).active then .none else look k.listen c
    out := tabulate fun c => if (k.ses c).active then .rest else look k.out c
    receivers := every Receiver.stopped k.receivers
    rxQueue := []
    groups := every (fun g : Group => { g with queue := [] }) k.groups
    bridges := Vector.replicate 4 [] }

/-- STOP's effect and result (R172): STOPPING, or CONFIG when the images agree at once. -/
def stopBody (_ : Unit) (s : State) : Reply :=
  let s1 := ({ s with op := .stopping }.close s.calls.stopAll).endStopping
  carried [byteOf s1.op.code] s1

/-- STOP (R172). -/
def execStop (s : State) : Host.Outcome State Fault Refusal := takeCommand .stop (checked inRun noArgs stopBody) s

/-- SET_PARAM's effect and result (R175). -/
def setParamBody (a : ParamIx × Nat) (s : State) : Reply :=
  let s1 := { s with params := { s.params with staged := put s.params.staged a.1 a.2 } }
  carried (paramResult s1 a.1) s1

/-- SET_PARAM (R175). -/
def execSetParam (s : State) : Host.Outcome State Fault Refusal :=
  takeCommand .setParam (checked outsideStopping readParamArgs setParamBody) s

/-- APPLY_PARAMS' effect and result (R176). -/
def applyParamsBody (_ : Unit) (s : State) : Reply :=
  if failedRelation s.params.staged = 0 then
    carried [0] { s with params := { s.params with current := s.params.staged } }
  else ⟨s, .inconsistent, [byteOf (failedRelation s.params.staged)]⟩

/-- APPLY_PARAMS (R176). -/
def execApplyParams (s : State) : Host.Outcome State Fault Refusal :=
  takeCommand .applyParams (checked outsideStopping noArgs applyParamsBody) s

/-- READ_PARAM's result (R177). -/
def readParamBody (i : ParamIx) (s : State) : Reply := carried (paramResult s i) s

/-- READ_PARAM (R177). -/
def execReadParam (s : State) : Host.Outcome State Fault Refusal :=
  takeCommand .readParam (checked anyMode (fun p => readFin 23 (look p 0)) readParamBody) s

/-- SET_NOTICE_MASK's effect and result (R183). -/
def setNoticeMaskBody (m : NoticeSet) (s : State) : Reply :=
  carried (noticeBytes m) { s with params := { s.params with mask := m } }

/-- SET_NOTICE_MASK (R183). -/
def execSetNoticeMask (s : State) : Host.Outcome State Fault Refusal :=
  takeCommand .setNoticeMask (checked outsideStopping (fun p => some (readMask p)) setNoticeMaskBody) s

end Sys2Proof.Machine
end

