-- ==== Sys2Proof/Machine/Tables.lean ====
section
/-! DEFINITION. The commands of the dial plan (R77, R78), the group table (R95, R96, R97) and the receiver pool (R59). -/

namespace Sys2Proof.Machine

/-- The lowest index other than `slot` that holds an entry with the pattern (R77). -/
def samePattern (plan : Vector (Option Entry) 128) (slot : SlotIx) (pattern : List PatSym) : Option SlotIx :=
  allSlots.find? fun i => i != slot && (look plan i).map (·.pattern) == some pattern

/-- WRITE_ENTRY's condition and effect (R77). -/
def writeEntryBody (a : SlotIx × Entry) (s : State) : Reply :=
  match samePattern s.plan a.1 a.2.pattern with
  | some i => ⟨s, .duplicate, [byteOf i]⟩
  | none => carried [] { s with plan := put s.plan a.1 (some a.2) }

/-- WRITE_ENTRY (R77). -/
def execWriteEntry (s : State) : Host.Outcome State Fault Refusal :=
  takeCommand .writeEntry (checked outsideStopping readEntry writeEntryBody) s

/-- CLEAR_ENTRY (R78). -/
def execClearEntry (s : State) : Host.Outcome State Fault Refusal :=
  takeCommand .clearEntry
    (checked outsideStopping (fun p => readFin 128 (look p 0)) fun i s =>
      carried [] { s with plan := put s.plan i none }) s

/-- A group changed, completed with its record (R95, R96). -/
def withGroup (g : GroupIx) (f : Group → Group) (s : State) : Reply :=
  let s1 := { s with calls := s.calls.alterGroup g f }
  carried (groupResult s1.calls g) s1

/-- The five fields of WRITE_GROUP replaced (R95). -/
def Group.written (a : GroupArgs) (x : Group) : Group :=
  { x with
    method := a.method
    overflow := a.overflow
    noAnswer := a.noAnswer
    queueLimit := a.queueLimit
    queueWait := a.queueWait }

/-- WRITE_GROUP (R95). -/
def execWriteGroup (s : State) : Host.Outcome State Fault Refusal :=
  takeCommand .writeGroup (checked outsideStopping readGroupArgs fun a s => withGroup a.group (Group.written a) s) s

/-- The most members of a group (R94). -/
def groupLimit : Nat := 16

/-- SET_MEMBERS' condition and effect (R96). -/
def setMembersBody (a : GroupIx × List Chan) (s : State) : Reply :=
  if a.2.Nodup then withGroup a.1 (fun x => { x with members := a.2, position := a.2.length - 1 }) s
  else refuse .duplicate s

/-- SET_MEMBERS (R96). -/
def execSetMembers (s : State) : Host.Outcome State Fault Refusal :=
  takeCommand .setMembers (checked outsideStopping readMembers setMembersBody) s

/-- ADD_MEMBER's condition and effect (R96). -/
def addMemberBody (a : GroupIx × Chan) (s : State) : Reply :=
  let l := (s.calls.group a.1).members
  if a.2 ∈ l then refuse .duplicate s
  else if groupLimit ≤ l.length then refuse .noResource s
  else withGroup a.1 (fun x => { x with members := x.members ++ [a.2] }) s

/-- ADD_MEMBER (R96). -/
def execAddMember (s : State) : Host.Outcome State Fault Refusal :=
  takeCommand .addMember (checked outsideStopping readMember addMemberBody) s

/-- The circular position after the member at index `i` of a list of `n` is dropped (R96). -/
def positionAfterDrop (n i position : Nat) : Nat :=
  if i < position then position - 1
  else if i = position then (if position = 0 then n - 2 else position - 1)
  else position

/-- A group without the member `c` (R96). -/
def Group.without (c : Chan) (x : Group) : Group :=
  { x with
    members := x.members.erase c
    position := positionAfterDrop x.members.length (x.members.idxOf c) x.position }

/-- DROP_MEMBER's condition and effect (R96; log 12 for the place of its BAD_ARG). -/
def dropMemberBody (a : GroupIx × Chan) (s : State) : Reply :=
  if a.2 ∈ (s.calls.group a.1).members then withGroup a.1 (Group.without a.2) s else refuse .badArg s

/-- DROP_MEMBER (R96). -/
def execDropMember (s : State) : Host.Outcome State Fault Refusal :=
  takeCommand .dropMember (checked outsideStopping readMember dropMemberBody) s

/-- READ_GROUP (R97). -/
def execReadGroup (s : State) : Host.Outcome State Fault Refusal :=
  takeCommand .readGroup
    (checked anyMode (fun p => readFin 8 (look p 0)) fun g s => carried (groupResult s.calls g) s) s

/-- The effect of RECEIVER_SERVICE OUT (R59). -/
def Calls.withdraw (r : RxIx) (k : Calls) : Calls :=
  match (k.rx r).state with
  | .free => k.setRx r .retired
  | .offline => k
  | .quiet | .onset | .digit | .gap => k.setRx r { k.rx r with service := .withdrawPending }

/-- The effect of RECEIVER_SERVICE IN (R59, R58). -/
def Calls.putInService (e : Env) (r : RxIx) (k : Calls) : Calls :=
  match (k.rx r).state with
  | .offline => (k.setRx r .freed).returnReceiver e r
  | .free => k
  | .quiet | .onset | .digit | .gap => k.setRx r { k.rx r with service := .inService }

/-- RECEIVER_SERVICE's effect and result (R59). -/
def receiverServiceBody (a : RxIx × Bool) (s : State) : Reply :=
  let s1 := s.close (if a.2 then s.calls.putInService s.env a.1 else s.calls.withdraw a.1)
  carried (receiverResult s1.calls a.1) s1

/-- RECEIVER_SERVICE (R59). -/
def execReceiverService (s : State) : Host.Outcome State Fault Refusal :=
  takeCommand .receiverService (checked outsideStopping readService receiverServiceBody) s

end Sys2Proof.Machine
end

