-- ==== Sys2Proof/Machine/Dispatch.lean ====
section
/-! DEFINITION. The meaning of each command of the table, one arm per row. -/

namespace Sys2Proof.Machine

/-- The effect of a command on everything but the queue. -/
def exec (i : Instr) (s : State) : Host.Outcome State Fault Refusal :=
  match i with
  | .hardwareReset => Sys2Proof.Machine.execHardwareReset s
  | .conditionReport byte0 byte1 stop start t => Sys2Proof.Machine.execConditionReport byte0 byte1 stop s start t
  | .frameCompletion => Sys2Proof.Machine.execFrameCompletion s
  | .frameSync slots clocks => Sys2Proof.Machine.execFrameSync slots s clocks
  | .toneStepEnd t => Sys2Proof.Machine.execToneStepEnd t s
  | .detectorIndication r ind => Sys2Proof.Machine.execDetectorIndication r ind s
  | .toneOnMinExpiry r t => Sys2Proof.Machine.execToneOnMinExpiry r s t
  | .toneGapMinExpiry r => Sys2Proof.Machine.execToneGapMinExpiry r s
  | .seizeQualExpiry c t => Sys2Proof.Machine.execSeizeQualExpiry c s t
  | .flashMaxExpiry c t => Sys2Proof.Machine.execFlashMaxExpiry c s t
  | .pulseMakeEndExpiry c t => Sys2Proof.Machine.execPulseMakeEndExpiry c s t
  | .burstTimerExpiry c t => Sys2Proof.Machine.execBurstTimerExpiry c s t
  | .gapTimerExpiry c t => Sys2Proof.Machine.execGapTimerExpiry c s t
  | .battSeizeQualExpiry c t => Sys2Proof.Machine.execBattSeizeQualExpiry c s t
  | .farOpenMinExpiry c t => Sys2Proof.Machine.execFarOpenMinExpiry c s t
  | .firstDigitExpiry c => Sys2Proof.Machine.execFirstDigitExpiry c s
  | .interdigitExpiry c => Sys2Proof.Machine.execInterdigitExpiry c s
  | .overlapExpiry c => Sys2Proof.Machine.execOverlapExpiry c s
  | .rxWaitExpiry c => Sys2Proof.Machine.execRxWaitExpiry c s
  | .cadenceExpiry c => Sys2Proof.Machine.execCadenceExpiry c s
  | .queueWaitExpiry c => Sys2Proof.Machine.execQueueWaitExpiry c s
  | .toneoutExpiry c => Sys2Proof.Machine.execToneoutExpiry c s
  | .guardExpiry c => Sys2Proof.Machine.execGuardExpiry c s
  | .seizeWaitExpiry c => Sys2Proof.Machine.execSeizeWaitExpiry c s
  | .cutThroughExpiry c => Sys2Proof.Machine.execCutThroughExpiry c s
  | .statusRead => Sys2Proof.Machine.execStatusRead s
  | .paramWrite k b => Sys2Proof.Machine.execParamWrite k b s
  | .resultRead k => Sys2Proof.Machine.execResultRead k s
  | .completionRead => Sys2Proof.Machine.execCompletionRead s
  | .controlWrite b => Sys2Proof.Machine.execControlWrite b s
  | .ignoredRegisterWrite a b => Sys2Proof.Machine.execIgnoredRegisterWrite a b s
  | .unknown code => Sys2Proof.Machine.execUnknown code s
  | .start => Sys2Proof.Machine.execStart s
  | .stop => Sys2Proof.Machine.execStop s
  | .setParam => Sys2Proof.Machine.execSetParam s
  | .applyParams => Sys2Proof.Machine.execApplyParams s
  | .readParam => Sys2Proof.Machine.execReadParam s
  | .setNoticeMask => Sys2Proof.Machine.execSetNoticeMask s
  | .configureChannel => Sys2Proof.Machine.execConfigureChannel s
  | .block => Sys2Proof.Machine.execBlock s
  | .restore => Sys2Proof.Machine.execRestore s
  | .readSession => Sys2Proof.Machine.execReadSession s
  | .readDigits => Sys2Proof.Machine.execReadDigits s
  | .writeEntry => Sys2Proof.Machine.execWriteEntry s
  | .clearEntry => Sys2Proof.Machine.execClearEntry s
  | .writeGroup => Sys2Proof.Machine.execWriteGroup s
  | .setMembers => Sys2Proof.Machine.execSetMembers s
  | .addMember => Sys2Proof.Machine.execAddMember s
  | .dropMember => Sys2Proof.Machine.execDropMember s
  | .readGroup => Sys2Proof.Machine.execReadGroup s
  | .receiverService => Sys2Proof.Machine.execReceiverService s
  | .hold => Sys2Proof.Machine.execHold s
  | .retrieve => Sys2Proof.Machine.execRetrieve s
  | .transfer => Sys2Proof.Machine.execTransfer s
  | .drop => Sys2Proof.Machine.execDrop s
  | .place => Sys2Proof.Machine.execPlace s
  | .connect => Sys2Proof.Machine.execConnect s
  | .setListen => Sys2Proof.Machine.execSetListen s
  | .conference => Sys2Proof.Machine.execConference s
  | .join => Sys2Proof.Machine.execJoin s
  | .readBridge => Sys2Proof.Machine.execReadBridge s
  | .takeNotices => Sys2Proof.Machine.execTakeNotices s
  | .setWatch => Sys2Proof.Machine.execSetWatch s
  | .armWatch => Sys2Proof.Machine.execArmWatch s
  | .disarmWatch => Sys2Proof.Machine.execDisarmWatch s
  | .commandOffer code => Sys2Proof.Machine.execCommandOffer code s
  | .resetEnd => Sys2Proof.Machine.execResetEnd s

end Sys2Proof.Machine
end

