-- ==== Sys2Proof/Safety.lean ====
section
/-! DEFINITION. The laws of the spec that hold between events, as properties of a state; and the words the statements
use for what a command leaves as it stands. -/

namespace Sys2Proof.Machine

/-! ### Laws -/

/-- The current set is consistent, and every value of both sets lies in its range (R174, R175, R176). -/
def State.paramsLaw (s : State) : Prop :=
  failedRelation s.params.current = 0 ∧
    ∀ i, paramInRange i (look s.params.staged i) = true ∧ paramInRange i (look s.params.current i) = true

/-- Every valid entry has a pattern of 1 to 12 symbols that suits its action, and no two valid entries have identical
patterns (R74, R75, R76). -/
def State.planLaw (s : State) : Prop :=
  (∀ i en, look s.plan i = some en →
    1 ≤ en.pattern.length ∧ en.pattern.length ≤ 12 ∧ actionFits en.action en.pattern = true) ∧
  ∀ i j en en', look s.plan i = some en → look s.plan j = some en' → en.pattern = en'.pattern → i = j

/-- A command is in flight exactly while the mailbox is BUSY, with the completion code NO_RESULT; its code is a defined
one, the last offered (R163, R165, R166). -/
def State.mailboxLaw (s : State) : Prop :=
  (s.mbox.inFlight.isSome = true ↔ s.mbox.state = .busy) ∧
    ∀ f, s.mbox.inFlight = some f →
      s.mbox.completion = .noResult ∧ f.code = s.mbox.lastCode ∧ definedCode f.code = true

/-- Outside RUN every session is IDLE or BLOCKED, the receiver wait queue and every camp-on queue are empty, no bridge
has members and no receiver is assigned (R170, R53, R59, R120, R128). -/
def State.quietLaw (s : State) : Prop :=
  s.op ≠ .run →
    (∀ c, (s.calls.ses c).state = .idle ∨ (s.calls.ses c).state = .blocked) ∧ s.calls.rxQueue = [] ∧
      (∀ g, (s.calls.group g).queue = []) ∧ (∀ b, s.calls.members b = []) ∧
      ∀ r, (s.calls.rx r).state.assigned = false

/-- A ring output is on only for a RINGING session, and a loop output closed only for a trunk in SEIZING, TALK, HELD,
CONFER or HOSTWAIT (R10, R33). -/
def levelsFit (r : Session) (v : Levels) : Prop :=
  (v.ring = true → r.state = .ringing) ∧
    (v.loop = true → r.cls = .trunk ∧
      (r.state = .seizing ∨ r.state = .talk ∨ r.state = .held ∨ r.state = .confer ∨ r.state = .hostwait))

/-- The output image is what the session states allow (R10, R33). -/
def State.levelsLaw (s : State) : Prop := ∀ c, levelsFit (s.calls.ses c) (s.calls.levels c)

/-- The service, the state and the assigned channel of a receiver go together (R52). -/
def Receiver.fits (x : Receiver) : Prop :=
  (x.state = .free → x.service = .inService ∧ x.assigned = none) ∧
    (x.state = .offline → x.service = .out ∧ x.assigned = none) ∧
    (x.state.assigned = true → x.service ≠ .out ∧ x.assigned.isSome = true)

/-- The table of R52 holds at every receiver. -/
def State.receiversLaw (s : State) : Prop := ∀ r, (s.calls.rx r).fits

/-- Every group holds at most 16 members, none twice, and settings in their ranges (R94, R95). -/
def State.groupsLaw (s : State) : Prop :=
  ∀ g, (s.calls.group g).members.length ≤ 16 ∧ (s.calls.group g).members.Nodup ∧
    (s.calls.group g).queueLimit ≤ 8 ∧ 1 ≤ (s.calls.group g).queueWait ∧ (s.calls.group g).queueWait ≤ 255

/-- The unused bit of every notice set and of the mask is 0 (R178, Codes; R183). -/
def State.noticesLaw (s : State) : Prop :=
  s.params.mask.getLsbD 15 = false ∧ ∀ c, (look s.calls.notices c).getLsbD 15 = false

/-- The link error flag and LINKERR stand and fall together (R30, R31, R182). -/
def State.linkLaw (s : State) : Prop := s.link.errorFlag = s.attn.linkErr

/-- The session states of each class (R6, R8, R9). -/
def ChanClass.states : ChanClass → List SState
  | .unused => [.idle, .blocked]
  | .station => [.idle, .blocked, .seized, .collecting, .hostwait, .outring, .trunkwait, .queued, .ringing, .talk,
    .held,
      .confer, .toneout, .lockout, .releasing]
  | .trunk => [.idle, .blocked, .ringin, .queued, .hostwait, .seizing, .talk, .held, .confer, .releasing]

/-- The state is one of the class's, and every field that R3 sets in certain states only is at its reset value in the
others. -/
def Session.fits (r : Session) : Prop :=
  r.state ∈ r.cls.states ∧
    (r.peer ≠ none → r.state ∈ [.talk, .ringing, .seizing, .trunkwait]) ∧
    (r.state ∉ [.outring, .ringin] → r.ringCount = 0 ∧ r.phaseOn = false ∧ r.cycles = 0) ∧
    (r.holds ≠ none → r.cls = .station ∧
      r.state ∈ [.seized, .collecting, .hostwait, .outring, .trunkwait, .queued, .talk, .toneout, .lockout]) ∧
    (r.heldBy ≠ none → r.state = .held) ∧ (r.receiver ≠ none → r.state = .collecting) ∧
    (r.bridge ≠ none → r.state = .confer) ∧
    (r.state ∉ [.outring, .ringin, .queued, .trunkwait] → r.curGroup = none ∧ r.tried = 0)

/-- Channel `d` is RINGING for `o` (R12). -/
def Calls.ringsFor (k : Calls) (o d : Chan) : Prop := (k.ses d).state = .ringing ∧ (k.ses d).peer = some o

/-- The relations of R12: partners in TALK, a seizing trunk and its originator, a held channel and its holder, and an
originator and its ringing set, whose number is its ringing count. -/
def Calls.partnersLaw (k : Calls) : Prop :=
  ∀ c,
    ((k.ses c).state = .talk →
      ∃ p, p ≠ c ∧ (k.ses c).peer = some p ∧ (k.ses p).state = .talk ∧ (k.ses p).peer = some c) ∧
    ((k.ses c).state = .seizing →
      ∃ o, (k.ses c).peer = some o ∧ (k.ses o).state = .trunkwait ∧ (k.ses o).peer = some c) ∧
    ((k.ses c).state = .trunkwait →
      ∃ t, (k.ses c).peer = some t ∧ (k.ses t).state = .seizing ∧ (k.ses t).peer = some c) ∧
    ((k.ses c).state = .held → ∃ h, (k.ses c).heldBy = some h ∧ (k.ses h).holds = some c) ∧
    (∀ h, (k.ses c).holds = some h → (k.ses h).state = .held ∧ (k.ses h).heldBy = some c) ∧
    ((k.ses c).state = .ringing → ∃ o, (k.ses c).peer = some o ∧ (k.ses o).state ∈ [.outring, .ringin]) ∧
    ((k.ses c).state ∈ [.outring, .ringin] →
      1 ≤ (k.ses c).ringCount ∧
      ∃ l : List Chan, l.Nodup ∧ l.length = (k.ses c).ringCount ∧ ∀ d, d ∈ l ↔ k.ringsFor c d)

/-- R53: the receiver wait queue holds exactly the SEIZED channels, each once, and no receiver is FREE while one waits;
and R3, R51: a receiver is assigned to the channel whose record names it, which is COLLECTING. -/
def Calls.poolLaw (k : Calls) : Prop :=
  k.rxQueue.Nodup ∧ (∀ c, c ∈ k.rxQueue ↔ (k.ses c).state = .seized) ∧
    (k.rxQueue ≠ [] → ∀ r, (k.rx r).state ≠ .free) ∧
    ∀ r c, (k.rx r).assigned = some c ↔ (k.ses c).receiver = some r

/-- R115: a channel is QUEUED exactly when it stands in one camp-on queue, which is that of its current group; a queue
holds distinct channels, at most 8. -/
def Calls.queuesLaw (k : Calls) : Prop :=
  (∀ c, (k.ses c).state = .queued → (k.ses c).curGroup ≠ none) ∧
    ∀ g, (k.group g).queue.Nodup ∧ (k.group g).queue.length ≤ 8 ∧
      ∀ c, c ∈ (k.group g).queue ↔ (k.ses c).state = .queued ∧ (k.ses c).curGroup = some g

/-- R128: a bridge has 0, 3 or 4 distinct members, and a channel is in CONFER exactly when it is a member of a bridge,
which is the one its record names. -/
def Calls.bridgesLaw (k : Calls) : Prop :=
  (∀ c, (k.ses c).state = .confer → (k.ses c).bridge ≠ none) ∧
    ∀ b, (k.members b).Nodup ∧ ((k.members b).length = 0 ∨ (k.members b).length = 3 ∨ (k.members b).length = 4) ∧
      ∀ c, c ∈ k.members b ↔ (k.ses c).state = .confer ∧ (k.ses c).bridge = some b

/-- R65, R67: a digit in flight is one that its channel's present collection awaits. -/
def State.flightLaw (s : State) : Prop :=
  ∀ r c d, Delivery.digit r c d ∈ s.deliveries → (s.calls.ses c).state = .collecting ∧ (s.calls.ses c).receiver = some r

/-- The records and what they name keep in step (R3, R8, R9, R12, R53, R115, R128). -/
def State.recordsLaw (s : State) : Prop :=
  (∀ c, (s.calls.ses c).fits) ∧ s.calls.partnersLaw ∧ s.calls.poolLaw ∧ s.calls.queuesLaw ∧ s.calls.bridgesLaw

/-- R71: a digit list holds at most 12 digits, and fewer while its collection is open. -/
def State.digitsLaw (s : State) : Prop :=
  ∀ c, (s.calls.ses c).digits.length ≤ 12 ∧
    ((s.calls.ses c).state = .collecting → (s.calls.ses c).digits.length < 12)

/-! ### The words of the statements -/

/-- The condition codes of a report frame (R179). -/
def Condition.code : Condition → Nat
  | .loop => 1
  | .ringv => 2
  | .batt => 3

/-- The first byte of the report frame of a channel, a condition and a level (R179). -/
def reportByte (c : Chan) (cond : Condition) (level : Bool) : Byte := byteOf (8 * c + 2 * cond.code + bit level)

/-- A good report frame (R29, R179), whose event, if it delivers one, ST takes as said. -/
def goodReport (c : Chan) (cond : Condition) (level : Bool) (t : Taking) : Instr :=
  .conditionReport (reportByte c cond level) (frameCheck (reportByte c cond level)) false true t

/-- A notice set when the notices `ns` have been raised on its channel, by the notice enable mask (R181). -/
def raisedIn (mask : NoticeSet) (ns : List Notice) (set : NoticeSet) : NoticeSet :=
  ns.foldl (fun set n => if mask.getLsbD n.bit then set ||| BitVec.twoPow 16 n.bit else set) set

/-- The notice set of `c` when the notices `ns` have been raised on it (R181). -/
def State.recorded (s : State) (ns : List Notice) (c : Chan) : NoticeSet :=
  raisedIn s.params.mask ns (look s.calls.notices c)

/-- The notice set of `c` as it stands. -/
def State.noticesAt (s : State) (c : Chan) : NoticeSet := look s.calls.notices c

/-- A timer of the kind, of the length of parameter `i` in the current set (R4). -/
def State.timerOf (s : State) (kind : TimerKind) (i : ParamIx) : Option Timer := some ⟨kind, look s.params.current i⟩

/-- What stands at a channel: its session record, listen source, desired levels and notice set. -/
def Calls.stands (k : Calls) (c : Chan) (r : Session) (l : Listen) (v : Levels) (n : NoticeSet) : Prop :=
  k.ses c = r ∧ look k.listen c = l ∧ k.levels c = v ∧ look k.notices c = n

/-- Nothing of channel `d` differs: its session record, listen source, desired levels, notices and battery qualifier. -/
def Calls.sameAt (d : Chan) (k l : Calls) : Prop :=
  l.stands d (k.ses d) (look k.listen d) (k.levels d) (look k.notices d) ∧ l.batt d = k.batt d

/-- The receivers and their wait queue stand. -/
def Calls.samePool (k l : Calls) : Prop := l.receivers = k.receivers ∧ l.rxQueue = k.rxQueue

/-- The guard timer of a channel's class (R26). -/
def State.guardOf (s : State) (c : Chan) : Option Timer :=
  s.timerOf .guard (if (s.calls.ses c).cls = .trunk then Param.guardTrunk else Param.guardStation)

/-- Both outputs off and open. -/
def noOutput : Levels := ⟨false, false⟩

/-- The line of `d` asks for nothing when it enters IDLE: a station not off-hook, a trunk not ringing (R27). -/
def State.atRest (s : State) (d : Chan) : Prop :=
  ((s.calls.ses d).cls = .station → (look s.loopQ d).state = .onhook ∨ (look s.loopQ d).state = .seizeTiming) ∧
    ((s.calls.ses d).cls = .trunk → (look s.ringQ d).state ≠ .inBurst)

/-- Nobody waits in a camp-on queue. -/
def State.noQueue (s : State) : Prop := ∀ g, (s.calls.group g).queue = []

/-- Only the channels of a list may differ; the battery qualifiers, the receivers, their wait queue, the groups and the
bridges stand. -/
def Calls.onlyAt (cs : List Chan) (k l : Calls) : Prop :=
  (∀ d, d ∉ cs → k.sameAt d l) ∧ l.battQ = k.battQ ∧ k.samePool l ∧ l.groups = k.groups ∧ l.bridges = k.bridges

/-- Nothing from the source of `v` is in flight before it, so that ST may take `v` in the step that delivers it (log
1). -/
def State.freshFor (s : State) (v : Delivery) : Prop := ∀ w ∈ s.deliveries, v.follows w = false

/-- The part is out of reset with the command `cmd` in flight, its parameters `p`. -/
def State.taking (s : State) (cmd : Cmd) (p : Params) : Prop :=
  s.resetAsserted = false ∧ s.mbox.inFlight = some ⟨cmd.code, p⟩

/-! ### Parties and what a state holds -/

/-- `c` is in TALK with `p`, the notices `ns` raised on it (R8, R9, R12). -/
def State.talksWith (s : State) (c p : Chan) (ns : List Notice) (k : Calls) : Prop :=
  k.stands c { (s.calls.ses c).moved .talk with holds := (k.ses c).holds, peer := some p } (.slot p)
    ⟨false, (s.calls.ses c).cls == .trunk⟩ (s.recorded ns c)

/-- `p` is sent away by the going of its partner: a trunk to RELEASING, a station to TONEOUT REORDER (R20). -/
def State.sentAway (s : State) (p : Chan) (k : Calls) : Prop :=
  ((s.calls.ses p).cls = .trunk →
    k.stands p { (s.calls.ses p).moved .releasing with timer := s.guardOf p } .none noOutput (s.noticesAt p)) ∧
  ((s.calls.ses p).cls ≠ .trunk →
    k.stands p { (s.calls.ses p).moved .toneout with
        toneKind := .reorder, timer := s.timerOf .toneout Param.toneoutTime }
      (.tone .reorder) noOutput (s.noticesAt p))

/-- `h` is in HOSTWAIT with the notices `ns` raised on it, a trunk answered (R146, R150). -/
def State.parked (s : State) (h : Chan) (ns : List Notice) (k : Calls) : Prop :=
  k.stands h ((s.calls.ses h).moved .hostwait) .none ⟨false, (s.calls.ses h).cls == .trunk⟩ (s.recorded ns h)

/-- Every channel outside a list stands. -/
def State.othersStand (s : State) (cs : List Chan) (k : Calls) : Prop := ∀ d, d ∉ cs → s.calls.sameAt d k

/-- Receiver `r` is given back (R57, R58): it leaves service, serves the head of the wait queue, or becomes FREE. -/
def State.receiverBack (s : State) (r : RxIx) (cs : List Chan) (k : Calls) : Prop :=
  ((s.calls.rx r).service ≠ .inService →
    k.receivers = put s.calls.receivers r ⟨.out, .offline, none, none, none, none⟩ ∧ k.rxQueue = s.calls.rxQueue ∧
      s.othersStand cs k) ∧
  ((s.calls.rx r).service = .inService → s.calls.rxQueue = [] →
    k.receivers = put s.calls.receivers r ⟨.inService, .free, none, none, none, none⟩ ∧ k.rxQueue = [] ∧
      s.othersStand cs k) ∧
  ∀ x q, (s.calls.rx r).service = .inService → s.calls.rxQueue = x :: q →
    k.receivers = put s.calls.receivers r ⟨.inService, .quiet, some x, none, none, none⟩ ∧ k.rxQueue = q ∧
      s.othersStand (x :: cs) k ∧
      k.stands x { (s.calls.ses x).moved .collecting with
          receiver := some r, timer := s.timerOf .firstDigit Param.firstDigitTime }
        (.tone .dial) noOutput (s.noticesAt x)

/-- What `c` gives up is another's: it is no partner of itself and waits for no receiver while it collects; and the
lines of a ringing set it gives up are at rest with nobody queued, so that stages 2 and 3 of R27 do nothing. -/
def State.mayGiveUp (s : State) (c : Chan) : Prop :=
  (s.calls.ses c).peer ≠ some c ∧ (s.calls.ses c).heldBy ≠ some c ∧
    ((s.calls.ses c).state = .collecting → c ∉ s.calls.rxQueue) ∧
    ((s.calls.ses c).state ∈ [.outring, .ringin] → s.noQueue ∧ ∀ d, s.calls.ringsFor c d → s.atRest d)

/-- `c` has given up what its state held (R11, R20, R141): what becomes of the receivers, the queues, the bridges and
every channel outside `cs`. -/
def State.gaveUp (s : State) (c : Chan) (cs : List Chan) (k : Calls) : Prop :=
  k.battQ = s.calls.battQ ∧
    ((s.calls.ses c).state ≠ .seized → (s.calls.ses c).state ≠ .collecting → s.calls.samePool k) ∧
    ((s.calls.ses c).state ≠ .queued → k.groups = s.calls.groups) ∧
    ((s.calls.ses c).state ≠ .confer → k.bridges = s.calls.bridges) ∧
    ((s.calls.ses c).state ∈ [.hostwait, .toneout, .lockout] → s.othersStand cs k) ∧
    ((s.calls.ses c).state = .seized →
      s.othersStand cs k ∧ k.receivers = s.calls.receivers ∧ k.rxQueue = s.calls.rxQueue.filter (· ≠ c)) ∧
    ((s.calls.ses c).state = .collecting →
      ((s.calls.ses c).receiver = none → s.othersStand cs k ∧ s.calls.samePool k) ∧
      ∀ r, (s.calls.ses c).receiver = some r → s.receiverBack r cs k) ∧
    ((s.calls.ses c).state ∈ [.outring, .ringin] →
      (∀ d, s.calls.ringsFor c d → k.stands d ((s.calls.ses d).moved .idle) .none noOutput (s.noticesAt d)) ∧
      ∀ d, d ∉ cs → ¬ s.calls.ringsFor c d → s.calls.sameAt d k) ∧
    (∀ t, (s.calls.ses c).state = .trunkwait → (s.calls.ses c).peer = some t →
      k.stands t { (s.calls.ses t).moved .releasing with timer := s.guardOf t } .none noOutput (s.noticesAt t) ∧
        s.othersStand (t :: cs) k) ∧
    ((s.calls.ses c).state = .queued →
      s.othersStand cs k ∧
        ∀ g, k.group g = { s.calls.group g with queue := (s.calls.group g).queue.filter (· ≠ c) }) ∧
    (∀ p, (s.calls.ses c).state = .talk → (s.calls.ses c).peer = some p →
      s.sentAway p k ∧ s.othersStand (p :: cs) k) ∧
    (∀ h, (s.calls.ses c).state = .held → (s.calls.ses c).heldBy = some h →
      k.stands h { s.calls.ses h with holds := none } (look s.calls.listen h) (s.calls.levels h) (s.noticesAt h) ∧
        s.othersStand (h :: cs) k) ∧
    (∀ b, (s.calls.ses c).state = .confer → (s.calls.ses c).bridge = some b →
      (∀ a, a ≠ b → k.members a = s.calls.members a) ∧
        (((s.calls.members b).filter (· ≠ c)).length ≠ 2 →
          k.members b = (s.calls.members b).filter (· ≠ c) ∧ s.othersStand cs k) ∧
        ∀ x y, (s.calls.members b).filter (· ≠ c) = [x, y] → x ≠ y →
          k.members b = [] ∧ s.talksWith x y [] k ∧ s.talksWith y x [] k ∧
            (k.ses x).holds = (s.calls.ses x).holds ∧ (k.ses y).holds = (s.calls.ses y).holds ∧
            s.othersStand (x :: y :: cs) k) ∧
    ∀ o, (s.calls.ses c).state = .seizing → (s.calls.ses c).peer = some o →
      k.stands o { (s.calls.ses o).moved .toneout with
          toneKind := .reorder, timer := s.timerOf .toneout Param.toneoutTime }
        (.tone .reorder) noOutput (s.noticesAt o) ∧ s.othersStand (o :: cs) k

/-- The ways in which a party leaves its call: it hangs up, its far end opens, or a command clears it or parks it (R18,
R21, R150, R151, R152). -/
inductive Leaving where
  | hangUp
  | farOpen
  | drop
  | transfer
  deriving DecidableEq, Repr

/-- The row that each way is taken by. -/
def Leaving.row (c : Chan) : Leaving → Instr
  | .hangUp => .flashMaxExpiry c .now
  | .farOpen => .farOpenMinExpiry c .now
  | .drop => .drop
  | .transfer => .transfer

/-- The row is taken in RUN with its own timer run out, or its command in flight for `c`. -/
def Leaving.ready (s : State) (c : Chan) (p : Params) : Leaving → Prop
  | .hangUp =>
    s.resetAsserted = false ∧ s.op = .run ∧ (s.calls.ses c).cls = .station ∧ (look s.loopQ c).state = .openTiming ∧
      (look s.loopQ c).timer = some (.flashMax, 0) ∧ s.freshFor (.event c .disconnect)
  | .farOpen =>
    s.resetAsserted = false ∧ s.op = .run ∧ (s.calls.ses c).cls = .trunk ∧
      s.calls.batt c = ⟨.dropTiming, some 0⟩ ∧ s.freshFor (.event c .farOpen)
  | .drop => s.taking .drop p ∧ s.op = .run ∧ (look p 0).toNat = c
  | .transfer => s.taking .transfer p ∧ s.op = .run ∧ (look p 0).toNat = c

/-- The states from which each way leaves: every off-hook state of a station (R18, R150, R151), and for a trunk the
answered and the seizing states (R21), or by DROP those of R152. -/
def Leaving.leaves (s : State) (c : Chan) : Leaving → Prop
  | .hangUp => (s.calls.ses c).state ∈ [.seized, .collecting, .hostwait, .outring, .trunkwait, .queued, .talk, .held,
      .confer, .toneout, .lockout]
  | .farOpen => (s.calls.ses c).state ∈ [.seizing, .talk, .held, .confer] ∨
      (s.calls.ses c).state = .hostwait ∧ (s.calls.levels c).loop = true
  | .drop => (s.calls.ses c).cls = .station ∧ (s.calls.ses c).state ∈ [.seized, .collecting, .hostwait, .outring,
        .trunkwait, .queued, .talk, .held, .confer, .toneout, .lockout] ∨
      (s.calls.ses c).cls = .trunk ∧ (s.calls.ses c).state ∈ [.ringin, .queued, .hostwait, .seizing, .talk, .held,
        .confer]
  | .transfer => (s.calls.ses c).state ∈ [.seized, .collecting, .hostwait, .outring, .trunkwait, .queued, .talk,
      .toneout, .lockout]

/-- The state with the qualifier's own change made, on which the event of the Session Table acts (R43, R48). -/
def Leaving.delivered (s : State) (c : Chan) : Leaving → State
  | .hangUp => { s with loopQ := put s.loopQ c { look s.loopQ c with state := .onhook, pulses := 0, timer := none } }
  | .farOpen => { s with calls := { s.calls with battQ := put s.calls.battQ c ⟨.absent, none⟩ } }
  | .drop => s
  | .transfer => s

/-- What the row leaves when the records become `k`: the event closes, and a command completes with its session result,
which names for TRANSFER the held party `h` too (R149; 08, section 8.7). -/
def Leaving.result (s : State) (c : Chan) (h : Option Chan) (k : Calls) (x : Leaving) : State :=
  match x with
  | .hangUp => (x.delivered s c).close k
  | .farOpen => (x.delivered s c).close k
  | .drop => (s.close k).mail (Mailbox.post .ok [byteOf c, byteOf (k.ses c).state.code, 0xFF, 0xFF])
  | .transfer => (s.close k).mail (Mailbox.post .ok
      ([byteOf c, byteOf (k.ses c).state.code] ++
        match h with
        | some d => [byteOf d, byteOf (k.ses d).state.code]
        | none => [0xFF, 0xFF]))

/-- What becomes of `c` itself: RELEASING with its guard and RELEASE by its own hang-up or far-end open (R16); by DROP a
station in LOCKOUT and a trunk in RELEASING (R151, R152); by TRANSFER HOSTWAIT (R150). -/
def Leaving.gone (s : State) (c : Chan) (k : Calls) (x : Leaving) : Prop :=
  match x with
  | .hangUp | .farOpen =>
    k.stands c { (s.calls.ses c).moved .releasing with timer := s.guardOf c } .none noOutput (s.recorded [.release] c)
  | .drop =>
    ((s.calls.ses c).cls = .trunk →
      k.stands c { (s.calls.ses c).moved .releasing with timer := s.guardOf c } .none noOutput (s.noticesAt c)) ∧
    ((s.calls.ses c).cls ≠ .trunk →
      k.stands c { (s.calls.ses c).moved .lockout with holds := none } .none noOutput (s.noticesAt c))
  | .transfer => k.stands c { (s.calls.ses c).moved .hostwait with holds := none } .none noOutput (s.noticesAt c)

/-! ### Consultation and return -/

/-- What asks for a consultation or for the return to a held party: a command of the host, or the station's own flash
(R139, R148, R149). -/
inductive Request where
  | command
  | flash
  deriving DecidableEq, Repr

/-- The request is taken in RUN: the command `cmd` in flight for `c`, or the closed report that ends an open interval of
`c` in the range of a flash (R42). -/
def Request.ready (s : State) (cmd : Cmd) (c : Chan) (p : Params) : Request → Prop
  | .command => s.taking cmd p ∧ s.op = .run ∧ (look p 0).toNat = c
  | .flash =>
    s.resetAsserted = false ∧ s.op = .run ∧ (s.calls.ses c).cls = .station ∧ (look s.loopQ c).state = .openTiming ∧
      (look s.loopQ c).hitMax ≤ s.now - (look s.loopQ c).openStart ∧
      (look s.loopQ c).breakMax < s.now - (look s.loopQ c).openStart ∧
      (look s.loopQ c).flashMin ≤ s.now - (look s.loopQ c).openStart ∧ s.freshFor (.event c .flash)

/-- The row that the request is taken by. -/
def Request.row (cmd : Cmd) (c : Chan) : Request → Instr
  | .command => cmd.row
  | .flash => goodReport c .loop true .now

/-- The state with the qualifier's own change made (R42). -/
def Request.delivered (s : State) (c : Chan) : Request → State
  | .command => s
  | .flash => { s with
      loopQ := put s.loopQ c { look s.loopQ c with state := .offhook, pulses := 0, timer := none } }

/-- The notices that the request itself raises on `c` (R139). -/
def Request.notices : Request → List Notice
  | .command => []
  | .flash => [.flash]

/-- What the request leaves when the records become `k`: the event closes, and a command completes with a session result
whose second channel is `h` (08, section 8.7). -/
def Request.result (s : State) (c h : Chan) (k : Calls) (x : Request) : State :=
  match x with
  | .command => (s.close k).mail (Mailbox.post .ok
      [byteOf c, byteOf (k.ses c).state.code, byteOf h, byteOf (k.ses h).state.code])
  | .flash => (x.delivered s c).close k

/-! ### Placements -/

/-- `k` after the originator `o`, which rings nobody, is placed on `m`: a station is rung (R104), a trunk seized (R110,
R49). -/
def Calls.placedOn (e : Env) (o m : Chan) (k l : Calls) : Prop :=
  (∀ d, d ≠ o → d ≠ m → k.sameAt d l) ∧ k.samePool l ∧ l.groups = k.groups ∧ l.bridges = k.bridges ∧
    ((k.ses m).cls ≠ .trunk →
      l.battQ = k.battQ ∧
      l.stands o { (k.ses o).moved (if (k.ses o).cls = .trunk then .ringin else .outring) with
          ringCount := 1, phaseOn := true, cycles := 0, timer := some ⟨.cadence, look e.params Param.ringOnTime⟩ }
        (if (k.ses o).cls = .trunk then .none else .tone .ringback) noOutput (look k.notices o) ∧
      l.stands m { (k.ses m).moved .ringing with peer := some o } .none ⟨true, false⟩ (look k.notices m)) ∧
    ((k.ses m).cls = .trunk →
      l.batt m = (match (k.batt m).state with
        | .absent | .timing => k.batt m
        | .present => ⟨.timing, some (look e.params Param.seizeQual)⟩
        | .dropTiming => ⟨.absent, none⟩) ∧
      l.stands o { (k.ses o).moved .trunkwait with peer := some m } .none noOutput (look k.notices o) ∧
      l.stands m { (k.ses m).moved .seizing with
          peer := some o, timer := some ⟨.seizeWait, look e.params Param.trunkSeizeWait⟩ }
        .none ⟨false, true⟩ (look k.notices m))

/-- `k` after every station of the list `ms` has been rung for `o` (R101, R104). -/
def Calls.allRung (e : Env) (o : Chan) (ms : List Chan) (k l : Calls) : Prop :=
  (∀ d, d ≠ o → d ∉ ms → k.sameAt d l) ∧ l.battQ = k.battQ ∧ k.samePool l ∧ l.groups = k.groups ∧
    l.bridges = k.bridges ∧
    l.stands o { (k.ses o).moved (if (k.ses o).cls = .trunk then .ringin else .outring) with
        ringCount := ms.length, phaseOn := true, cycles := 0
        timer := some ⟨.cadence, look e.params Param.ringOnTime⟩ }
      (if (k.ses o).cls = .trunk then .none else .tone .ringback) noOutput (look k.notices o) ∧
    ∀ m ∈ ms, l.stands m { (k.ses m).moved .ringing with peer := some o } .none ⟨true, false⟩ (look k.notices m)

/-- `k` after the busy outcome of `o` (R103). -/
def Calls.busied (e : Env) (o : Chan) (k l : Calls) : Prop :=
  k.onlyAt [o] l ∧
    ((k.ses o).cls ≠ .trunk →
      l.stands o { (k.ses o).moved .toneout with
          toneKind := .busy, timer := some ⟨.toneout, look e.params Param.toneoutTime⟩ }
        (.tone .busy) noOutput (raisedIn e.mask [.busy] (look k.notices o))) ∧
    ((k.ses o).cls = .trunk →
      l.stands o ((k.ses o).moved .hostwait) .none ⟨false, (k.levels o).loop⟩
        (raisedIn e.mask [.busy] (look k.notices o)))

/-- `k` after `o` has joined the tail of group `g`'s queue (R116). -/
def Calls.joined (g : GroupIx) (o : Chan) (k l : Calls) : Prop :=
  (∀ d, d ≠ o → k.sameAt d l) ∧ l.battQ = k.battQ ∧ k.samePool l ∧ l.bridges = k.bridges ∧
    (∀ f, f ≠ g → l.group f = k.group f) ∧
    l.group g = { k.group g with queue := (k.group g).queue ++ [o] } ∧
    l.stands o { (k.ses o).moved .queued with timer := some ⟨.queueWait, (k.group g).queueWait * 1000⟩ }
      (if (k.ses o).cls = .station then .tone .ringback else .none) noOutput (look k.notices o)

/-- The place of a member in the order in which a hunt of the group examines the members (R100, R101). -/
def Group.rank (x : Group) (m : Chan) : Nat :=
  match x.method with
  | .linear | .all => x.members.idxOf m
  | .circular => (x.members.idxOf m + x.members.length - (x.position + 1) % x.members.length) % x.members.length

/-- Member `m` is the first eligible one, among those the hunt examines (R98, R100). -/
def Calls.firstEligible (g : GroupIx) (o : Chan) (seen : Chan → Prop) (k : Calls) (m : Chan) : Prop :=
  (m ∈ (k.group g).members ∧ seen m ∧ k.eligible (k.group g).method o m = true) ∧
    ∀ x ∈ (k.group g).members, seen x → k.eligible (k.group g).method o x = true →
      (k.group g).rank m ≤ (k.group g).rank x

/-- How a hunt in `g` for `o` ends, from the records `k` in which `g` is the current group and tried, when it examines
the members `seen` (R100 to R103). -/
def Calls.huntEnds (e : Env) (g : GroupIx) (o : Chan) (seen : Chan → Prop) (k l : Calls) : Prop :=
  (∀ m, (k.group g).method = .linear → k.firstEligible g o seen m → k.placedOn e o m l) ∧
    (∀ m, (k.group g).method = .circular → k.firstEligible g o seen m →
      Calls.placedOn e o m
        { k with groups := put k.groups g { k.group g with position := (k.group g).members.idxOf m } } l) ∧
    (∀ ms : List Chan, (k.group g).method = .all → ms ≠ [] →
      (ms = (k.group g).members.filter fun m => k.eligible .all o m) → k.allRung e o ms l) ∧
    ((∀ m ∈ (k.group g).members, seen m → k.eligible (k.group g).method o m = false) →
      ((k.group g).queue.length < (k.group g).queueLimit → k.joined g o l) ∧
      ((k.group g).queueLimit ≤ (k.group g).queue.length →
        (∀ h, (k.group g).overflow = some h → (k.ses o).tried.getLsbD h = false → l = k.hunt e huntFuel h o) ∧
        ((∀ h, (k.group g).overflow = some h → (k.ses o).tried.getLsbD h = true) → k.busied e o l)))

/-! ### Entering IDLE -/

/-- `c`, whose record is `r`, begins to dial with the notices `ns` raised on it (R14, R54, R68): by pulses without a
receiver, with the lowest-numbered FREE receiver, or, with none FREE, at the tail of the wait queue. -/
def State.dials (s : State) (c : Chan) (r : Session) (ns : List Notice) (k : Calls) : Prop :=
  s.othersStand [c] k ∧ k.battQ = s.calls.battQ ∧ k.groups = s.calls.groups ∧ k.bridges = s.calls.bridges ∧
    (r.digitMode = .pulse → s.calls.samePool k ∧
      k.stands c { r.moved .collecting with receiver := none, timer := s.timerOf .firstDigit Param.firstDigitTime }
        (.tone .dial) noOutput (s.recorded ns c)) ∧
    (∀ x : RxIx, r.digitMode ≠ .pulse → (s.calls.rx x).state = .free → (∀ q < x, (s.calls.rx q).state ≠ .free) →
      k.rxQueue = s.calls.rxQueue ∧
      k.receivers = put s.calls.receivers x ⟨(s.calls.rx x).service, .quiet, some c, none, none, none⟩ ∧
      k.stands c { r.moved .collecting with
          receiver := some x, timer := s.timerOf .firstDigit Param.firstDigitTime }
        (.tone .dial) noOutput (s.recorded ns c)) ∧
    (r.digitMode ≠ .pulse → (∀ x, (s.calls.rx x).state ≠ .free) →
      k.receivers = s.calls.receivers ∧ k.rxQueue = s.calls.rxQueue ++ [c] ∧
      k.stands c { r.moved .seized with timer := s.timerOf .rxWait Param.rxWaitNotice } .none noOutput
        (s.recorded ns c))

/-- Group `f` can use the free channel `c` for the head of its queue (R98, R117). -/
def State.serves (s : State) (c : Chan) (f : GroupIx) : Prop :=
  (s.calls.ses c).cls ≠ .unused ∧ c ∈ (s.calls.group f).members ∧
    ∃ h, (s.calls.group f).queue.head? = some h ∧ h ≠ c ∧
      ((s.calls.ses c).cls = .trunk → (s.calls.group f).method ≠ .all ∧ (s.calls.ses h).cls ≠ .trunk)

/-- `c` has entered IDLE by the stages of R27. Outside RUN, or at rest with no group to use it, it stands in IDLE; a
station found off-hook is taken as seized (R14); a trunk found IN_BURST is an incoming call, which waits in HOSTWAIT or
hunts its answer group (R114); else the lowest-numbered group that can use it places the head of its queue on it, with
the queue and the position of CIRCULAR moved on (R117). -/
def State.entersIdle (s : State) (c : Chan) (k : Calls) : Prop :=
  (s.op ≠ .run ∨ s.atRest c ∧ (∀ f, ¬ s.serves c f) →
    s.calls.onlyAt [c] k ∧ k.stands c ((s.calls.ses c).moved .idle) .none noOutput (s.noticesAt c)) ∧
  (s.op = .run → (s.calls.ses c).cls = .station →
    ((look s.loopQ c).state = .offhook ∨ (look s.loopQ c).state = .openTiming) →
    s.dials c ((s.calls.ses c).moved .idle) [.seize] k) ∧
  (s.op = .run → (s.calls.ses c).cls = .trunk → (look s.ringQ c).state = .inBurst →
    ((s.calls.ses c).answerGroup = none →
      s.calls.onlyAt [c] k ∧
      k.stands c (((s.calls.ses c).moved .idle).moved .hostwait) .none noOutput (s.recorded [.ringin] c)) ∧
    ∀ g, (s.calls.ses c).answerGroup = some g →
      ∃ k0, s.calls.onlyAt [c] k0 ∧
        k0.stands c ((s.calls.ses c).moved .idle) .none noOutput (s.recorded [.ringin] c) ∧
        k = k0.hunt s.env huntFuel g c) ∧
  ∀ g h q, s.op = .run → s.atRest c → s.serves c g → (∀ f < g, ¬ s.serves c f) →
    (s.calls.group g).queue = h :: q → (s.calls.ses h).state = .queued →
    ∃ k0, s.othersStand [c] k0 ∧ k0.battQ = s.calls.battQ ∧ s.calls.samePool k0 ∧ k0.bridges = s.calls.bridges ∧
      (∀ f, f ≠ g → k0.group f = s.calls.group f) ∧
      k0.group g = { s.calls.group g with
        queue := q
        position := if (s.calls.group g).method = .circular then (s.calls.group g).members.idxOf c
          else (s.calls.group g).position } ∧
      k0.stands c ((s.calls.ses c).moved .idle) .none noOutput (s.noticesAt c) ∧ k0.placedOn s.env h c k

/-- The channels of the list, cleared to IDLE in `k`, have gone one after the other through stages 2 and 3 of R27, which
leave `l`: each meets the records as the one before it left them (R107, R108, R118). One that is IDLE no more is left as
it is. -/
def State.takenUp (s : State) : List Chan → Calls → Calls → Prop
  | [], k, l => l = k
  | d :: ds, k, l => ∃ m,
    ((k.ses d).state = .idle → ({ s with calls := k } : State).entersIdle d m) ∧
      ((k.ses d).state ≠ .idle → m = k) ∧ s.takenUp ds m l

/-! ### Collections -/

/-- What asks for an evaluation of a digit list: a digit, or the expiry of a collection timer (R81, R83). -/
inductive Asking where
  | interdigit
  | overlap
  | tone (r : RxIx) (d : Digit)
  | pulse (d : Fin 10)
  deriving DecidableEq, Repr

/-- The row that each is taken by. -/
def Asking.row (c : Chan) : Asking → Instr
  | .interdigit => .interdigitExpiry c
  | .overlap => .overlapExpiry c
  | .tone r _ => .toneOnMinExpiry r .now
  | .pulse _ => .pulseMakeEndExpiry c .now

/-- The row is taken in the collection of `c`, with its own timer run out. -/
def Asking.ready (s : State) (c : Chan) : Asking → Prop
  | .interdigit => (s.calls.ses c).timer = some ⟨.interdigit, 0⟩
  | .overlap => (s.calls.ses c).timer = some ⟨.overlap, 0⟩
  | .tone r d => s.op = .run ∧ (s.calls.rx r).state = .onset ∧ (s.calls.rx r).timer = some (.toneOnMin, 0) ∧
      (s.calls.rx r).assigned = some c ∧ (s.calls.rx r).current = some d ∧ (s.calls.ses c).receiver = some r ∧
      s.freshFor (.digit r c d)
  | .pulse d => s.op = .run ∧ (s.calls.ses c).digitMode ≠ .tone ∧ (look s.loopQ c).state = .offhook ∧
      (look s.loopQ c).timer = some (.pulseMakeEnd, 0) ∧
      ((look s.loopQ c).pulses = d ∧ d ≠ 0 ∨ (look s.loopQ c).pulses = 10 ∧ d = 0) ∧
      s.freshFor (.event c (.pulseDigit (.num d)))

/-- The state with the receiver's or the qualifier's own change made (R44, R62). -/
def Asking.delivered (s : State) (c : Chan) : Asking → State
  | .interdigit | .overlap => s
  | .tone r _ => { s with calls := { s.calls with
      receivers := put s.calls.receivers r { s.calls.rx r with state := .digit, timer := none } } }
  | .pulse _ => { s with loopQ := put s.loopQ c { look s.loopQ c with pulses := 0, timer := none } }

/-- The digit list that is evaluated: with the digit appended, or as it stands (R69, R83). -/
def Asking.list (ds : List Digit) : Asking → List Digit
  | .interdigit | .overlap => ds
  | .tone _ d => ds ++ [d]
  | .pulse d => ds ++ [.num d]

/-- The verdict, after a digit or at an expiry (R81, R83). -/
def Asking.verdict (plan : Vector (Option Entry) 128) (ds : List Digit) : Asking → Verdict
  | .interdigit | .overlap => evaluateAtExpiry plan ds
  | .tone _ _ | .pulse _ => evaluate plan ds

/-- The number dialled in the places where the pattern holds `X` (R88). -/
def numberAtXs (pattern : List PatSym) (ds : List Digit) : Nat :=
  ((pattern.zip ds).filterMap fun x =>
    match x with
    | (.x, .num n) => some n.val
    | _ => none).foldl (fun a n => 10 * a + n) 0

/-- The number of the channel that a completed entry names (R88): that of action CHANNEL, or the offset of action
EXTENSION and the number dialled in the places of `X`. -/
def Entry.names (en : Entry) (ds : List Digit) (n : Nat) : Prop :=
  (∃ d, en.action = .channel d ∧ n = d.val) ∨
    ∃ o, en.action = .extension o ∧ n = o.val + numberAtXs en.pattern ds

/-- The collection of `c` with the digits `ds` has ended in TONEOUT REORDER with the notices `ns` (R84, R85, R86),
from the records `k0` that stand when its receiver has been returned. -/
def State.reordered (s : State) (c : Chan) (ds : List Digit) (ns : List Notice) (k0 k : Calls) : Prop :=
  k0.onlyAt [c] k ∧
    k.stands c { (s.calls.ses c).moved .toneout with
        digits := ds, toneKind := .reorder, timer := s.timerOf .toneout Param.toneoutTime }
      (.tone .reorder) noOutput (s.recorded ns c)

/-! ### The highway -/

/-- The sample that slot `c` carries when it begins in state `s`, in frame number `n` with the incoming samples
`incoming`, is `v` (R122, R124, R125, R126, R129): that of the source held when the slot begins. A sample of slot `d`
is the one last received: of this frame when `d` precedes `c`, else of the frame before. -/
def State.fills (s : State) (incoming : Vector Byte 32) (n : Nat) (c : Chan) (v : Byte) : Prop :=
  ((s.calls.ses c).cls = .unused ∨ look s.calls.listen c = .none → v = Config.silence) ∧
    (∀ d, (s.calls.ses c).cls ≠ .unused → look s.calls.listen c = .slot d →
      v = if d < c then look incoming d else look s.highway.received d) ∧
    (∀ b, (s.calls.ses c).cls ≠ .unused → look s.calls.listen c = .bridge b →
      v = Config.encode (max (-(Config.largest : Int)) (min
        (((s.calls.members b).filter (· ≠ c)).map fun d =>
          Config.expand (if d < c then look incoming d else look s.highway.received d)).sum Config.largest))) ∧
    ∀ x, (s.calls.ses c).cls ≠ .unused → look s.calls.listen c = .tone x →
      ((x, (look s.tones (toneIx x)).step) ∈
          ([(.ringback, 1), (.busy, 1), (.reorder, 1), (.hold, 1), (.hold, 3)] : List (Tone × Nat)) →
        v = Config.silence) ∧
      ∀ fs, (x, (look s.tones (toneIx x)).step, fs) ∈
          ([(.dial, 0, [425, 475]), (.ringback, 0, [425, 475]), (.busy, 0, [475, 625]), (.reorder, 0, [475, 625]),
            (.hold, 0, [525]), (.hold, 2, [525])] : List (Tone × Nat × List Nat)) →
        v = Config.toneSample (toneIx x) fs n

/-! ### Commands -/

/-- The operating states that accept each command (08, section 8.6). -/
def Cmd.accepted : Cmd → OpState → Bool
  | .start, o => o == .config
  | .stop, o | .hold, o | .retrieve, o | .transfer, o | .drop, o | .place, o | .connect, o | .setListen, o
  | .conference, o | .join, o => o == .run
  | .readParam, _ | .readSession, _ | .readDigits, _ | .readGroup, _ | .readBridge, _ | .takeNotices, _ => true
  | .setParam, o | .applyParams, o | .setNoticeMask, o | .configureChannel, o | .block, o | .restore, o
  | .writeEntry, o | .clearEntry, o | .writeGroup, o | .setMembers, o | .addMember, o | .dropMember, o
  | .receiverService, o | .setWatch, o | .armWatch, o | .disarmWatch, o => o != .stopping

/-- A byte that names a number below `n`, or none (R178). -/
def optBelow (n : Nat) (b : Byte) : Bool := b == 0xFF || b.toNat < n

/-- The pattern symbol at place `i` of the parameter bytes of WRITE_ENTRY (08, section 8.7). -/
def patternSym (p : Params) (i : Nat) : Nat :=
  packedAt [look p 8, look p 9, look p 10, look p 11, look p 12, look p 13] i

/-- How many `X` the pattern of WRITE_ENTRY holds. -/
def patternXs (p : Params) : Nat := ((List.range (look p 1).toNat).filter fun i => patternSym p i == 12).length

/-- The parameters of a command lie in the ranges of their fields (R165, R178 and each command's own rule). -/
def Cmd.inRange (cmd : Cmd) (p : Params) : Bool :=
  let below : Fin 16 → Nat → Bool := fun i n => (look p i).toNat < n
  match cmd with
  | .start | .stop | .applyParams | .setNoticeMask => true
  | .setParam =>
    if h : (look p 0).toNat < 23 then
      let i : ParamIx := ⟨(look p 0).toNat, h⟩
      let v := (look p 1).toNat + 256 * (look p 2).toNat
      look paramLow i ≤ v && v ≤ look paramHigh i
    else false
  | .readParam => below 0 23
  | .configureChannel => below 0 32 && below 1 3 && below 2 3 && below 3 4 && below 4 2 && optBelow 8 (look p 5)
  | .block | .restore | .readSession | .readDigits | .hold | .retrieve | .transfer | .drop | .conference => below 0 32
  | .writeEntry =>
    below 0 128 && 1 ≤ (look p 1).toNat && (look p 1).toNat ≤ 12 &&
      (List.range (look p 1).toNat).all (fun i => patternSym p i < 13) && below 2 5 && below 4 4 &&
      (if look p 2 = 0 ∨ look p 2 = 1 then below 3 32 else if look p 2 = 2 then below 3 8 else true) &&
      (look p 2 != 1 || patternXs p == 1 || patternXs p == 2)
  | .clearEntry => below 0 128
  | .writeGroup =>
    below 0 8 && below 1 3 && optBelow 8 (look p 2) && optBelow 8 (look p 3) && (look p 4).toNat ≤ 8 &&
      1 ≤ (look p 5).toNat
  | .setMembers =>
    below 0 8 && (look p 1).toNat ≤ 6 &&
      ([look p 2, look p 3, look p 4, look p 5, look p 6, look p 7].take (look p 1).toNat).all fun b => b.toNat < 32
  | .addMember | .dropMember => below 0 8 && below 1 32
  | .readGroup => below 0 8
  | .receiverService => below 0 8 && below 1 2
  | .place => below 0 32 && ((look p 1 == 0 && below 2 8) || (look p 1 == 1 && below 2 32))
  | .connect => below 0 32 && below 1 32 && (look p 0).toNat != (look p 1).toNat
  | .setListen => below 0 32 && (look p 1 == 0 || (look p 1 == 1 && below 2 5))
  | .join => below 0 4 && below 1 32
  | .readBridge => below 0 4
  | .takeNotices => below 0 33
  | .setWatch => below 0 2 && below 1 2
  | .armWatch | .disarmWatch => below 0 2

/-- A pattern symbol agrees with a digit, as R75 gives. -/
def symAgrees (s : PatSym) (d : Digit) : Prop := s = .digit d ∨ s = .x ∧ ∃ n, d = .num n

/-- The entry of slot `i` is a candidate for a digit list (R80). -/
def candidate (plan : Vector (Option Entry) 128) (ds : List Digit) (i : SlotIx) (en : Entry) : Prop :=
  look plan i = some en ∧ ds.length ≤ en.pattern.length ∧
    ∀ (j : Nat) (s : PatSym) (d : Digit), en.pattern[j]? = some s → ds[j]? = some d → symAgrees s d

end Sys2Proof.Machine
end

