-- ==== Sys2Proof/Certificates/Slice0/Obligations.lean ====
section
/-! DEFINITION. The statements for the provers, each from a rule of spec/ or, where its docstring says so, about a
choice of the model. `State.close k` is the close of an event of the Session Table that leaves the call state `k`
(statements FiredWatchesAndRequestLines and TransmitterPicksInOrder); `State.deliver` hands a qualified event to it;
`Session.moved` is a record that leaves its state (statement LeavingAStateResetsItsFields). -/

section Statements

open Sys2Proof Sys2Proof.Machine

/-! ### Steps, time and reset -/

/-- A step takes the command at the front of the queue. -/
def Obligations.StepTakesTheFrontCommand : Prop :=
  ∀ (c : Instr) (rest : List Instr) (s : State),
    step { s with pending := c :: rest } = exec c { s with pending := rest }

/-- The model's choice (logs 1, 4, 5 and 10): on an empty queue ST takes the first delivery in flight; with none the
slot being sent on the highway ends and the next begins; with none the commands that are due join the queue; and when
none is due one millisecond passes on every running timer. RESET held stops it. -/
def Obligations.EmptyQueueRunsTheTimebase : Prop :=
  ∀ s : State, s.pending = [] →
    (s.resetAsserted = true → step s = .next s) ∧
    (∀ v rest, s.resetAsserted = false → s.deliveries = v :: rest →
      step s = .next (({ s with deliveries := rest }).close (s.calls.takeDelivery s.env v))) ∧
    (s.resetAsserted = false → s.deliveries = [] → s.highway.slot ≠ none →
      ∃ t, step s = .next t ∧ t = { s with highway := t.highway }) ∧
    (s.resetAsserted = false → s.deliveries = [] → s.highway.slot = none → s.dueCommands ≠ [] →
      step s = .next { s with pending := s.dueCommands }) ∧
    (s.resetAsserted = false → s.deliveries = [] → s.highway.slot = none → s.dueCommands = [] →
      ∃ t, step s = .next t ∧ t.now = s.now + 1 ∧
      (∀ c, t.calls.ses c =
          { s.calls.ses c with timer := (s.calls.ses c).timer.map fun x => ⟨x.kind, x.left - 1⟩ } ∧
        look t.loopQ c = { look s.loopQ c with timer := (look s.loopQ c).timer.map fun x => (x.1, x.2 - 1) } ∧
        look t.ringQ c = { look s.ringQ c with
          burst := (look s.ringQ c).burst.map (· - 1), gap := (look s.ringQ c).gap.map (· - 1) } ∧
        t.calls.batt c = { s.calls.batt c with timer := (s.calls.batt c).timer.map (· - 1) }) ∧
      (∀ r, t.calls.rx r = { s.calls.rx r with timer := (s.calls.rx r).timer.map fun x => (x.1, x.2 - 1) }) ∧
      (∀ i, look t.tones i = { look s.tones i with left := (look s.tones i).left.map (· - 1) }) ∧
      t = { s with
        now := t.now
        loopQ := t.loopQ
        ringQ := t.ringQ
        tones := t.tones
        calls := { s.calls with
          sessions := t.calls.sessions, battQ := t.calls.battQ, receivers := t.calls.receivers } })

/-- Which rows are due on an empty queue: the completion of a frame in flight (the model's choice, log 5), the end of
a tone step that has run out, each expiry whose own timer has run out in a state that runs it, with its delivery taken
in the same step (`t = .now`: the model's choice, log 4), the taking of the command in flight (the model's choice, log
25), and none else. -/
def Obligations.DueCommandsAreThoseRunOut : Prop :=
  ∀ (s : State) (i : Instr), i ∈ s.dueCommands ↔
    match i with
    | .frameCompletion => s.link.flight ≠ none
    | .toneStepEnd x => (look s.tones (toneIx x)).left = some 0
    | .toneOnMinExpiry r t =>
      t = .now ∧ (s.calls.rx r).state = .onset ∧ (s.calls.rx r).timer = some (.toneOnMin, 0)
    | .toneGapMinExpiry r => (s.calls.rx r).state = .gap ∧ (s.calls.rx r).timer = some (.toneGapMin, 0)
    | .seizeQualExpiry c t =>
      t = .now ∧ (look s.loopQ c).state = .seizeTiming ∧ (look s.loopQ c).timer = some (.seizeQual, 0)
    | .flashMaxExpiry c t =>
      t = .now ∧ (look s.loopQ c).state = .openTiming ∧ (look s.loopQ c).timer = some (.flashMax, 0)
    | .pulseMakeEndExpiry c t =>
      t = .now ∧ (look s.loopQ c).state = .offhook ∧ (look s.loopQ c).timer = some (.pulseMakeEnd, 0)
    | .burstTimerExpiry c t =>
      t = .now ∧ (look s.ringQ c).burst = some 0 ∧
        ((look s.ringQ c).state = .burstTiming ∨ (look s.ringQ c).state = .gapTiming ∧ (look s.ringQ c).inCheck = true)
    | .gapTimerExpiry c t => t = .now ∧ (look s.ringQ c).gap = some 0 ∧ (look s.ringQ c).state = .gapTiming
    | .battSeizeQualExpiry c t => t = .now ∧ s.calls.batt c = ⟨.timing, some 0⟩
    | .farOpenMinExpiry c t => t = .now ∧ s.calls.batt c = ⟨.dropTiming, some 0⟩
    | .firstDigitExpiry c => (s.calls.ses c).timer = some ⟨.firstDigit, 0⟩ ∧ (s.calls.ses c).state = .collecting
    | .interdigitExpiry c => (s.calls.ses c).timer = some ⟨.interdigit, 0⟩ ∧ (s.calls.ses c).state = .collecting
    | .overlapExpiry c => (s.calls.ses c).timer = some ⟨.overlap, 0⟩ ∧ (s.calls.ses c).state = .collecting
    | .rxWaitExpiry c => (s.calls.ses c).timer = some ⟨.rxWait, 0⟩ ∧ (s.calls.ses c).state = .seized
    | .cadenceExpiry c =>
      (s.calls.ses c).timer = some ⟨.cadence, 0⟩ ∧
        ((s.calls.ses c).state = .outring ∨ (s.calls.ses c).state = .ringin)
    | .queueWaitExpiry c => (s.calls.ses c).timer = some ⟨.queueWait, 0⟩ ∧ (s.calls.ses c).state = .queued
    | .toneoutExpiry c => (s.calls.ses c).timer = some ⟨.toneout, 0⟩ ∧ (s.calls.ses c).state = .toneout
    | .guardExpiry c => (s.calls.ses c).timer = some ⟨.guard, 0⟩ ∧ (s.calls.ses c).state = .releasing
    | .seizeWaitExpiry c => (s.calls.ses c).timer = some ⟨.seizeWait, 0⟩ ∧ (s.calls.ses c).state = .seizing
    | .cutThroughExpiry c => (s.calls.ses c).timer = some ⟨.cutThrough, 0⟩ ∧ (s.calls.ses c).state = .seizing
    | _ => ∃ (cmd : Cmd) (p : Params), s.mbox.inFlight = some ⟨cmd.code, p⟩ ∧ i = cmd.row

/-- R13, R49, R50, R62, R64, R65 and R67, and log 1: a delivery is taken in the step that makes it, as one event of the
Session Table that then closes, or it is left in flight, behind an earlier one of its source always; the taking does
nothing outside RUN, and drops a digit whose channel does not collect with its receiver, or by pulses; a digit in
flight is lost when its collection ends (a deduction of the model), and a BATT_ON or FAR_OPEN in flight when its trunk
is seized (R49). -/
def Obligations.DeliveriesAreTakenNowOrLater : Prop :=
  (∀ (t : Taking) (v : Delivery) (s : State),
    (t = .now → s.freshFor v → s.hand t v = s.close (s.calls.takeDelivery s.env v)) ∧
    (t = .later ∨ ¬ s.freshFor v → s.hand t v = { s with deliveries := s.deliveries ++ [v] })) ∧
  (∀ (t : Taking) (c : Chan) (ev : LineEvent) (s : State),
    s.deliver t c (some ev) = s.hand t (.event c ev) ∧ s.deliver t c none = s) ∧
  (∀ (t : Taking) (r : RxIx) (c : Chan) (d : Digit) (s : State), s.resetAsserted = false →
    (s.calls.rx r).state = .onset → (s.calls.rx r).timer = some (.toneOnMin, 0) → (s.calls.rx r).assigned = some c →
    (s.calls.rx r).current = some d →
    exec (.toneOnMinExpiry r t) s = .next (({ s with calls := { s.calls with
      receivers := put s.calls.receivers r { s.calls.rx r with state := .digit, timer := none } } }).hand t
        (.digit r c d))) ∧
  (∀ (e : Env) (v : Delivery) (k : Calls), e.op ≠ .run → k.takeDelivery e v = k) ∧
  (∀ (e : Env) (r : RxIx) (c : Chan) (d : Digit) (k : Calls),
    (k.ses c).state ≠ .collecting ∨ (k.ses c).receiver ≠ some r → k.takeDelivery e (.digit r c d) = k) ∧
  (∀ (e : Env) (c : Chan) (d : Digit) (k : Calls),
    (k.ses c).state ≠ .collecting ∨ (k.ses c).digitMode = .tone →
      k.takeDelivery e (.event c (.pulseDigit d)) = k) ∧
  (∀ (v : Delivery) (k : Calls) (s : State), v ∈ (s.close k).deliveries ↔
    v ∈ s.deliveries ∧
      (∀ r c d, v = .digit r c d → (k.ses c).state = .collecting ∧ (k.ses c).receiver = some r) ∧
      ∀ c, v = .event c .battOn ∨ v = .event c .farOpen →
        (k.ses c).state = .seizing → (s.calls.ses c).state = .seizing) ∧
  (∀ (c d : Chan) (ev ew : LineEvent), (Delivery.event c ev).follows (.event d ew) = true ↔
    c = d ∧ ((ev = .battOn ∨ ev = .farOpen) ↔ (ew = .battOn ∨ ew = .farOpen))) ∧
  ∀ (r q : RxIx) (c b : Chan) (d d' : Digit) (ev : LineEvent),
    ((Delivery.digit r c d).follows (.digit q b d') = true ↔ r = q) ∧
      (Delivery.digit r c d).follows (.event b ev) = false ∧ (Delivery.event b ev).follows (.digit r c d) = false

/-- R2: the session records, the listen sources and the desired levels after hardware reset. -/
def Obligations.HardwareResetClearsTheRecords : Prop :=
  ∀ s : State, ∃ t, exec .hardwareReset s = .next t ∧
    ∀ c, t.calls.ses c =
        { cls := .unused, digitMode := .tone, serviceClass := 0, flashMode := .notice, answerGroup := none
          state := .idle, peer := none, ringCount := 0, phaseOn := false, cycles := 0, holds := none, heldBy := none
          receiver := none, bridge := none, digits := [], curGroup := none, tried := 0, timer := none
          toneKind := .reorder } ∧
      look t.calls.listen c = .none ∧ t.calls.levels c = ⟨false, false⟩

/-- The other blocks after hardware reset, each at the value the spec gives it: the operating state (R170), the images
and the scan link (R38), the qualifiers (R39, R45, R48), the receivers and their queue (R51, R53), the dial plan, the
groups and the bridges (R74, R94, R128), the highway and PCMO at high impedance (R124), the parameters and the mask
(R174, R183), the mailbox and the three enables (R162, R163), the notices (R180), the watches (R188) and the request
lines (R186, R190). Nothing is left in flight towards ST (log 1). -/
def Obligations.HardwareResetSetsEveryBlock : Prop :=
  ∀ s : State, ∃ t, exec .hardwareReset s = .next t ∧ t.op = .config ∧ t.deliveries = [] ∧
    ((∀ c, t.calls.levels c = ⟨false, false⟩ ∧ look t.link.sent c = ⟨false, false⟩) ∧ t.link.position = 31 ∧
      t.link.errorFlag = false ∧ t.link.clearPending = true ∧ t.link.statusPending = true ∧ t.link.flight = none) ∧
    (∀ c, (look t.loopQ c).state = .onhook ∧ (look t.loopQ c).pulses = 0 ∧ (look t.loopQ c).timer = none ∧
      look t.ringQ c = ⟨.ringIdle, none, none, false⟩ ∧ t.calls.batt c = ⟨.absent, none⟩) ∧
    ((∀ r, t.calls.rx r = ⟨.inService, .free, none, none, none, none⟩) ∧ t.calls.rxQueue = []) ∧
    (∀ i, look t.plan i = none) ∧ (∀ g, t.calls.group g = ⟨.linear, [], 0, none, none, 0, 30, []⟩) ∧
    (∀ b, t.calls.members b = []) ∧ (t.highway.slot = none ∧ t.pcmo = none ∧ ∀ c, look t.highway.carried c = none) ∧
    (t.params.staged = paramDefault ∧ t.params.current = paramDefault ∧
      ∀ n : Notice, t.params.mask.getLsbD n.bit = true) ∧
    (t.mbox.state = .idle ∧ t.mbox.inFlight = none ∧ t.mbox.completion = .noResult ∧ t.mbox.collision = false ∧
      t.mbox.lastCode = 0 ∧ t.mbox.writePage = 0 ∧ t.mbox.readPage = 0 ∧
      (∀ i, look t.mbox.params i = 0) ∧ ∀ i, look t.mbox.result i = 0) ∧
    (∀ c, look t.calls.notices c = 0) ∧
    (t.attn.linkErr = false ∧ t.attn.irqaEnable = false ∧ t.attn.irqbEnable = false ∧ t.attn.doneEnable = false ∧
      ∀ w, look t.attn.watches w = ⟨0, 0, .any, false, false⟩) ∧ t.irqa = false ∧ t.irqb = false

/-- R38 and log 6 (a deduction): while RESET is held nothing but its end is taken; at its end the tone generators start
(R126) and CLEAR_ALL goes out; after a hardware reset CLEAR_ALL is followed by STATUS_REQUEST. -/
def Obligations.ResetEndSendsClearAllThenStatusRequest : Prop :=
  (∀ (i : Instr) (s : State), s.resetAsserted = true → i ≠ .hardwareReset → i ≠ .resetEnd → exec i s = .next s) ∧
  (∀ s : State, s.resetAsserted = true → s.link.clearPending = true →
    exec .resetEnd s = .next { s with
      resetAsserted := false
      tones := #v[⟨0, none⟩, ⟨0, some 1000⟩, ⟨0, some 500⟩, ⟨0, some 250⟩, ⟨0, some 200⟩]
      link := { s.link with clearPending := false, flight := some .clearAll } }) ∧
  (∀ s : State, s.resetAsserted = false → exec .resetEnd s = .next s) ∧
  ∀ s : State, ∃ t u v, exec .hardwareReset s = .next t ∧ exec .resetEnd t = .next u ∧
    exec .frameCompletion u = .next v ∧ u.link.flight = some .clearAll ∧ v.link.flight = some .statusRequest ∧
    v.link.clearPending = false ∧ v.link.statusPending = false ∧ ∀ c, look v.link.sent c = ⟨false, false⟩

/-! ### The scan link -/

/-- R179: a frame is a start bit at high level, byte 0 and byte 1 with the most significant bit first, and a stop bit;
SDO carries the frame of the order in flight with its check and a low stop bit, and rests while none is; a report
frame is good, and read as a channel, a condition and a level, exactly when its stop bit is low, its check agrees and
its condition is defined. Bit 17 of a frame here is its first. A term without a start bit is no frame and nothing
takes it (log 22). -/
def Obligations.FramesCarryTheirBits : Prop :=
  (∀ s : State, (s.link.flight = none → s.sdo = none) ∧ ∀ o, s.link.flight = some o → s.sdo = some o.frame) ∧
  (∀ o : Order, o.frame.getLsbD 17 = true ∧ o.frame.getLsbD 0 = false ∧
    (o.frame.extractLsb' 9 8).toNat = (match o with
      | .ringOff c => c.val
      | .ringOn c => 0x20 + c.val
      | .loopOpen c => 0x40 + c.val
      | .loopClose c => 0x60 + c.val
      | .clearAll => 0xC0
      | .statusRequest => 0xE0) ∧
    ∀ i : Fin 8, o.frame.getLsbD (1 + i) = !o.frame.getLsbD (9 + (i.val + 5) % 8)) ∧
  (∀ (f : BitVec 18) (r : Report), readReport f = some r ↔
    f.getLsbD 0 = false ∧ (∀ i : Fin 8, f.getLsbD (1 + i) = !f.getLsbD (9 + (i.val + 5) % 8)) ∧
      (f.extractLsb' 9 8).toNat = 8 * r.chan + 2 * r.cond.code + (if r.level then 1 else 0)) ∧
  ∀ (byte0 byte1 : Byte) (stop start : Bool) (t : Taking) (s : State),
    ((frameBits byte0 byte1 stop start).getLsbD 17 = start ∧ (frameBits byte0 byte1 stop start).getLsbD 0 = stop ∧
      (frameBits byte0 byte1 stop start).extractLsb' 9 8 = byte0 ∧
      (frameBits byte0 byte1 stop start).extractLsb' 1 8 = byte1) ∧
    (s.resetAsserted = false →
      (∀ r, readReport (frameBits byte0 byte1 stop) = some r →
        exec (.conditionReport byte0 byte1 stop true t) s = exec (goodReport r.chan r.cond r.level t) s) ∧
      exec (.conditionReport byte0 byte1 stop false t) s = .next s)

/-- R30: a bad report frame sets the error flag and LINKERR and marks a STATUS_REQUEST pending; an idle transmitter
picks at once (R34). -/
def Obligations.BadFrameIsDiscarded : Prop :=
  ∀ (byte0 byte1 : Byte) (stop : Bool) (taken : Taking) (s : State), s.resetAsserted = false →
    (stop = true ∨ byte1 ≠ ~~~ (byte0.rotateLeft 3) ∨ byte0.toNat / 2 % 4 = 0) →
    (s.link.flight.isSome = true → exec (.conditionReport byte0 byte1 stop true taken) s = .next { s with
      link := { s.link with errorFlag := true, statusPending := true }
      attn := { s.attn with linkErr := true } }) ∧
    (s.link.flight = none → exec (.conditionReport byte0 byte1 stop true taken) s = .next { s with
      link := { s.link with
        errorFlag := true
        clearPending := false
        statusPending := s.link.clearPending
        flight := some (if s.link.clearPending then .clearAll else .statusRequest) }
      attn := { s.attn with linkErr := true } }) ∧
    (s.link.errorFlag = true → s.attn.linkErr = true → s.link.statusPending = true → s.link.flight.isSome = true →
      exec (.conditionReport byte0 byte1 stop true taken) s = .next s)

/-- R32: a good report goes to the qualifier its channel's class gives, and is discarded elsewhere. -/
def Obligations.ReportsAreRoutedByClass : Prop :=
  ∀ (c : Chan) (cond : Condition) (level : Bool) (t : Taking) (s : State), s.resetAsserted = false →
    ((s.calls.ses c).cls = .unused → exec (goodReport c cond level t) s = .next s) ∧
    ((s.calls.ses c).cls = .station → cond ≠ .loop → exec (goodReport c cond level t) s = .next s) ∧
    ((s.calls.ses c).cls = .trunk → cond = .loop → exec (goodReport c cond level t) s = .next s) ∧
    ((s.calls.ses c).cls = .station → cond = .loop → ∃ q ev,
      (look s.loopQ c).report s.params.current s.now (s.calls.countsPulses c) level = (q, ev) ∧
      exec (goodReport c cond level t) s = .next (({ s with loopQ := put s.loopQ c q }).deliver t c ev)) ∧
    ((s.calls.ses c).cls = .trunk → cond = .ringv → exec (goodReport c cond level t) s =
      .next { s with ringQ := put s.ringQ c ((look s.ringQ c).report s.params.current level) }) ∧
    ((s.calls.ses c).cls = .trunk → cond = .batt → exec (goodReport c cond level t) s =
      .next { s with calls := { s.calls with
        battQ := put s.calls.battQ c ((s.calls.batt c).report s.params.current level) } })

/-- R41, and the reports of R40 and R39: an opening in OFFHOOK starts open timing with a copy of the thresholds, a
closure in ONHOOK starts seizure timing, and a level already held changes nothing. -/
def Obligations.OpeningStartsOpenTiming : Prop :=
  ∀ (c : Chan) (t : Taking) (s : State), s.resetAsserted = false → (s.calls.ses c).cls = .station →
    ((look s.loopQ c).state = .offhook → exec (goodReport c .loop false t) s = .next { s with
      loopQ := put s.loopQ c
        { look s.loopQ c with
          state := .openTiming
          openStart := s.now
          hitMax := look s.params.current Param.hitMax
          breakMax := look s.params.current Param.pulseBreakMax
          flashMin := look s.params.current Param.flashMin
          timer := some (.flashMax, look s.params.current Param.flashMax) } }) ∧
    ((look s.loopQ c).state = .onhook → exec (goodReport c .loop true t) s = .next { s with
      loopQ := put s.loopQ c
        { look s.loopQ c with
          state := .seizeTiming, timer := some (.seizeQual, look s.params.current Param.seizeQual) } }) ∧
    ((look s.loopQ c).state = .seizeTiming → exec (goodReport c .loop false t) s = .next { s with
      loopQ := put s.loopQ c { look s.loopQ c with state := .onhook, timer := none } }) ∧
    ((look s.loopQ c).state = .onhook ∨ (look s.loopQ c).state = .openTiming →
      exec (goodReport c .loop false t) s = .next s) ∧
    ((look s.loopQ c).state = .seizeTiming ∨ (look s.loopQ c).state = .offhook →
      exec (goodReport c .loop true t) s = .next s)

/-- R42: a closed report in OPEN_TIMING classifies the open interval; what ST does with the FLASH it delivers is in the
statements ConsultationsStart and HoldersReturnToTheHeldParty. -/
def Obligations.OpenIntervalsAreClassified : Prop :=
  ∀ (c : Chan) (t : Taking) (s : State) (len : Nat), s.resetAsserted = false → (s.calls.ses c).cls = .station →
    (look s.loopQ c).state = .openTiming → len = s.now - (look s.loopQ c).openStart →
    (len < (look s.loopQ c).hitMax → exec (goodReport c .loop true t) s = .next { s with
      loopQ := put s.loopQ c { look s.loopQ c with
        state := .offhook
        timer := if 0 < (look s.loopQ c).pulses then some (.pulseMakeEnd, look s.params.current Param.pulseMakeEnd)
          else none } }) ∧
    ((look s.loopQ c).hitMax ≤ len → len ≤ (look s.loopQ c).breakMax →
      ((s.calls.ses c).state = .collecting ∧
          ((s.calls.ses c).digitMode = .pulse ∨ (s.calls.ses c).digitMode = .either) →
        exec (goodReport c .loop true t) s = .next { s with
          loopQ := put s.loopQ c { look s.loopQ c with
            state := .offhook
            pulses := min ((look s.loopQ c).pulses + 1) 11
            timer := some (.pulseMakeEnd, look s.params.current Param.pulseMakeEnd) } }) ∧
      (¬ ((s.calls.ses c).state = .collecting ∧
          ((s.calls.ses c).digitMode = .pulse ∨ (s.calls.ses c).digitMode = .either)) →
        exec (goodReport c .loop true t) s = .next { s with
          loopQ := put s.loopQ c { look s.loopQ c with state := .offhook, pulses := 0, timer := none } })) ∧
    ((look s.loopQ c).hitMax ≤ len → (look s.loopQ c).breakMax < len → len < (look s.loopQ c).flashMin →
      exec (goodReport c .loop true t) s = .next { s with
        loopQ := put s.loopQ c { look s.loopQ c with state := .offhook, pulses := 0, timer := none } }) ∧
    ((look s.loopQ c).hitMax ≤ len → (look s.loopQ c).breakMax < len → (look s.loopQ c).flashMin ≤ len →
      exec (goodReport c .loop true t) s = .next (({ s with
        loopQ := put s.loopQ c { look s.loopQ c with state := .offhook, pulses := 0, timer := none } }).deliver t c
          (some .flash)))

/-- R40, R43 and R44: the three expiries of a loop qualifier's timer, and the event each delivers (what ST does with a
pulse digit is in the statement CollectionsGoByTheirVerdict). That an expiry which is not due changes nothing is a
deduction of the model (log 3). -/
def Obligations.LoopQualifierTimersEnd : Prop :=
  ∀ (c : Chan) (t : Taking) (s : State), s.resetAsserted = false →
    ((look s.loopQ c).state = .seizeTiming → (look s.loopQ c).timer = some (.seizeQual, 0) →
      exec (.seizeQualExpiry c t) s = .next (({ s with
        loopQ := put s.loopQ c { look s.loopQ c with state := .offhook, pulses := 0, timer := none } }).deliver t c
          (some .seize))) ∧
    ((look s.loopQ c).state = .openTiming → (look s.loopQ c).timer = some (.flashMax, 0) →
      exec (.flashMaxExpiry c t) s = .next (({ s with
        loopQ := put s.loopQ c { look s.loopQ c with state := .onhook, pulses := 0, timer := none } }).deliver t c
          (some .disconnect))) ∧
    ((look s.loopQ c).state = .offhook → (look s.loopQ c).timer = some (.pulseMakeEnd, 0) →
      (∀ d : Fin 10, ((look s.loopQ c).pulses = d ∧ d ≠ 0 ∨ (look s.loopQ c).pulses = 10 ∧ d = 0) →
        exec (.pulseMakeEndExpiry c t) s = .next (({ s with
          loopQ := put s.loopQ c { look s.loopQ c with pulses := 0, timer := none } }).deliver t c
            (some (.pulseDigit (.num d))))) ∧
      ((look s.loopQ c).pulses = 0 ∨ 10 < (look s.loopQ c).pulses →
        exec (.pulseMakeEndExpiry c t) s = .next { s with
          loopQ := put s.loopQ c { look s.loopQ c with pulses := 0, timer := none } })) ∧
    ((look s.loopQ c).timer ≠ some (.seizeQual, 0) → exec (.seizeQualExpiry c t) s = .next s) ∧
    ((look s.loopQ c).timer ≠ some (.flashMax, 0) → exec (.flashMaxExpiry c t) s = .next s) ∧
    ((look s.loopQ c).timer ≠ some (.pulseMakeEnd, 0) → exec (.pulseMakeEndExpiry c t) s = .next s)

/-- R45, R46, R47 and R48: the reports and the expiries of a ring qualifier and of a battery qualifier. -/
def Obligations.TrunkQualifiersFollowTheirTables : Prop :=
  ∀ (c : Chan) (t : Taking) (s : State), s.resetAsserted = false → (s.calls.ses c).cls = .trunk →
    ((look s.ringQ c).state = .ringIdle →
      exec (goodReport c .ringv false t) s = .next s ∧
      exec (goodReport c .ringv true t) s = .next { s with ringQ := put s.ringQ c { look s.ringQ c with
        state := .burstTiming, burst := some (look s.params.current Param.ringBurstMin) } }) ∧
    ((look s.ringQ c).state = .burstTiming →
      exec (goodReport c .ringv true t) s = .next s ∧
      exec (goodReport c .ringv false t) s = .next { s with ringQ := put s.ringQ c { look s.ringQ c with
        state := .ringIdle, burst := none } } ∧
      ((look s.ringQ c).burst = some 0 → exec (.burstTimerExpiry c t) s = .next (({ s with
        ringQ := put s.ringQ c { look s.ringQ c with state := .inBurst, burst := none } }).deliver t c
          (some .ringBurst)))) ∧
    ((look s.ringQ c).state = .inBurst →
      exec (goodReport c .ringv true t) s = .next s ∧
      exec (goodReport c .ringv false t) s = .next { s with ringQ := put s.ringQ c { look s.ringQ c with
        state := .gapTiming, gap := some (look s.params.current Param.ringGapMax), inCheck := false } }) ∧
    ((look s.ringQ c).state = .gapTiming → (look s.ringQ c).inCheck = false →
      exec (goodReport c .ringv false t) s = .next s ∧
      exec (goodReport c .ringv true t) s = .next { s with ringQ := put s.ringQ c { look s.ringQ c with
        inCheck := true, burst := some (look s.params.current Param.ringBurstMin) } } ∧
      ((look s.ringQ c).gap = some 0 → exec (.gapTimerExpiry c t) s = .next (({ s with
        ringQ := put s.ringQ c { look s.ringQ c with state := .ringIdle, gap := none } }).deliver t c
          (some .ringGone)))) ∧
    ((look s.ringQ c).state = .gapTiming → (look s.ringQ c).inCheck = true →
      exec (goodReport c .ringv true t) s = .next s ∧
      exec (goodReport c .ringv false t) s = .next { s with ringQ := put s.ringQ c { look s.ringQ c with
        inCheck := false, burst := none } } ∧
      ((look s.ringQ c).burst = some 0 → exec (.burstTimerExpiry c t) s = .next { s with
        ringQ := put s.ringQ c ⟨.inBurst, none, none, false⟩ }) ∧
      ((look s.ringQ c).gap = some 0 → exec (.gapTimerExpiry c t) s = .next (({ s with
        ringQ := put s.ringQ c { look s.ringQ c with
          state := .burstTiming, gap := none, inCheck := false } }).deliver t c
          (some .ringGone)))) ∧
    ((s.calls.batt c).state = .absent →
      exec (goodReport c .batt false t) s = .next s ∧
      exec (goodReport c .batt true t) s = .next { s with calls := { s.calls with
        battQ := put s.calls.battQ c ⟨.timing, some (look s.params.current Param.seizeQual)⟩ } }) ∧
    ((s.calls.batt c).state = .timing →
      exec (goodReport c .batt true t) s = .next s ∧
      exec (goodReport c .batt false t) s = .next { s with calls := { s.calls with
        battQ := put s.calls.battQ c ⟨.absent, none⟩ } } ∧
      ((s.calls.batt c).timer = some 0 → exec (.battSeizeQualExpiry c t) s = .next (({ s with calls := { s.calls with
        battQ := put s.calls.battQ c ⟨.present, none⟩ } }).deliver t c (some .battOn)))) ∧
    ((s.calls.batt c).state = .present →
      exec (goodReport c .batt true t) s = .next s ∧
      exec (goodReport c .batt false t) s = .next { s with calls := { s.calls with
        battQ := put s.calls.battQ c ⟨.dropTiming, some (look s.params.current Param.farOpenMin)⟩ } }) ∧
    ((s.calls.batt c).state = .dropTiming →
      exec (goodReport c .batt false t) s = .next s ∧
      exec (goodReport c .batt true t) s = .next { s with calls := { s.calls with
        battQ := put s.calls.battQ c ⟨.present, none⟩ } } ∧
      ((s.calls.batt c).timer = some 0 → exec (.farOpenMinExpiry c t) s = .next (({ s with calls := { s.calls with
        battQ := put s.calls.battQ c ⟨.absent, none⟩ } }).deliver t c (some .farOpen))))

/-- R35: the completion of a frame writes the level it carried into the sent image; nothing else changes but the
transmitter's next pick and, when the images then agree, the end of STOPPING (R173). -/
def Obligations.FrameCompletionWritesTheSentImage : Prop :=
  ∀ (o : Order) (s : State), s.resetAsserted = false → s.link.flight = some o →
    ∃ t, exec .frameCompletion s = .next t ∧
      (∀ c, look t.link.sent c = match o with
        | .ringOff d => if c = d then ⟨false, (look s.link.sent c).loop⟩ else look s.link.sent c
        | .ringOn d => if c = d then ⟨true, (look s.link.sent c).loop⟩ else look s.link.sent c
        | .loopOpen d => if c = d then ⟨(look s.link.sent c).ring, false⟩ else look s.link.sent c
        | .loopClose d => if c = d then ⟨(look s.link.sent c).ring, true⟩ else look s.link.sent c
        | .clearAll => ⟨false, false⟩
        | .statusRequest => look s.link.sent c) ∧
      ((s.op = .stopping ∧ ∀ c, s.calls.levels c = look t.link.sent c) → t.op = .config) ∧
      (¬ (s.op = .stopping ∧ ∀ c, s.calls.levels c = look t.link.sent c) → t.op = s.op) ∧
      t = { s with
        op := t.op
        link := { s.link with
          sent := t.link.sent
          position := t.link.position
          clearPending := t.link.clearPending
          statusPending := t.link.statusPending
          flight := t.link.flight } }

/-- R34: what the transmitter picks at the completion of the frame `o`: a pending CLEAR_ALL; a pending STATUS_REQUEST,
but not after a STATUS_REQUEST while a channel differs; the next differing channel round-robin from the one after the
transmit position, its ring order before its loop order; and nothing when nothing waits. And what an idle transmitter
picks, in the same order, at the close of an event that leaves the call state `k`: that it picks once, when the event
has made all its changes, is a deduction of the model (log 23). -/
def Obligations.TransmitterPicksInOrder : Prop :=
  (∀ (k : Calls) (s : State), s.link.flight = none →
    (s.link.clearPending = true →
      (s.close k).link = { s.link with clearPending := false, flight := some .clearAll }) ∧
    (s.link.clearPending = false → s.link.statusPending = true →
      (s.close k).link = { s.link with statusPending := false, flight := some .statusRequest }) ∧
    (s.link.clearPending = false → s.link.statusPending = false →
      ((∀ c, k.levels c = look s.link.sent c) → (s.close k).link = s.link) ∧
      ∀ c, k.levels c ≠ look s.link.sent c →
        (∀ d : Chan, k.levels d ≠ look s.link.sent d →
          (c - s.link.position - 1).val ≤ (d - s.link.position - 1).val) →
        (s.close k).link = { s.link with
          position := c
          flight := some (
            if (k.levels c).ring ≠ (look s.link.sent c).ring then
              (if (k.levels c).ring then .ringOn c else .ringOff c)
            else if (k.levels c).loop then .loopClose c else .loopOpen c) })) ∧
  ∀ (o : Order) (s t : State), s.resetAsserted = false → s.link.flight = some o →
    exec .frameCompletion s = .next t →
    (s.link.clearPending = true → t.link.flight = some .clearAll ∧ t.link.clearPending = false ∧
      t.link.statusPending = s.link.statusPending ∧ t.link.position = s.link.position) ∧
    (s.link.clearPending = false → s.link.statusPending = true →
      (o ≠ .statusRequest ∨ ∀ c, s.calls.levels c = look t.link.sent c) →
      t.link.flight = some .statusRequest ∧ t.link.clearPending = false ∧ t.link.statusPending = false ∧
        t.link.position = s.link.position) ∧
    (s.link.clearPending = false →
      (s.link.statusPending = false ∨ o = .statusRequest ∧ ∃ c, s.calls.levels c ≠ look t.link.sent c) →
      t.link.clearPending = false ∧ t.link.statusPending = s.link.statusPending ∧
      ((∀ c, s.calls.levels c = look t.link.sent c) → t.link.flight = none ∧ t.link.position = s.link.position) ∧
      ∀ c, s.calls.levels c ≠ look t.link.sent c →
        (∀ d : Chan, s.calls.levels d ≠ look t.link.sent d →
          (c - s.link.position - 1).val ≤ (d - s.link.position - 1).val) →
        t.link.position = c ∧ t.link.flight = some (
          if (s.calls.levels c).ring ≠ (look t.link.sent c).ring then
            (if (s.calls.levels c).ring then .ringOn c else .ringOff c)
          else if (s.calls.levels c).loop then .loopClose c else .loopOpen c))

/-! ### Session events -/

/-- R3: what a record keeps and what returns to its reset value when it leaves its state for `st`. -/
def Obligations.LeavingAStateResetsItsFields : Prop :=
  ∀ (r : Session) (st : SState),
    (r.moved st).state = st ∧ (r.moved st).cls = r.cls ∧ (r.moved st).digitMode = r.digitMode ∧
    (r.moved st).serviceClass = r.serviceClass ∧ (r.moved st).flashMode = r.flashMode ∧
    (r.moved st).answerGroup = r.answerGroup ∧ (r.moved st).toneKind = r.toneKind ∧ (r.moved st).timer = none ∧
    (r.moved st).peer = (if st ∈ [.talk, .ringing, .seizing, .trunkwait] then r.peer else none) ∧
    (r.moved st).ringCount = (if st ∈ [.outring, .ringin] then r.ringCount else 0) ∧
    (r.moved st).phaseOn = (if st ∈ [.outring, .ringin] then r.phaseOn else false) ∧
    (r.moved st).cycles = (if st ∈ [.outring, .ringin] then r.cycles else 0) ∧
    (r.moved st).holds = (if st ∈ [.releasing, .idle] then none else r.holds) ∧
    (r.moved st).heldBy = (if st = .held then r.heldBy else none) ∧
    (r.moved st).receiver = (if st = .collecting then r.receiver else none) ∧
    (r.moved st).bridge = (if st = .confer then r.bridge else none) ∧
    (r.moved st).curGroup = (if st ∈ [.outring, .ringin, .queued, .trunkwait] then r.curGroup else none) ∧
    (r.moved st).tried = (if st ∈ [.outring, .ringin, .queued, .trunkwait] then r.tried else 0) ∧
    (r.moved st).digits = (if st ∈ [.collecting, .idle] then [] else r.digits)

/-- R13: in CONFIG and STOPPING the qualified events change no record, whether ST takes them at once or they are left in
flight, nor does the taking of a delivery that was in flight: of the call state only battery qualifiers move. R14, R15:
in RUN the taking of an event that means nothing in the record's state changes nothing, and the SEIZE of a BLOCKED
station raises SEIZE and nothing else. -/
def Obligations.QualifiedEventsAreIgnored : Prop :=
  (∀ (i : Instr) (c : Chan) (t : Taking) (s : State), s.op ≠ .run →
    (i ∈ [.seizeQualExpiry c t, .flashMaxExpiry c t, .pulseMakeEndExpiry c t, .burstTimerExpiry c t,
        .gapTimerExpiry c t, .battSeizeQualExpiry c t, .farOpenMinExpiry c t] ∨
      ∃ byte0 byte1 stop start, i = .conditionReport byte0 byte1 stop start t) →
    ∃ u, exec i s = .next u ∧ u.op = s.op ∧ u.calls = { s.calls with battQ := u.calls.battQ }) ∧
  (∀ (v : Delivery) (rest : List Delivery) (s : State), s.op ≠ .run → s.pending = [] → s.deliveries = v :: rest →
    ∃ u, step s = .next u ∧ u.op = s.op ∧ u.calls = s.calls) ∧
  ∀ (e : Env) (c : Chan) (k : Calls), e.op = .run →
    ((k.ses c).cls ≠ .station →
      (∀ ev ∈ [LineEvent.seize, .flash, .disconnect], k.take e c ev = k) ∧
        ∀ d, k.take e c (.pulseDigit d) = k) ∧
    ((k.ses c).cls ≠ .trunk → ∀ ev ∈ [LineEvent.ringBurst, .ringGone, .battOn, .farOpen], k.take e c ev = k) ∧
    ((k.ses c).state ∈ [.seized, .collecting, .hostwait, .outring, .trunkwait, .queued, .talk, .held, .confer,
        .toneout, .lockout, .releasing] → k.take e c .seize = k) ∧
    ((k.ses c).cls = .station → (k.ses c).state = .blocked → k.take e c .seize =
      { k with notices := put k.notices c (raisedIn e.mask [.seize] (look k.notices c)) }) ∧
    ((k.ses c).state ∈ [.idle, .blocked, .ringing, .releasing] → k.take e c .disconnect = k) ∧
    ((k.ses c).state ≠ .idle → k.take e c .ringBurst = k) ∧
    ((k.ses c).state ∈ [.idle, .blocked, .seizing, .talk, .held, .confer, .releasing] ∨
        (k.ses c).state = .hostwait ∧ (k.levels c).loop = true → k.take e c .ringGone = k) ∧
    ((k.ses c).state ≠ .seizing ∨ (∀ left, (k.ses c).timer ≠ some ⟨.seizeWait, left⟩) →
      k.take e c .battOn = k) ∧
    ((k.ses c).state ∈ [.idle, .blocked, .ringin, .queued, .releasing] ∨
        (k.ses c).state = .hostwait ∧ (k.levels c).loop = false → k.take e c .farOpen = k)

/-- R14, R54 and R68: the SEIZE of an IDLE station in RUN raises SEIZE and begins a collection, with the lowest-numbered
FREE receiver or, for digit mode PULSE, with none; with no receiver FREE the station waits in SEIZED. -/
def Obligations.SeizureBeginsDialling : Prop :=
  ∀ (c : Chan) (s : State), s.resetAsserted = false → s.op = .run → (s.calls.ses c).cls = .station →
    (s.calls.ses c).state = .idle → (look s.loopQ c).state = .seizeTiming →
    (look s.loopQ c).timer = some (.seizeQual, 0) → s.freshFor (.event c .seize) →
    ∃ k, exec (.seizeQualExpiry c .now) s = .next (({ s with
        loopQ := put s.loopQ c { look s.loopQ c with state := .offhook, pulses := 0, timer := none } }).close k) ∧
      (∀ d, d ≠ c → s.calls.sameAt d k) ∧ k.battQ = s.calls.battQ ∧ k.groups = s.calls.groups ∧
      k.bridges = s.calls.bridges ∧
      ((s.calls.ses c).digitMode = .pulse → s.calls.samePool k ∧
        k.stands c { (s.calls.ses c).moved .collecting with
            receiver := none, timer := s.timerOf .firstDigit Param.firstDigitTime }
          (.tone .dial) noOutput (s.recorded [.seize] c)) ∧
      ((s.calls.ses c).digitMode ≠ .pulse → ∀ r : RxIx, (s.calls.rx r).state = .free →
        (∀ q < r, (s.calls.rx q).state ≠ .free) →
        k.rxQueue = s.calls.rxQueue ∧
        k.receivers = put s.calls.receivers r ⟨(s.calls.rx r).service, .quiet, some c, none, none, none⟩ ∧
        k.stands c { (s.calls.ses c).moved .collecting with
            receiver := some r, timer := s.timerOf .firstDigit Param.firstDigitTime }
          (.tone .dial) noOutput (s.recorded [.seize] c)) ∧
      ((s.calls.ses c).digitMode ≠ .pulse → (∀ r, (s.calls.rx r).state ≠ .free) →
        k.receivers = s.calls.receivers ∧ k.rxQueue = s.calls.rxQueue ++ [c] ∧
        k.stands c { (s.calls.ses c).moved .seized with timer := s.timerOf .rxWait Param.rxWaitNotice }
          .none noOutput (s.recorded [.seize] c))

/-- R108, R27, R117 and R118: the SEIZE of a station in RINGING answers its originator's call; `k0` are the records when
the two talk and the other stations of the ringing set are cleared to IDLE. These then go, in ascending number, through
the line check and the free path, each as the one before it left the records (`State.takenUp`): one found off-hook is
taken as seized, one at rest may be placed for the head of a camp-on queue. With the lines at rest and no caller queued
nothing more happens. -/
def Obligations.AnswerJoinsTheParties : Prop :=
  ∀ (c o : Chan) (s : State) (unrung : List Chan), s.resetAsserted = false → s.op = .run →
    (s.calls.ses c).cls = .station → (s.calls.ses c).state = .ringing → (s.calls.ses c).peer = some o →
    ((s.calls.ses o).state = .outring ∨ (s.calls.ses o).state = .ringin) →
    (look s.loopQ c).state = .seizeTiming → (look s.loopQ c).timer = some (.seizeQual, 0) →
      s.freshFor (.event c .seize) →
    unrung = (List.finRange 32).filter (fun d => d ≠ c ∧ (s.calls.ses d).state = .ringing ∧
      (s.calls.ses d).peer = some o) →
    ∃ k0 k, exec (.seizeQualExpiry c .now) s = .next (({ s with
        loopQ := put s.loopQ c { look s.loopQ c with state := .offhook, pulses := 0, timer := none } }).close k) ∧
      k0.stands c { (s.calls.ses c).moved .talk with peer := some o } (.slot o) noOutput (s.noticesAt c) ∧
      k0.stands o { (s.calls.ses o).moved .talk with peer := some c } (.slot c)
        ⟨false, (s.calls.ses o).cls == .trunk⟩ (s.recorded [.answer] o) ∧
      (∀ d, d ≠ c → s.calls.ringsFor o d →
        k0.stands d ((s.calls.ses d).moved .idle) .none noOutput (s.noticesAt d)) ∧
      (∀ d, d ≠ c → d ≠ o → ¬ s.calls.ringsFor o d → s.calls.sameAt d k0) ∧
      k0.battQ = s.calls.battQ ∧ s.calls.samePool k0 ∧ k0.groups = s.calls.groups ∧ k0.bridges = s.calls.bridges ∧
      s.takenUp unrung k0 k ∧
      (s.noQueue → (∀ d, d ≠ c → s.calls.ringsFor o d → s.atRest d) → k = k0)

/-- R11, R16, R18, R20, R21, R27, R118, R134, R135, R151 and R152: a station that holds nobody hangs up or is dropped, a
trunk's far end opens or the trunk is dropped, from every state from which each may leave: `k0` are the records when the
channel has ended as its way of leaving says and what its state held is given up. From OUTRING and RINGIN the ringing
set then goes, in ascending number, through the line check and the free path (`State.takenUp`), which do nothing with
the lines at rest and no caller queued (`State.mayGiveUp`). -/
def Obligations.LeavingGivesUpWhatTheStateHeld : Prop :=
  ∀ (x : Leaving) (c : Chan) (s : State) (p : Params) (unrung : List Chan), x ≠ .transfer → x.ready s c p →
    x.leaves s c → (s.calls.ses c).holds = none → (s.calls.ses c).peer ≠ some c → (s.calls.ses c).heldBy ≠ some c →
    ((s.calls.ses c).state = .collecting → c ∉ s.calls.rxQueue) →
    unrung = (List.finRange 32).filter (fun d => (s.calls.ses c).state ∈ [.outring, .ringin] ∧
      (s.calls.ses d).state = .ringing ∧ (s.calls.ses d).peer = some c) →
    ∃ k0 k, exec (x.row c) s = .next (x.result s c none k) ∧ x.gone s c k0 ∧ (x.delivered s c).gaveUp c [c] k0 ∧
      (x.delivered s c).takenUp unrung k0 k ∧ (s.mayGiveUp c → k = k0)

/-- R16, R144, R145, R146 and R150: a station that holds a party hangs up, is dropped or is told to TRANSFER,
and the held party is handed on by the holder's state: in TALK to the holder's partner; in OUTRING, TRUNKWAIT and
QUEUED a station takes the originator's role whole, and a trunk is answered in HOSTWAIT while the role is given up; in
the other states the party is sent away or, by TRANSFER, parked in HOSTWAIT. TRANSFER is raised on a party that is
handed on or parked. The camp-on queues hold the QUEUED channels (R115), and a collecting holder waits for no receiver:
both are invariants of every step. -/
def Obligations.HeldPartiesAreHandedOn : Prop :=
  ∀ (x : Leaving) (c h : Chan) (s : State) (p : Params), x ≠ .farOpen → x.ready s c p → x.leaves s c →
    (s.calls.ses c).cls = .station → (s.calls.ses c).holds = some h → (s.calls.ses h).state = .held → h ≠ c →
    (s.calls.ses c).state ≠ .held → (s.calls.ses c).state ≠ .confer → (s.calls.ses c).peer ≠ some c →
    (s.calls.ses c).peer ≠ some h → ((s.calls.ses c).state = .talk → (s.calls.ses c).peer ≠ none) →
    ((s.calls.ses c).state = .trunkwait → (s.calls.ses c).peer ≠ none) →
    ((s.calls.ses c).state = .collecting → c ∉ s.calls.rxQueue) → s.calls.queuesLaw →
    ∃ k, exec (x.row c) s = .next (x.result s c (some h) k) ∧ x.gone s c k ∧
      (∀ q, (s.calls.ses c).state = .talk → (s.calls.ses c).peer = some q →
        s.calls.onlyAt [c, h, q] k ∧ s.talksWith h q [.transfer] k ∧ s.talksWith q h [] k ∧
          (k.ses h).holds = (s.calls.ses h).holds ∧ (k.ses q).holds = (s.calls.ses q).holds) ∧
      ((s.calls.ses h).cls ≠ .trunk → (s.calls.ses c).state = .outring →
        (∀ d, d ∉ [c, h] → ¬ s.calls.ringsFor c d → s.calls.sameAt d k) ∧ k.battQ = s.calls.battQ ∧
          s.calls.samePool k ∧ k.groups = s.calls.groups ∧ k.bridges = s.calls.bridges ∧
          (∀ d, s.calls.ringsFor c d → k.stands d { s.calls.ses d with peer := some h } (look s.calls.listen d)
            (s.calls.levels d) (s.noticesAt d)) ∧
          k.stands h { (s.calls.ses h).moved .outring with
              ringCount := (s.calls.ses c).ringCount, phaseOn := (s.calls.ses c).phaseOn
              cycles := (s.calls.ses c).cycles, timer := (s.calls.ses c).timer
              curGroup := (s.calls.ses c).curGroup, tried := (s.calls.ses c).tried }
            (.tone .ringback) noOutput (s.recorded [.transfer] h)) ∧
      (∀ t, (s.calls.ses h).cls ≠ .trunk → (s.calls.ses c).state = .trunkwait → (s.calls.ses c).peer = some t →
        s.calls.onlyAt [c, h, t] k ∧
          k.stands t { s.calls.ses t with peer := some h } (look s.calls.listen t) (s.calls.levels t) (s.noticesAt t) ∧
          k.stands h { (s.calls.ses h).moved .trunkwait with
              peer := some t, curGroup := (s.calls.ses c).curGroup, tried := (s.calls.ses c).tried }
            .none noOutput (s.recorded [.transfer] h)) ∧
      ((s.calls.ses h).cls = .station → (s.calls.ses c).state = .queued →
        s.othersStand [c, h] k ∧ k.battQ = s.calls.battQ ∧ s.calls.samePool k ∧ k.bridges = s.calls.bridges ∧
          (∀ g, k.group g = { s.calls.group g with
            queue := (s.calls.group g).queue.map fun y => if y = c then h else y }) ∧
          k.stands h { (s.calls.ses h).moved .queued with
              curGroup := (s.calls.ses c).curGroup, tried := (s.calls.ses c).tried, timer := (s.calls.ses c).timer }
            (.tone .ringback) noOutput (s.recorded [.transfer] h)) ∧
      ((s.calls.ses c).state ∈ [.seized, .collecting, .hostwait, .toneout, .lockout] ∨
          (s.calls.ses h).cls = .trunk ∧ (s.calls.ses c).state ∈ [.outring, .trunkwait, .queued] →
        s.mayGiveUp c → h ∉ s.calls.rxQueue →
        s.gaveUp c [c, h] k ∧
          ((s.calls.ses c).state ∈ [.outring, .trunkwait, .queued] ∨ x = .transfer → s.parked h [.transfer] k) ∧
          ((s.calls.ses c).state ∉ [.outring, .trunkwait, .queued] → x ≠ .transfer → s.sentAway h k))

/-- R12, R107, R144, R150, R151, R152: DROP takes a RINGING station to IDLE, with its originator's count one less; when
none is left to ring, the originator has NOANSWER, and hunts on in an untried no-answer group, which may ring the
dropped station again, or with none a station takes TONEOUT BUSY and a trunk HOSTWAIT (here with the line at rest and
no caller queued; that the dropped station is taken through stages 2 and 3 of R27 last is a deduction, log 13). DROP
is refused with BAD_STATE in IDLE, BLOCKED and RELEASING, and TRANSFER where nobody is held; TRANSFER of a station in
TALK that holds a party joins that party with its partner and leaves it in HOSTWAIT. -/
def Obligations.DropOfARingingStation : Prop :=
  (∀ (c : Chan) (s : State) (p : Params), s.taking .transfer p → s.op = .run → (look p 0).toNat = c →
    ((s.calls.ses c).holds = none → exec .transfer s = .next (s.mail (Mailbox.post .badState []))) ∧
    ∀ h q, (s.calls.ses c).cls = .station → (s.calls.ses c).state = .talk → (s.calls.ses c).peer = some q →
      (s.calls.ses c).holds = some h → (s.calls.ses h).state = .held → h ≠ c → q ≠ c → q ≠ h →
      ∃ k, exec .transfer s = .next (Leaving.transfer.result s c (some h) k) ∧ s.calls.onlyAt [c, h, q] k ∧
        s.talksWith h q [.transfer] k ∧ s.talksWith q h [] k ∧
        k.stands c { (s.calls.ses c).moved .hostwait with holds := none } .none noOutput (s.noticesAt c)) ∧
  ∀ (c : Chan) (s : State) (p : Params), s.taking .drop p → s.op = .run → (look p 0).toNat = c →
    ((s.calls.ses c).state ∈ [.idle, .blocked, .releasing] →
      exec .drop s = .next (s.mail (Mailbox.post .badState []))) ∧
    ∀ o, (s.calls.ses c).state = .ringing → (s.calls.ses c).peer = some o → o ≠ c → s.atRest c → s.noQueue →
      ∃ k, exec .drop s = .next ((s.close k).mail (Mailbox.post .ok
          [byteOf c, byteOf (k.ses c).state.code, 0xFF, 0xFF])) ∧
        (1 < (s.calls.ses o).ringCount ∨
            (s.calls.ses o).ringCount = 1 ∧ (∀ d, d ≠ c → ¬ s.calls.ringsFor o d) ∧
              (∀ g n, (s.calls.ses o).curGroup = some g → (s.calls.group g).noAnswer = some n →
                (s.calls.ses o).tried.getLsbD n = true) →
          s.calls.onlyAt [c, o] k ∧ k.stands c ((s.calls.ses c).moved .idle) .none noOutput (s.noticesAt c) ∧
          (1 < (s.calls.ses o).ringCount →
            k.stands o { s.calls.ses o with ringCount := (s.calls.ses o).ringCount - 1 } (look s.calls.listen o)
              (s.calls.levels o) (s.noticesAt o)) ∧
          ((s.calls.ses o).ringCount = 1 → (s.calls.ses o).cls ≠ .trunk →
            k.stands o { (s.calls.ses o).moved .toneout with
                toneKind := .busy, timer := s.timerOf .toneout Param.toneoutTime }
              (.tone .busy) noOutput (s.recorded [.noanswer] o)) ∧
          ((s.calls.ses o).ringCount = 1 → (s.calls.ses o).cls = .trunk →
            k.stands o ((s.calls.ses o).moved .hostwait) .none ⟨false, (s.calls.levels o).loop⟩
              (s.recorded [.noanswer] o))) ∧
        ∀ g n, (s.calls.ses o).ringCount = 1 → (∀ d, d ≠ c → ¬ s.calls.ringsFor o d) →
          (s.calls.ses o).curGroup = some g → (s.calls.group g).noAnswer = some n →
          (s.calls.ses o).tried.getLsbD n = false →
          ∃ k0 k1, s.calls.onlyAt [c, o] k0 ∧
            k0.stands c ((s.calls.ses c).moved .idle) .none noOutput (s.noticesAt c) ∧
            k0.stands o { s.calls.ses o with ringCount := 0, phaseOn := false, cycles := 0 } (look s.calls.listen o)
              (s.calls.levels o) (s.recorded [.noanswer] o) ∧
            k1 = k0.hunt s.env huntFuel n o ∧
            ((k1.ses c).state ≠ .idle ∨ (∀ f, (k1.group f).queue = []) → k = k1)

/-- R22 and R114: the RING_BURST of an IDLE trunk with no answer group takes it to HOSTWAIT with RINGIN; its RING_GONE
there, unanswered, or in QUEUED, or in RINGIN, abandons it with ABANDON; from RINGIN its ringing set returns to IDLE,
here with the lines at rest and no caller queued, so that stages 2 and 3 of R27 do nothing. -/
def Obligations.IncomingCallWaitsOrIsAbandoned : Prop :=
  ∀ (c : Chan) (s : State), s.resetAsserted = false → s.op = .run → (s.calls.ses c).cls = .trunk →
    ((s.calls.ses c).state = .idle → (s.calls.ses c).answerGroup = none →
      (look s.ringQ c).state = .burstTiming → (look s.ringQ c).burst = some 0 →
      s.freshFor (.event c .ringBurst) →
      ∃ k, exec (.burstTimerExpiry c .now) s = .next (({ s with
          ringQ := put s.ringQ c { look s.ringQ c with state := .inBurst, burst := none } }).close k) ∧
        s.calls.onlyAt [c] k ∧
        k.stands c ((s.calls.ses c).moved .hostwait) .none ⟨false, (s.calls.levels c).loop⟩
          (s.recorded [.ringin] c)) ∧
    ((look s.ringQ c).state = .gapTiming → (look s.ringQ c).inCheck = false → (look s.ringQ c).gap = some 0 →
      s.freshFor (.event c .ringGone) →
      ((s.calls.ses c).state = .ringin → s.mayGiveUp c →
        ∃ k, exec (.gapTimerExpiry c .now) s = .next (({ s with
            ringQ := put s.ringQ c { look s.ringQ c with state := .ringIdle, gap := none } }).close k) ∧
          s.gaveUp c [c] k ∧
          k.stands c { (s.calls.ses c).moved .releasing with timer := s.guardOf c } .none noOutput
            (s.recorded [.abandon] c)) ∧
      ((s.calls.ses c).state = .hostwait → (s.calls.levels c).loop = false →
        ∃ k, exec (.gapTimerExpiry c .now) s = .next (({ s with
            ringQ := put s.ringQ c { look s.ringQ c with state := .ringIdle, gap := none } }).close k) ∧
          s.calls.onlyAt [c] k ∧
          k.stands c { (s.calls.ses c).moved .releasing with timer := s.guardOf c } .none noOutput
            (s.recorded [.abandon] c)) ∧
      ((s.calls.ses c).state = .queued →
        ∃ k, exec (.gapTimerExpiry c .now) s = .next (({ s with
            ringQ := put s.ringQ c { look s.ringQ c with state := .ringIdle, gap := none } }).close k) ∧
          (∀ d, d ≠ c → s.calls.sameAt d k) ∧ k.battQ = s.calls.battQ ∧ s.calls.samePool k ∧
          k.bridges = s.calls.bridges ∧
          (∀ g, k.group g = { s.calls.group g with queue := (s.calls.group g).queue.filter (· ≠ c) }) ∧
          k.stands c { (s.calls.ses c).moved .releasing with timer := s.guardOf c } .none noOutput
            (s.recorded [.abandon] c)))

/-- R5, R55, R24, R57, R58 and R73: the RX_WAIT expiry raises RXWAIT and leaves the station waiting; the TONEOUT expiry
takes it to LOCKOUT; the FIRST_DIGIT expiry sends it to TONEOUT REORDER with no notice, and its receiver goes out of
service, to the head of the wait queue, or free. -/
def Obligations.WaitsAndTonesRunOut : Prop :=
  ∀ (c : Chan) (s : State), s.resetAsserted = false →
    ((s.calls.ses c).state = .seized → (s.calls.ses c).timer = some ⟨.rxWait, 0⟩ →
      ∃ k, exec (.rxWaitExpiry c) s = .next (s.close k) ∧ s.calls.onlyAt [c] k ∧
        k.stands c { s.calls.ses c with timer := none } (look s.calls.listen c) (s.calls.levels c)
          (s.recorded [.rxwait] c)) ∧
    ((s.calls.ses c).state = .toneout → (s.calls.ses c).timer = some ⟨.toneout, 0⟩ →
      ∃ k, exec (.toneoutExpiry c) s = .next (s.close k) ∧ s.calls.onlyAt [c] k ∧
        k.stands c ((s.calls.ses c).moved .lockout) .none noOutput (s.noticesAt c)) ∧
    ((s.calls.ses c).state = .collecting → (s.calls.ses c).timer = some ⟨.firstDigit, 0⟩ → c ∉ s.calls.rxQueue →
      ∃ k, exec (.firstDigitExpiry c) s = .next (s.close k) ∧ s.gaveUp c [c] k ∧
        k.stands c { (s.calls.ses c).moved .toneout with
            toneKind := .reorder, timer := s.timerOf .toneout Param.toneoutTime }
          (.tone .reorder) noOutput (s.noticesAt c))

/-- R26, R27, R114 and R117: at the GUARD expiry a channel enters IDLE by the stages of R27 (`State.entersIdle`): a
station found off-hook in RUN is taken as seized, a trunk found ringing as an incoming call, and a channel at rest is
placed for the head of the first camp-on queue that can use it. -/
def Obligations.GuardExpiryReturnsToIdle : Prop :=
  ∀ (c : Chan) (s : State), s.resetAsserted = false → (s.calls.ses c).state = .releasing →
    (s.calls.ses c).timer = some ⟨.guard, 0⟩ →
    ∃ k, exec (.guardExpiry c) s = .next (s.close k) ∧ s.entersIdle c k

/-! ### Digits and receivers -/

/-- R66, R69, R70, R81 to R89, R103 and R105: a digit that reaches its collection, by tone or by pulses, is appended
and ends dial tone, and the list is evaluated; the INTERDIGIT and the OVERLAP expiry evaluate it as it stands. WAIT
and WAIT_SHORT start their timer; VACANT, BARRED and REFER end the collection; an entry of action CHANNEL or EXTENSION
places the station on the channel it names, and one of action GROUP starts a hunt (statement HuntsChooseByMethod).
Each end returns the receiver; `k0` are the records after that return, when the placement attempt begins. -/
def Obligations.CollectionsGoByTheirVerdict : Prop :=
  ∀ (x : Asking) (c : Chan) (ds : List Digit) (s : State), s.resetAsserted = false → (s.calls.ses c).cls = .station →
    (s.calls.ses c).state = .collecting → c ∉ s.calls.rxQueue → x.ready s c → ds = x.list (s.calls.ses c).digits →
    ∃ k, exec (x.row c) s = .next ((x.delivered s c).close k) ∧
      (x.verdict s.plan ds = .wait → k = { (x.delivered s c).calls with
        listen := put s.calls.listen c .none
        sessions := put s.calls.sessions c { s.calls.ses c with
          digits := ds, timer := s.timerOf .interdigit Param.interdigitTime } }) ∧
      (x.verdict s.plan ds = .waitShort → k = { (x.delivered s c).calls with
        listen := put s.calls.listen c .none
        sessions := put s.calls.sessions c { s.calls.ses c with
          digits := ds, timer := s.timerOf .overlap Param.overlapTime } }) ∧
      (x.verdict s.plan ds ≠ .wait → x.verdict s.plan ds ≠ .waitShort →
        ∃ k0, (x.delivered s c).gaveUp c [c] k0 ∧
          k0.ses c = { s.calls.ses c with digits := ds, receiver := none, tried := 0, curGroup := none } ∧
          look k0.notices c = s.noticesAt c ∧
          (x.verdict s.plan ds = .vacant → s.reordered c ds [.vacant] k0 k) ∧
          ∀ i en, x.verdict s.plan ds = .complete i → look s.plan i = some en →
            ((s.calls.ses c).serviceClass < en.minClass ∨ en.action = .deny → s.reordered c ds [.barred] k0 k) ∧
            (en.minClass ≤ (s.calls.ses c).serviceClass →
              (en.action = .refer → k0.onlyAt [c] k ∧
                k.stands c { (s.calls.ses c).moved .hostwait with digits := ds } .none noOutput
                  (s.recorded [.refer] c)) ∧
              (∀ g, en.action = .group g → k = k0.hunt (x.delivered s c).env huntFuel g c) ∧
              ∀ n, en.names ds n →
                ((∀ d : Chan, n = d.val → (s.calls.ses d).cls = .unused ∨ (s.calls.ses d).state = .blocked ∨ d = c) →
                  s.reordered c ds [.vacant] k0 k) ∧
                ∀ d : Chan, n = d.val → (s.calls.ses d).cls ≠ .unused → (s.calls.ses d).state ≠ .blocked → d ≠ c →
                  d ∉ s.calls.rxQueue →
                  ((s.calls.ses d).state = .idle → k0.placedOn s.env c d k) ∧
                  ((s.calls.ses d).state ≠ .idle → k0.busied s.env c k)))

/-- R80, R81 and R83: the verdict of an evaluation, from the candidates exactly as long as the list and the longer
ones. -/
def Obligations.EvaluationGivesTheVerdict : Prop :=
  ∀ (plan : Vector (Option Entry) 128) (ds : List Digit),
    (evaluate plan ds = .vacant ↔ ∀ i en, ¬ candidate plan ds i en) ∧
    (evaluate plan ds = .wait ↔
      (∃ i en, candidate plan ds i en) ∧ ∀ i en, candidate plan ds i en → ds.length < en.pattern.length) ∧
    (evaluate plan ds = .waitShort ↔
      (∃ i en, candidate plan ds i en ∧ en.pattern.length = ds.length) ∧
        ∃ i en, candidate plan ds i en ∧ ds.length < en.pattern.length) ∧
    (∀ i, evaluate plan ds = .complete i ↔
      (∃ en, candidate plan ds i en) ∧ (∀ j en, candidate plan ds j en → en.pattern.length = ds.length) ∧
        ∀ j en, candidate plan ds j en → i ≤ j) ∧
    (evaluateAtExpiry plan ds = .vacant ↔ ∀ i en, candidate plan ds i en → en.pattern.length ≠ ds.length) ∧
    ∀ i, evaluateAtExpiry plan ds = .complete i ↔
      (∃ en, candidate plan ds i en ∧ en.pattern.length = ds.length) ∧
        ∀ j en, candidate plan ds j en → en.pattern.length = ds.length → i ≤ j

/-- R61, R62 and R63: what each indication for the channel assigned does at a receiver, by its state; an indication for
another slot is discarded; and the TONE_GAP_MIN expiry. -/
def Obligations.ReceiversFollowTheirTables : Prop :=
  ∀ (r : RxIx) (s : State), s.resetAsserted = false →
    (∀ slot ind, (s.calls.rx r).state = .free ∨ (s.calls.rx r).state = .offline ∨
        (s.calls.rx r).assigned ≠ some slot ∨ ind = (s.calls.rx r).indication →
      exec (.detectorIndication r ⟨slot, ind⟩) s = .next s) ∧
    (∀ slot d, (s.calls.rx r).assigned = some slot → some d ≠ (s.calls.rx r).indication →
      ((s.calls.rx r).state = .quiet ∨
          ((s.calls.rx r).state = .onset ∨ (s.calls.rx r).state = .digit ∨ (s.calls.rx r).state = .gap) ∧
            (s.calls.rx r).current ≠ some d →
        exec (.detectorIndication r ⟨slot, some d⟩) s = .next { s with calls := { s.calls with
          receivers := put s.calls.receivers r { s.calls.rx r with
            state := .onset, current := some d, indication := some d
            timer := some (.toneOnMin, look s.params.current Param.toneOnMin) } } }) ∧
      ((s.calls.rx r).state = .onset ∨ (s.calls.rx r).state = .digit → (s.calls.rx r).current = some d →
        exec (.detectorIndication r ⟨slot, some d⟩) s = .next { s with calls := { s.calls with
          receivers := put s.calls.receivers r { s.calls.rx r with indication := some d } } }) ∧
      ((s.calls.rx r).state = .gap → (s.calls.rx r).current = some d →
        exec (.detectorIndication r ⟨slot, some d⟩) s = .next { s with calls := { s.calls with
          receivers := put s.calls.receivers r { s.calls.rx r with
            state := .digit, indication := some d, timer := none } } })) ∧
    (∀ slot, (s.calls.rx r).assigned = some slot → (s.calls.rx r).indication ≠ none →
      ((s.calls.rx r).state = .quiet ∨ (s.calls.rx r).state = .gap →
        exec (.detectorIndication r ⟨slot, none⟩) s = .next { s with calls := { s.calls with
          receivers := put s.calls.receivers r { s.calls.rx r with indication := none } } }) ∧
      ((s.calls.rx r).state = .onset →
        exec (.detectorIndication r ⟨slot, none⟩) s = .next { s with calls := { s.calls with
          receivers := put s.calls.receivers r { s.calls.rx r with
            state := .quiet, current := none, indication := none, timer := none } } }) ∧
      ((s.calls.rx r).state = .digit →
        exec (.detectorIndication r ⟨slot, none⟩) s = .next { s with calls := { s.calls with
          receivers := put s.calls.receivers r { s.calls.rx r with
            state := .gap, indication := none
            timer := some (.toneGapMin, look s.params.current Param.toneGapMin) } } })) ∧
    ((s.calls.rx r).state = .gap → (s.calls.rx r).timer = some (.toneGapMin, 0) →
      exec (.toneGapMinExpiry r) s = .next { s with calls := { s.calls with
        receivers := put s.calls.receivers r { s.calls.rx r with
          state := .quiet, current := none, timer := none } } })

/-- R59: RECEIVER_SERVICE, by the receiver's service and state, and the six bytes of its result (section 8.7). -/
def Obligations.ReceiverServiceFollowsItsTable : Prop :=
  ∀ (r : RxIx) (s : State) (p : Params), s.taking .receiverService p → s.op ≠ .stopping →
    (look p 0).toNat = r → (look p 1 = 0 ∨ look p 1 = 1) →
    ∃ k, exec .receiverService s = .next ((s.close k).mail (Mailbox.post .ok (receiverResult k r))) ∧
      (look p 1 = 0 → (s.calls.rx r).state = .free →
        k = { s.calls with receivers := put s.calls.receivers r ⟨.out, .offline, none, none, none, none⟩ }) ∧
      (look p 1 = 0 → (s.calls.rx r).state ∉ [.free, .offline] →
        k = { s.calls with
          receivers := put s.calls.receivers r { s.calls.rx r with service := .withdrawPending } }) ∧
      (look p 1 = 0 → (s.calls.rx r).state = .offline → k = s.calls) ∧
      (look p 1 = 1 → (s.calls.rx r).state = .offline → s.calls.rxQueue = [] →
        k = { s.calls with receivers := put s.calls.receivers r ⟨.inService, .free, none, none, none, none⟩ }) ∧
      (∀ h q, look p 1 = 1 → (s.calls.rx r).state = .offline → s.calls.rxQueue = h :: q →
        k.receivers = put s.calls.receivers r ⟨.inService, .quiet, some h, none, none, none⟩ ∧ k.rxQueue = q ∧
        k.stands h { (s.calls.ses h).moved .collecting with
            receiver := some r, timer := s.timerOf .firstDigit Param.firstDigitTime }
          (.tone .dial) noOutput (s.noticesAt h) ∧
        (∀ d, d ≠ h → s.calls.sameAt d k) ∧ k.battQ = s.calls.battQ ∧ k.groups = s.calls.groups ∧
        k.bridges = s.calls.bridges) ∧
      (look p 1 = 1 → (s.calls.rx r).state ∉ [.free, .offline] →
        k = { s.calls with receivers := put s.calls.receivers r { s.calls.rx r with service := .inService } }) ∧
      (look p 1 = 1 → (s.calls.rx r).state = .free → k = s.calls) ∧
      ∀ x, x = k.rx r → receiverResult k r = [byteOf r, byteOf x.service.code, byteOf x.state.code, optByte x.assigned,
        match x.current with
        | some d => byteOf (digitCode d)
        | none => 0xFF,
        byteOf k.rxQueue.length]

/-! ### Placement -/

/-- R98 to R104, R110 and R116: who is eligible, and how a hunt in group `g` for `o` ends: the group joins those tried
and becomes the current one; by LINEAR or CIRCULAR the first eligible member in the order of the method is rung or
seized, by ALL every eligible station is rung; with no member eligible `o` joins the camp-on queue, or with the queue
full the hunt goes on in an untried overflow group, and else `o` has the busy outcome. -/
def Obligations.HuntsChooseByMethod : Prop :=
  (∀ (k : Calls) (method : Method) (o m : Chan), k.eligible method o m = true ↔
    ((k.ses m).cls = .station ∨ (k.ses m).cls = .trunk) ∧ (k.ses m).state = .idle ∧ m ≠ o ∧
      ¬ ((k.ses m).cls = .trunk ∧ method = .all) ∧ ¬ ((k.ses m).cls = .trunk ∧ (k.ses o).cls = .trunk)) ∧
  ∀ (e : Env) (g : GroupIx) (o : Chan) (k : Calls), (k.group g).members.Nodup → (k.ses o).ringCount = 0 →
    Calls.huntEnds e g o (fun _ => True)
      { k with sessions := put k.sessions o { k.ses o with
          tried := (k.ses o).tried ||| BitVec.twoPow 8 g, curGroup := some g } }
      (k.hunt e huntFuel g o)

/-- R99, R103 to R105, R107, R114, R116 and R153: what starts a hunt (statement HuntsChooseByMethod) and from which
records: PLACE on a group and the RING_BURST of an IDLE trunk with an answer group begin an attempt with no group
tried; the no-answer outcome and the QUEUE_WAIT expiry go on, with NOANSWER or QUEUEOUT, in the untried no-answer or
overflow group of the current group, and with none the QUEUE_WAIT expiry gives the busy outcome. PLACE on a channel
rings an IDLE station, seizes an IDLE trunk for a station, has the busy outcome on any other, and is refused on a
BLOCKED or UNUSED one. After a no-answer hunt the stations that had rung are taken through stages 2 and 3 of R27,
shown where they do nothing. -/
def Obligations.PlacementsStartHuntsOrGoDirect : Prop :=
  (∀ (c : Chan) (s : State) (p : Params), s.taking .place p → s.op = .run → (look p 0).toNat = c →
    ((s.calls.ses c).state ≠ .hostwait ∨ (s.calls.ses c).cls = .trunk ∧ (s.calls.levels c).loop = true →
      (look p 1 = 0 ∧ (look p 2).toNat < 8 ∨ look p 1 = 1 ∧ (look p 2).toNat < 32) →
      exec .place s = .next (s.mail (Mailbox.post .badState []))) ∧
    ((s.calls.ses c).state = .hostwait → ¬ ((s.calls.ses c).cls = .trunk ∧ (s.calls.levels c).loop = true) →
      ∀ k0, k0 = { s.calls with
          sessions := put s.calls.sessions c { s.calls.ses c with tried := 0, curGroup := none } } →
      (∀ g : GroupIx, look p 1 = 0 → (look p 2).toNat = g →
        ∃ k, exec .place s = .next ((s.close k).mail (Mailbox.post .ok
            [byteOf c, byteOf (k.ses c).state.code, 0xFF, 0xFF])) ∧ k = k0.hunt s.env huntFuel g c) ∧
      ∀ d : Chan, look p 1 = 1 → (look p 2).toNat = d →
        ((s.calls.ses d).state = .blocked ∨ (s.calls.ses d).cls = .unused ∨ d = c →
          exec .place s = .next (s.mail (Mailbox.post .badState []))) ∧
        ((s.calls.ses d).state ≠ .blocked → (s.calls.ses d).cls ≠ .unused → d ≠ c →
          ∃ k, exec .place s = .next ((s.close k).mail (Mailbox.post .ok
              [byteOf c, byteOf (k.ses c).state.code, 0xFF, 0xFF])) ∧
            ((s.calls.ses d).state = .idle → ((s.calls.ses d).cls = .trunk → (s.calls.ses c).cls ≠ .trunk) →
              k0.placedOn s.env c d k) ∧
            ((s.calls.ses d).state ≠ .idle ∨ (s.calls.ses d).cls = .trunk ∧ (s.calls.ses c).cls = .trunk →
              k0.busied s.env c k)))) ∧
  (∀ (c : Chan) (g : GroupIx) (s : State), s.resetAsserted = false → s.op = .run → (s.calls.ses c).cls = .trunk →
    (s.calls.ses c).state = .idle → (s.calls.ses c).answerGroup = some g → (look s.ringQ c).state = .burstTiming →
    (look s.ringQ c).burst = some 0 → s.freshFor (.event c .ringBurst) →
    ∃ k0 u, u = { s with ringQ := put s.ringQ c { look s.ringQ c with state := .inBurst, burst := none } } ∧
      exec (.burstTimerExpiry c .now) s = .next (u.close (k0.hunt u.env huntFuel g c)) ∧ s.calls.onlyAt [c] k0 ∧
      k0.stands c { s.calls.ses c with tried := 0, curGroup := none } (look s.calls.listen c) (s.calls.levels c)
        (s.recorded [.ringin] c)) ∧
  (∀ (c : Chan) (g n : GroupIx) (s : State), s.resetAsserted = false →
    ((s.calls.ses c).state = .outring ∨ (s.calls.ses c).state = .ringin) →
    (s.calls.ses c).timer = some ⟨.cadence, 0⟩ → (s.calls.ses c).phaseOn = false →
    look s.params.current Param.noAnswerCycles ≤ min ((s.calls.ses c).cycles + 1) 15 →
    (s.calls.ses c).curGroup = some g → (s.calls.group g).noAnswer = some n →
    (s.calls.ses c).tried.getLsbD n = false →
    ∃ k0 k, exec (.cadenceExpiry c) s = .next (s.close k) ∧
      (∀ d, d ≠ c → ¬ s.calls.ringsFor c d → s.calls.sameAt d k0) ∧
      (∀ d, s.calls.ringsFor c d → k0.stands d ((s.calls.ses d).moved .idle) .none noOutput (s.noticesAt d)) ∧
      k0.battQ = s.calls.battQ ∧ s.calls.samePool k0 ∧ k0.groups = s.calls.groups ∧ k0.bridges = s.calls.bridges ∧
      k0.stands c { s.calls.ses c with ringCount := 0, phaseOn := false, cycles := 0 } (look s.calls.listen c)
        (s.calls.levels c) (s.recorded [.noanswer] c) ∧
      ((∀ f, ((k0.hunt s.env huntFuel n c).group f).queue = []) → (∀ d, s.calls.ringsFor c d → s.atRest d) →
        k = k0.hunt s.env huntFuel n c)) ∧
  ∀ (c : Chan) (s : State), s.resetAsserted = false → (s.calls.ses c).state = .queued →
    (s.calls.ses c).timer = some ⟨.queueWait, 0⟩ →
    ∃ k0 k, exec (.queueWaitExpiry c) s = .next (s.close k) ∧ (∀ d, d ≠ c → s.calls.sameAt d k0) ∧
      k0.battQ = s.calls.battQ ∧ s.calls.samePool k0 ∧ k0.bridges = s.calls.bridges ∧
      (∀ g, k0.group g = { s.calls.group g with queue := (s.calls.group g).queue.filter (· ≠ c) }) ∧
      k0.stands c (s.calls.ses c) (look s.calls.listen c) (s.calls.levels c) (s.recorded [.queueout] c) ∧
      (∀ g h, (s.calls.ses c).curGroup = some g → (s.calls.group g).overflow = some h →
        (s.calls.ses c).tried.getLsbD h = false → k = k0.hunt s.env huntFuel h c) ∧
      ((∀ g h, (s.calls.ses c).curGroup = some g → (s.calls.group g).overflow = some h →
        (s.calls.ses c).tried.getLsbD h = true) → k0.busied s.env c k)

/-- R106, R107, R12 and R103: a CADENCE expiry turns the phase; after the last cycle an originator whose current group
names no untried no-answer group ends there: a station takes TONEOUT BUSY with NOANSWER while its ringing set returns to
IDLE (here with the lines at rest and no caller queued), and a trunk rings the same stations again. -/
def Obligations.CadenceTurnsThePhase : Prop :=
  ∀ (c : Chan) (s : State), s.resetAsserted = false →
    ((s.calls.ses c).state = .outring ∨ (s.calls.ses c).state = .ringin) →
    (s.calls.ses c).timer = some ⟨.cadence, 0⟩ →
    ((s.calls.ses c).phaseOn = true →
      ∃ k, exec (.cadenceExpiry c) s = .next (s.close k) ∧
        k = { s.calls with sessions := k.sessions, out := k.out } ∧
        k.ses c = { s.calls.ses c with phaseOn := false, timer := s.timerOf .cadence Param.ringOffTime } ∧
        (∀ d, d ≠ c → k.ses d = s.calls.ses d) ∧
        (∀ d, s.calls.ringsFor c d → k.levels d = noOutput) ∧
        ∀ d, ¬ s.calls.ringsFor c d → k.levels d = s.calls.levels d) ∧
    ((s.calls.ses c).phaseOn = false →
      min ((s.calls.ses c).cycles + 1) 15 < look s.params.current Param.noAnswerCycles →
      ∃ k, exec (.cadenceExpiry c) s = .next (s.close k) ∧
        k = { s.calls with sessions := k.sessions, out := k.out } ∧
        k.ses c = { s.calls.ses c with
          phaseOn := true, cycles := min ((s.calls.ses c).cycles + 1) 15
          timer := s.timerOf .cadence Param.ringOnTime } ∧
        (∀ d, d ≠ c → k.ses d = s.calls.ses d) ∧
        (∀ d, s.calls.ringsFor c d → k.levels d = ⟨true, false⟩) ∧
        ∀ d, ¬ s.calls.ringsFor c d → k.levels d = s.calls.levels d) ∧
    ((s.calls.ses c).phaseOn = false →
      look s.params.current Param.noAnswerCycles ≤ min ((s.calls.ses c).cycles + 1) 15 →
      (∀ g n, (s.calls.ses c).curGroup = some g → (s.calls.group g).noAnswer = some n →
        (s.calls.ses c).tried.getLsbD n = true) →
      ((s.calls.ses c).cls = .station → s.noQueue → (∀ d, s.calls.ringsFor c d → s.atRest d) →
        ∃ k, exec (.cadenceExpiry c) s = .next (s.close k) ∧ k.battQ = s.calls.battQ ∧ s.calls.samePool k ∧
          k.groups = s.calls.groups ∧ k.bridges = s.calls.bridges ∧
          k.stands c { (s.calls.ses c).moved .toneout with
              toneKind := .busy, timer := s.timerOf .toneout Param.toneoutTime }
            (.tone .busy) noOutput (s.recorded [.noanswer] c) ∧
          (∀ d, s.calls.ringsFor c d → k.stands d ((s.calls.ses d).moved .idle) .none noOutput (s.noticesAt d)) ∧
          ∀ d, d ≠ c → ¬ s.calls.ringsFor c d → s.calls.sameAt d k) ∧
      ((s.calls.ses c).cls = .trunk → (∃ d, s.calls.ringsFor c d) →
        ∃ k, exec (.cadenceExpiry c) s = .next (s.close k) ∧
          k = { s.calls with sessions := k.sessions, out := k.out, notices := k.notices } ∧
          k.ses c = { s.calls.ses c with
            phaseOn := true, cycles := 0, timer := s.timerOf .cadence Param.ringOnTime } ∧
          look k.notices c = s.recorded [.noanswer] c ∧ (∀ d, d ≠ c → look k.notices d = s.noticesAt d) ∧
          (∀ d, d ≠ c → k.ses d = s.calls.ses d) ∧
          (∀ d, s.calls.ringsFor c d → k.levels d = ⟨true, false⟩) ∧
          ∀ d, ¬ s.calls.ringsFor c d → k.levels d = s.calls.levels d))

/-- R110 and R111: BATT_ON starts the cut-through of a seizing trunk, and its expiry connects the trunk; the
SEIZE_WAIT expiry blocks the trunk with TRUNKFAULT, and its originator's hunt goes on in its current group, in the
method LINEAR with the members after the trunk, in CIRCULAR and ALL with all of them, without adding the group to
those tried again; a direct placement has the busy outcome. `k0` are the records with the trunk blocked. -/
def Obligations.TrunkSeizureSucceedsOrFails : Prop :=
  ∀ (t o : Chan) (s : State), s.resetAsserted = false → (s.calls.ses t).state = .seizing →
    (s.calls.ses t).peer = some o → o ≠ t →
    (s.op = .run → (s.calls.ses t).cls = .trunk → s.calls.batt t = ⟨.timing, some 0⟩ → s.freshFor (.event t .battOn) →
      (∃ left, (s.calls.ses t).timer = some ⟨.seizeWait, left⟩) →
      ∃ k, exec (.battSeizeQualExpiry t .now) s = .next (({ s with calls := { s.calls with
          battQ := put s.calls.battQ t ⟨.present, none⟩ } }).close k) ∧
        k = { s.calls with
          battQ := put s.calls.battQ t ⟨.present, none⟩
          sessions := put s.calls.sessions t
            { s.calls.ses t with timer := s.timerOf .cutThrough Param.cutThroughDelay } }) ∧
    ((s.calls.ses t).timer = some ⟨.cutThrough, 0⟩ →
      ∃ k, exec (.cutThroughExpiry t) s = .next (s.close k) ∧ s.calls.onlyAt [t, o] k ∧
        k.stands t { (s.calls.ses t).moved .talk with peer := some o } (.slot o)
          ⟨false, (s.calls.ses t).cls == .trunk⟩ (s.noticesAt t) ∧
        k.stands o { (s.calls.ses o).moved .talk with peer := some t } (.slot t)
          ⟨false, (s.calls.ses o).cls == .trunk⟩ (s.noticesAt o)) ∧
    ((s.calls.ses t).timer = some ⟨.seizeWait, 0⟩ →
      ∃ k0 k, exec (.seizeWaitExpiry t) s = .next (s.close k) ∧ s.calls.onlyAt [t] k0 ∧
        k0.stands t ((s.calls.ses t).moved .blocked) .none noOutput (s.recorded [.trunkfault] t) ∧
        ((s.calls.ses o).curGroup = none → k0.busied s.env o k) ∧
        ∀ g, (s.calls.ses o).curGroup = some g → (s.calls.group g).members.Nodup → (s.calls.ses o).ringCount = 0 →
          k0.huntEnds s.env g o
            (fun m => (s.calls.group g).method = .linear → t ∈ (s.calls.group g).members →
              (s.calls.group g).members.idxOf t < (s.calls.group g).members.idxOf m) k)

/-! ### The highway, tones and bridges -/

/-- R122, R124, R125, R126 and R129: each slot of PCMO carries the sample of the source held when the slot begins
(`State.fills`): silence for an UNUSED channel or no source, the sample last received of a channel, the sum of a
bridge's other members, a tone of its own frequencies or silence. A frame runs to its last slot, the 32nd or the one
where the clocks stop, and may stand before that in the middle of slot `c`, with the later slots unfilled; a slot that
ends gives way to the next, which takes what its source is by then; no slot after the last is driven or received, and
with no slot being sent PCMO is at high impedance. A tone generator whose step has run out goes to
its next. The samples and their coding are free values (log 9); how a frame is cut into steps is the model's choice
(log 10); that a TONE_STEP_END whose step has not run out changes nothing is a deduction (log 3). -/
def Obligations.HighwayFramesAndToneSteps : Prop :=
  (∀ (slots : Vector Byte 32) (clocks : Clocking) (s : State), s.resetAsserted = false →
    ∃ t, exec (.frameSync slots clocks) s = .next t ∧ t = { s with highway := t.highway } ∧
      t.highway.frames = s.highway.frames + 1 ∧ t.highway.arriving = slots ∧ t.highway.last = clocks.last ∧
      (∀ c, clocks.pause = some c → c ≤ clocks.last →
        t.highway.slot = some c ∧
        (∀ d, look t.highway.received d = if d < c then look slots d else look s.highway.received d) ∧
        (∀ d ≤ c, ∃ v, look t.highway.carried d = some v ∧ s.fills slots (s.highway.frames + 1) d v) ∧
        ∀ d, c < d → look t.highway.carried d = look s.highway.carried d) ∧
      ((∀ c, clocks.pause = some c → clocks.last < c) →
        t.highway.slot = none ∧
        (∀ d, look t.highway.received d = if d ≤ clocks.last then look slots d else look s.highway.received d) ∧
        (∀ d ≤ clocks.last, ∃ v, look t.highway.carried d = some v ∧ s.fills slots (s.highway.frames + 1) d v) ∧
        ∀ d, clocks.last < d → look t.highway.carried d = look s.highway.carried d)) ∧
  (∀ (c : Chan) (s : State), s.pending = [] → s.resetAsserted = false → s.deliveries = [] → s.highway.slot = some c →
    (s.highway.last ≤ c → step s = .next { s with highway := { s.highway with
      received := put s.highway.received c (look s.highway.arriving c), slot := none } }) ∧
    (c < s.highway.last → ∃ t v, step s = .next t ∧ s.fills s.highway.arriving s.highway.frames (c + 1) v ∧
      (∀ d, look t.highway.received d = if d ≤ c then look s.highway.arriving d else look s.highway.received d) ∧
      t = { s with highway := { s.highway with
        received := t.highway.received, slot := some (c + 1)
        carried := put s.highway.carried (c + 1) (some v) } })) ∧
  (∀ s : State, (s.highway.slot = none → s.pcmo = none) ∧
    ∀ c, s.highway.slot = some c → s.pcmo = look s.highway.carried c) ∧
  ∀ (x : Tone) (s : State), s.resetAsserted = false →
    (∀ (before after : ToneGen), look s.tones (toneIx x) = before →
      (x, before, after) ∈ ([(.ringback, ⟨0, some 0⟩, ⟨1, some 3000⟩), (.ringback, ⟨1, some 0⟩, ⟨0, some 1000⟩),
        (.busy, ⟨0, some 0⟩, ⟨1, some 500⟩), (.busy, ⟨1, some 0⟩, ⟨0, some 500⟩),
        (.reorder, ⟨0, some 0⟩, ⟨1, some 250⟩), (.reorder, ⟨1, some 0⟩, ⟨0, some 250⟩),
        (.hold, ⟨0, some 0⟩, ⟨1, some 200⟩), (.hold, ⟨1, some 0⟩, ⟨2, some 200⟩),
        (.hold, ⟨2, some 0⟩, ⟨3, some 4400⟩), (.hold, ⟨3, some 0⟩, ⟨0, some 200⟩)] : List (Tone × ToneGen × ToneGen)) →
      exec (.toneStepEnd x) s = .next { s with tones := put s.tones (toneIx x) after }) ∧
    ((look s.tones (toneIx x)).left ≠ some 0 → exec (.toneStepEnd x) s = .next s)

/-- R130 and R131: CONFERENCE joins a station in TALK, its held party and its peer in the lowest-numbered free bridge;
it is refused with BAD_STATE when the parties are not so, and with NO_RESOURCE when no bridge is free. R132 and R133:
JOIN adds a channel in HOSTWAIT or HELD to a bridge of three; its refusals in their order. -/
def Obligations.ConferencesFormAndGrow : Prop :=
  (∀ (c : Chan) (s : State) (p : Params), s.taking .conference p → s.op = .run → (look p 0).toNat = c →
    ((s.calls.ses c).state ≠ .talk ∨ (s.calls.ses c).holds = none ∨
        (∃ x, (s.calls.ses c).peer = some x ∧ (s.calls.ses x).holds ≠ none) →
      exec .conference s = .next (s.mail (Mailbox.post .badState []))) ∧
    ∀ h x, (s.calls.ses c).state = .talk → (s.calls.ses c).holds = some h → (s.calls.ses c).peer = some x →
      (s.calls.ses x).holds = none →
      ((∀ b, s.calls.members b ≠ []) → exec .conference s = .next (s.mail (Mailbox.post .noResource []))) ∧
      ∀ b : BridgeIx, c ≠ h → h ≠ x → x ≠ c → s.calls.members b = [] → (∀ a < b, s.calls.members a ≠ []) →
        ∃ k, exec .conference s = .next ((s.close k).mail (Mailbox.post .ok [byteOf b, 3])) ∧
          (∀ d, d ≠ c → d ≠ h → d ≠ x → s.calls.sameAt d k) ∧ k.battQ = s.calls.battQ ∧ s.calls.samePool k ∧
          k.groups = s.calls.groups ∧ k.members b = [c, h, x] ∧ (∀ a, a ≠ b → k.members a = s.calls.members a) ∧
          k.stands c { (s.calls.ses c).moved .confer with holds := none, bridge := some b } (.bridge b)
            ⟨false, (s.calls.ses c).cls == .trunk⟩ (s.noticesAt c) ∧
          k.stands h { (s.calls.ses h).moved .confer with bridge := some b } (.bridge b)
            ⟨false, (s.calls.ses h).cls == .trunk⟩ (s.noticesAt h) ∧
          k.stands x { (s.calls.ses x).moved .confer with bridge := some b } (.bridge b)
            ⟨false, (s.calls.ses x).cls == .trunk⟩ (s.noticesAt x)) ∧
  ∀ (b : BridgeIx) (c : Chan) (s : State) (p : Params), s.taking .join p → s.op = .run → (look p 0).toNat = b →
    (look p 1).toNat = c →
    (4 ≤ (s.calls.members b).length → exec .join s = .next (s.mail (Mailbox.post .noResource []))) ∧
    (s.calls.members b = [] → exec .join s = .next (s.mail (Mailbox.post .badState []))) ∧
    ((s.calls.members b).length < 4 →
      ((s.calls.ses c).state ≠ .hostwait ∧ (s.calls.ses c).state ≠ .held ∨
        (s.calls.ses c).state = .hostwait ∧ (s.calls.ses c).cls = .station ∧ (s.calls.ses c).holds ≠ none) →
      exec .join s = .next (s.mail (Mailbox.post .badState []))) ∧
    ((s.calls.members b).length = 3 → (s.calls.ses c).state = .hostwait →
      ((s.calls.ses c).cls = .station → (s.calls.ses c).holds = none) →
      ∃ k, exec .join s = .next ((s.close k).mail (Mailbox.post .ok [byteOf b, 4])) ∧
        (∀ d, d ≠ c → s.calls.sameAt d k) ∧ k.battQ = s.calls.battQ ∧ s.calls.samePool k ∧
        k.groups = s.calls.groups ∧ k.members b = s.calls.members b ++ [c] ∧
        (∀ a, a ≠ b → k.members a = s.calls.members a) ∧
        k.stands c { (s.calls.ses c).moved .confer with bridge := some b } (.bridge b)
          ⟨false, (s.calls.ses c).cls == .trunk⟩ (s.noticesAt c)) ∧
    ∀ h, (s.calls.members b).length = 3 → (s.calls.ses c).state = .held → (s.calls.ses c).heldBy = some h → h ≠ c →
      ∃ k, exec .join s = .next ((s.close k).mail (Mailbox.post .ok [byteOf b, 4])) ∧
        (∀ d, d ≠ c → d ≠ h → s.calls.sameAt d k) ∧ k.battQ = s.calls.battQ ∧ s.calls.samePool k ∧
        k.groups = s.calls.groups ∧ k.members b = s.calls.members b ++ [c] ∧
        (∀ a, a ≠ b → k.members a = s.calls.members a) ∧
        k.stands h { s.calls.ses h with holds := none } (look s.calls.listen h) (s.calls.levels h) (s.noticesAt h) ∧
        k.stands c { (s.calls.ses c).moved .confer with bridge := some b } (.bridge b)
          ⟨false, (s.calls.ses c).cls == .trunk⟩ (s.noticesAt c)

/-! ### Session commands -/

/-- R139, R140 and R148: HOLD, and the FLASH of a station with flash mode CONSULT, put the peer of a station in TALK
on hold and start a collection: with no receiver for digit mode PULSE, with the lowest-numbered FREE receiver for TONE
and EITHER, and with none FREE the station waits in SEIZED. HOLD is refused with BAD_STATE where the two parties are
not so, and there, or with flash mode NOTICE, a flash raises FLASH and nothing else. -/
def Obligations.ConsultationsStart : Prop :=
  ∀ (q : Request) (c : Chan) (s : State) (p : Params), q.ready s .hold c p →
    ((s.calls.ses c).cls ≠ .station ∨ (s.calls.ses c).state ≠ .talk ∨ (s.calls.ses c).holds ≠ none ∨
        (∃ x, (s.calls.ses c).peer = some x ∧ (s.calls.ses x).holds ≠ none) →
      q = .command → exec .hold s = .next (s.mail (Mailbox.post .badState []))) ∧
    ((s.calls.ses c).flashMode = .notice ∨
        (s.calls.ses c).holds = none ∧ ((s.calls.ses c).state ≠ .talk ∨
          ∃ x, (s.calls.ses c).peer = some x ∧ (s.calls.ses x).holds ≠ none) →
      q = .flash → ∃ k, exec (q.row .hold c) s = .next ((q.delivered s c).close k) ∧ s.calls.onlyAt [c] k ∧
        k.stands c (s.calls.ses c) (look s.calls.listen c) (s.calls.levels c) (s.recorded [.flash] c)) ∧
    ∀ x, (s.calls.ses c).cls = .station → (s.calls.ses c).state = .talk → (s.calls.ses c).holds = none →
      (s.calls.ses c).peer = some x → (s.calls.ses x).holds = none → x ≠ c →
      (q = .flash → (s.calls.ses c).flashMode = .consult) →
      ∃ k, exec (q.row .hold c) s = .next (q.result s c x k) ∧
        (∀ d, d ≠ c → d ≠ x → s.calls.sameAt d k) ∧ k.battQ = s.calls.battQ ∧ k.groups = s.calls.groups ∧
        k.bridges = s.calls.bridges ∧
        k.stands x { (s.calls.ses x).moved .held with heldBy := some c } (.tone .hold)
          ⟨false, (s.calls.ses x).cls == .trunk⟩ (s.noticesAt x) ∧
        ((s.calls.ses c).digitMode = .pulse → s.calls.samePool k ∧
          k.stands c { (s.calls.ses c).moved .collecting with
              holds := some x, receiver := none, timer := s.timerOf .firstDigit Param.firstDigitTime }
            (.tone .dial) noOutput (s.recorded q.notices c)) ∧
        ((s.calls.ses c).digitMode ≠ .pulse → ∀ r : RxIx, (s.calls.rx r).state = .free →
          (∀ b < r, (s.calls.rx b).state ≠ .free) →
          k.rxQueue = s.calls.rxQueue ∧
          k.receivers = put s.calls.receivers r ⟨(s.calls.rx r).service, .quiet, some c, none, none, none⟩ ∧
          k.stands c { (s.calls.ses c).moved .collecting with
              holds := some x, receiver := some r, timer := s.timerOf .firstDigit Param.firstDigitTime }
            (.tone .dial) noOutput (s.recorded q.notices c)) ∧
        ((s.calls.ses c).digitMode ≠ .pulse → (∀ r, (s.calls.rx r).state ≠ .free) →
          k.receivers = s.calls.receivers ∧ k.rxQueue = s.calls.rxQueue ++ [c] ∧
          k.stands c { (s.calls.ses c).moved .seized with
              holds := some x, timer := s.timerOf .rxWait Param.rxWaitNotice }
            .none noOutput (s.recorded q.notices c))

/-- R139, R141, R142 and R149: RETRIEVE, and the FLASH of a station with flash mode CONSULT, return a holder to its
held party from every state of a holder, and what the holder's state held is given up; from OUTRING the ringing set
returns to IDLE, here with the lines at rest and no caller queued. RETRIEVE with nobody held is refused with
BAD_STATE. -/
def Obligations.HoldersReturnToTheHeldParty : Prop :=
  ∀ (q : Request) (c : Chan) (s : State) (p : Params), q.ready s .retrieve c p →
    ((s.calls.ses c).holds = none → q = .command →
      exec .retrieve s = .next (s.mail (Mailbox.post .badState []))) ∧
    ∀ h, (s.calls.ses c).holds = some h → h ≠ c → (s.calls.ses h).state = .held → h ∉ s.calls.rxQueue →
      (s.calls.ses c).state ∈
        [.seized, .collecting, .hostwait, .outring, .trunkwait, .queued, .talk, .toneout, .lockout] →
      (s.calls.ses c).peer ≠ some h → s.mayGiveUp c → (q = .flash → (s.calls.ses c).flashMode = .consult) →
      ∃ k, exec (q.row .retrieve c) s = .next (q.result s c h k) ∧ s.gaveUp c [c, h] k ∧
        k.stands c { (s.calls.ses c).moved .talk with holds := none, peer := some h } (.slot h)
          ⟨false, (s.calls.ses c).cls == .trunk⟩ (s.recorded q.notices c) ∧
        k.stands h { (s.calls.ses h).moved .talk with peer := some c } (.slot c)
          ⟨false, (s.calls.ses h).cls == .trunk⟩ (s.noticesAt h)

/-- R154 and R155: CONNECT joins two channels in HOSTWAIT in TALK, answering an unanswered trunk; SET_LISTEN sets the
source a channel hears in HOSTWAIT, but not that of an unanswered trunk. -/
def Obligations.HostwaitChannelsAreConnectedOrGivenATone : Prop :=
  (∀ (a b : Chan) (s : State) (p : Params), s.taking .connect p → s.op = .run → (look p 0).toNat = a →
    (look p 1).toNat = b → a ≠ b →
    ((s.calls.ses a).state ≠ .hostwait ∨ (s.calls.ses b).state ≠ .hostwait →
      exec .connect s = .next (s.mail (Mailbox.post .badState []))) ∧
    ((s.calls.ses a).state = .hostwait → (s.calls.ses b).state = .hostwait →
      ∃ k, exec .connect s = .next ((s.close k).mail (Mailbox.post .ok
          [byteOf a, byteOf SState.talk.code, byteOf b, byteOf SState.talk.code])) ∧ s.calls.onlyAt [a, b] k ∧
        k.stands a { (s.calls.ses a).moved .talk with peer := some b } (.slot b)
          ⟨false, (s.calls.ses a).cls == .trunk⟩ (s.noticesAt a) ∧
        k.stands b { (s.calls.ses b).moved .talk with peer := some a } (.slot a)
          ⟨false, (s.calls.ses b).cls == .trunk⟩ (s.noticesAt b))) ∧
  ∀ (c : Chan) (l : Listen) (s : State) (p : Params), s.taking .setListen p → s.op = .run → (look p 0).toNat = c →
    (look p 1 = 0 ∧ l = .none ∨ look p 1 = 1 ∧ ∃ x, (look p 2).toNat = toneIx x ∧ l = .tone x) →
    ((s.calls.ses c).state ≠ .hostwait ∨ (s.calls.ses c).cls = .trunk ∧ (s.calls.levels c).loop = false →
      exec .setListen s = .next (s.mail (Mailbox.post .badState []))) ∧
    ((s.calls.ses c).state = .hostwait → ((s.calls.ses c).cls = .trunk → (s.calls.levels c).loop = true) →
      exec .setListen s = .next { s with
        calls := { s.calls with listen := put s.calls.listen c l }
        mbox := s.mbox.post .ok
          [byteOf c, byteOf SState.hostwait.code, 0xFF, 0xFF, look p 1, if look p 1 = 0 then 0 else look p 2] })

/-- R7, R156 and R157: CONFIGURE_CHANNEL replaces the five fields, with new qualifiers and a STATUS_REQUEST on a
change of class, and is refused in RUN on a channel in a call; BLOCK takes an IDLE channel to BLOCKED and RESTORE
brings it back by the stages of R27 (`State.entersIdle`), each refused in any other state. The model's choices
here: the open start and the threshold copies of a new loop qualifier are 0 (log 7), a change of class gives the
channel all three qualifiers anew, whatever the classes (log 20), and leaves in flight the events of the old ones (log
1), and BLOCK and RESTORE are accepted in CONFIG after
STOP (log 24). -/
def Obligations.ChannelsAreConfiguredBlockedAndRestored : Prop :=
  (∀ (a : ConfigArgs) (s : State) (p : Params), s.taking .configureChannel p → s.op ≠ .stopping →
    (look p 0).toNat = a.chan → (look p 1).toNat = a.cls.code → (look p 2).toNat = a.digitMode.code →
    (look p 3).toNat = a.serviceClass → (look p 4).toNat = a.flashMode.code → look p 5 = optByte a.answerGroup →
    (s.op = .run → (s.calls.ses a.chan).state ≠ .idle → (s.calls.ses a.chan).state ≠ .blocked →
      exec .configureChannel s = .next (s.mail (Mailbox.post .badState []))) ∧
    ((s.op = .config ∨ (s.calls.ses a.chan).state = .idle ∨ (s.calls.ses a.chan).state = .blocked) →
      ∃ u, u = { s.calls.ses a.chan with
          cls := a.cls, digitMode := a.digitMode, serviceClass := a.serviceClass, flashMode := a.flashMode
          answerGroup := a.answerGroup } ∧
        (a.cls = (s.calls.ses a.chan).cls → exec .configureChannel s = .next { s with
          calls := { s.calls with sessions := put s.calls.sessions a.chan u }
          mbox := s.mbox.post .ok [] }) ∧
        (a.cls ≠ (s.calls.ses a.chan).cls → s.link.flight.isSome = true → exec .configureChannel s = .next { s with
          calls := { s.calls with
            sessions := put s.calls.sessions a.chan u
            out := put s.calls.out a.chan noOutput
            battQ := put s.calls.battQ a.chan ⟨.absent, none⟩ }
          loopQ := put s.loopQ a.chan LoopQual.reset
          ringQ := put s.ringQ a.chan ⟨.ringIdle, none, none, false⟩
          link := { s.link with statusPending := true }
          mbox := s.mbox.post .ok [] }) ∧
        (a.cls ≠ (s.calls.ses a.chan).cls → s.link.flight = none → s.link.clearPending = false →
          exec .configureChannel s = .next { s with
            calls := { s.calls with
              sessions := put s.calls.sessions a.chan u
              out := put s.calls.out a.chan noOutput
              battQ := put s.calls.battQ a.chan ⟨.absent, none⟩ }
            loopQ := put s.loopQ a.chan LoopQual.reset
            ringQ := put s.ringQ a.chan ⟨.ringIdle, none, none, false⟩
            link := { s.link with statusPending := false, flight := some .statusRequest }
            mbox := s.mbox.post .ok [] }))) ∧
  (∀ (c : Chan) (s : State) (p : Params), s.taking .block p → s.op ≠ .stopping → (look p 0).toNat = c →
    ((s.calls.ses c).state ≠ .idle → exec .block s = .next (s.mail (Mailbox.post .badState []))) ∧
    ((s.calls.ses c).state = .idle →
      ∃ k, exec .block s = .next ((s.close k).mail (Mailbox.post .ok
          [byteOf c, byteOf SState.blocked.code, 0xFF, 0xFF])) ∧ s.calls.onlyAt [c] k ∧
        k.stands c ((s.calls.ses c).moved .blocked) .none noOutput (s.noticesAt c))) ∧
  ∀ (c : Chan) (s : State) (p : Params), s.taking .restore p → s.op ≠ .stopping → (look p 0).toNat = c →
    ((s.calls.ses c).state ≠ .blocked → exec .restore s = .next (s.mail (Mailbox.post .badState []))) ∧
    ((s.calls.ses c).state = .blocked →
      ∃ k, exec .restore s = .next ((s.close k).mail (Mailbox.post .ok
          [byteOf c, byteOf (k.ses c).state.code, 0xFF, 0xFF])) ∧ s.entersIdle c k)

/-- R92, R97, R137, R158, R177 and R178: the reading commands are taken in every operating state, give what they read,
and change nothing but the mailbox; the bytes of the session record, the group record and the other results are those
of section 8.7, and the codes in them those of its table. -/
def Obligations.ReadingCommandsChangeNothing : Prop :=
  (∀ (c : Chan) (s : State) (p : Params) (r : Session) (left : Nat), s.taking .readSession p → (look p 0).toNat = c →
    r = s.calls.ses c → left = (match r.timer with | some t => t.left | none => 0) →
    ∃ b : List Byte, exec .readSession s = .next (s.mail (Mailbox.post .ok b)) ∧
      b[0]? = some (byteOf c) ∧
      (∃ v, b[1]? = some v ∧ v.toNat % 4 = r.cls.code ∧ v.toNat / 4 % 4 = r.digitMode.code ∧
        v.toNat / 16 % 4 = r.serviceClass.val ∧ v.toNat / 64 % 2 = r.flashMode.code ∧ v.toNat / 128 = r.toneKind.code) ∧
      b[2]? = some (optByte r.answerGroup) ∧ b[3]? = some (byteOf r.state.code) ∧ b[4]? = some (optByte r.peer) ∧
      b[5]? = some (optByte r.holds) ∧ b[6]? = some (optByte r.heldBy) ∧ b[7]? = some (optByte r.receiver) ∧
      b[8]? = some (optByte r.bridge) ∧ b[9]? = some (optByte r.curGroup) ∧ b[10]? = some r.tried ∧
      b[11]? = some (byteOf r.ringCount) ∧
      (∃ v, b[12]? = some v ∧ v.toNat % 16 = r.cycles % 16 ∧ v.toNat / 16 = if r.phaseOn then 8 else 0) ∧
      b[13]? = some (byteOf (timerCode r.timer)) ∧ b[14]? = some (byteOf left) ∧ b[15]? = some (byteOf (left / 256)) ∧
      b[16]? = some (byteOf (left / 65536 % 4)) ∧
      b[17]? = some (byteOf (look s.calls.listen c).code.1) ∧ b[18]? = some (byteOf (look s.calls.listen c).code.2) ∧
      (∃ v, b[19]? = some v ∧ v.toNat < 16 ∧ v.getLsbD 0 = (s.calls.levels c).ring ∧
        v.getLsbD 1 = (s.calls.levels c).loop ∧ v.getLsbD 2 = (look s.link.sent c).ring ∧
        v.getLsbD 3 = (look s.link.sent c).loop) ∧
      (r.cls = .station →
        b[20]? = some (byteOf (look s.loopQ c).state.code) ∧ b[21]? = some (byteOf (look s.loopQ c).pulses)) ∧
      (r.cls = .trunk →
        b[20]? = some (byteOf (look s.ringQ c).state.code) ∧ b[21]? = some (byteOf (s.calls.batt c).state.code)) ∧
      (r.cls = .unused → b[20]? = some 0xFF ∧ b[21]? = some 0xFF) ∧
      (r.state = .seized → c ∈ s.calls.rxQueue → b[22]? = some (byteOf (s.calls.rxQueue.idxOf c + 1))) ∧
      (∀ g, r.state = .queued → r.curGroup = some g → c ∈ (s.calls.group g).queue →
        b[22]? = some (byteOf ((s.calls.group g).queue.idxOf c + 1))) ∧
      (r.state ≠ .seized → r.state ≠ .queued → b[22]? = some 0xFF) ∧
      b[23]? = some (BitVec.ofNat 8 (s.noticesAt c).toNat) ∧
      b[24]? = some (BitVec.ofNat 8 ((s.noticesAt c).toNat / 256)) ∧ b[25]? = some (byteOf r.digits.length) ∧
      ∀ (i : Nat) (d : Digit), r.digits[i]? = some d →
        ∃ v, b[26 + i / 2]? = some v ∧ v.toNat / 16 ^ (i % 2) % 16 = digitCode d) ∧
  (∀ (c : Chan) (s : State) (p : Params), s.taking .readDigits p → (look p 0).toNat = c →
    ∃ b : List Byte, exec .readDigits s = .next (s.mail (Mailbox.post .ok
        ([byteOf c, byteOf (s.calls.ses c).digits.length] ++ b))) ∧
      ∀ (i : Nat) (d : Digit), (s.calls.ses c).digits[i]? = some d →
        ∃ v, b[i / 2]? = some v ∧ v.toNat / 16 ^ (i % 2) % 16 = digitCode d) ∧
  (∀ (g : GroupIx) (s : State) (p : Params), s.taking .readGroup p → (look p 0).toNat = g →
    exec .readGroup s = .next (s.mail (Mailbox.post .ok (groupResult s.calls g)))) ∧
  (∀ (k : Calls) (g : GroupIx) (x : Group), x = k.group g → groupResult k g =
    [byteOf g, byteOf x.method.code, optByte x.overflow, optByte x.noAnswer, byteOf x.queueLimit, byteOf x.queueWait,
      byteOf x.members.length, byteOf x.position, byteOf x.queue.length] ++
      (List.range 16).map fun i => optByte x.members[i]?) ∧
  (∀ (b : BridgeIx) (s : State) (p : Params), s.taking .readBridge p → (look p 0).toNat = b →
    exec .readBridge s = .next (s.mail (Mailbox.post .ok ([byteOf b, byteOf (s.calls.members b).length] ++
      (List.range 4).map fun i => optByte (s.calls.members b)[i]?)))) ∧
  (∀ (i : ParamIx) (s : State) (p : Params), s.taking .readParam p → (look p 0).toNat = i →
    exec .readParam s = .next (s.mail (Mailbox.post .ok
      [byteOf i, byteOf (look s.params.staged i), byteOf (look s.params.staged i / 256),
        byteOf (look s.params.current i), byteOf (look s.params.current i / 256)]))) ∧
  ([ChanClass.unused, .station, .trunk].map ChanClass.code = [0, 1, 2] ∧
    [DigitMode.tone, .pulse, .either].map DigitMode.code = [0, 1, 2] ∧
    [FlashMode.notice, .consult].map FlashMode.code = [0, 1] ∧ [ToneOut.busy, .reorder].map ToneOut.code = [0, 1] ∧
    [SState.idle, .blocked, .seized, .collecting, .hostwait, .outring, .trunkwait, .queued, .ringing, .talk, .held,
      .confer, .toneout, .lockout, .releasing, .ringin, .seizing].map SState.code =
      [0, 1, 2, 3, 4, 5, 6, 7, 8, 9, 10, 11, 12, 13, 14, 15, 16] ∧
    (timerCode none = 0 ∧ ∀ left, [TimerKind.firstDigit, .interdigit, .overlap, .rxWait, .cadence, .queueWait, .toneout,
      .guard, .seizeWait, .cutThrough].map (fun kind => timerCode (some ⟨kind, left⟩)) =
      [1, 2, 3, 4, 5, 6, 7, 8, 9, 10]) ∧
    (Listen.none.code = (0, 0) ∧ (∀ c, (Listen.slot c).code = (2, c.val)) ∧ (∀ b, (Listen.bridge b).code = (3, b.val)) ∧
      [Tone.dial, .ringback, .busy, .reorder, .hold].map (fun x => (Listen.tone x).code) =
        [(1, 0), (1, 1), (1, 2), (1, 3), (1, 4)]) ∧
    ((∀ n : Fin 10, digitCode (.num n) = n) ∧ digitCode .star = 10 ∧ digitCode .hash = 11) ∧
    [Method.linear, .circular, .all].map Method.code = [0, 1, 2] ∧
    [LoopState.onhook, .seizeTiming, .offhook, .openTiming].map LoopState.code = [0, 1, 2, 3] ∧
    [RingState.ringIdle, .burstTiming, .inBurst, .gapTiming].map RingState.code = [0, 1, 2, 3] ∧
    [BattState.absent, .timing, .present, .dropTiming].map BattState.code = [0, 1, 2, 3] ∧
    [RxService.inService, .withdrawPending, .out].map RxService.code = [0, 1, 2] ∧
    [RxState.free, .offline, .quiet, .onset, .digit, .gap].map RxState.code = [0, 1, 2, 3, 4, 5])

/-! ### The port and the mailbox -/

/-- R161, R162, R163, R165, R166 and R167: the reads and the CONTROL write; and outside BUSY a PARAM write fills the
buffer, a write of a defined code offers a command, and a write of an undefined code completes at once with UNKNOWN;
what each of the sixteen addresses reads as, the codes of the commands with the rows that take them, and the values of
the completion codes, of the fields of STATUS and of the notice bits (section 8.7, R178). D0 to D7 are driven with the
register's value during a read and are at high impedance else, each strobe with CS low is the access of its row, and
`lastRead` records the byte that a read gave (log 11, the model's choice). -/
def Obligations.PortAccessesAndOffers : Prop :=
  (∀ s : State, s.resetAsserted = false →
    exec .statusRead s = .next { s with lastRead := some s.statusByte, mbox := { s.mbox with collision := false } } ∧
    (∀ k : Fin 8, exec (.resultRead k) s = .next { s with
      lastRead := some (look s.mbox.result ⟨8 * s.mbox.readPage + k, by omega⟩)
      mbox := { s.mbox with readPage := if k = 7 then s.mbox.readPage + 1 else s.mbox.readPage } }) ∧
    exec .completionRead s = .next { s with
      lastRead := some s.mbox.completion.code
      mbox := { s.mbox with readPage := 0, state := if s.mbox.state = .done then .idle else s.mbox.state } } ∧
    (∀ b : Byte, exec (.controlWrite b) s = .next { s with attn := { s.attn with
      irqaEnable := b.getLsbD 0, irqbEnable := b.getLsbD 1, doneEnable := b.getLsbD 2 } }) ∧
    (∀ (a : Fin 16) (b : Byte), exec (.ignoredRegisterWrite a b) s = .next s) ∧
    s.statusByte.getLsbD 4 = s.mbox.collision ∧ s.statusByte.getLsbD 5 = s.link.errorFlag ∧
    s.statusByte.getLsbD 6 = s.irqa ∧ s.statusByte.getLsbD 7 = s.irqb ∧
    s.statusByte.toNat % 4 = s.mbox.state.code ∧ s.statusByte.toNat / 4 % 4 = s.op.code) ∧
  (∀ s : State, s.resetAsserted = false → s.mbox.state ≠ .busy →
    (∀ (k : Fin 8) (b : Byte), exec (.paramWrite k b) s = .next { s with mbox := { s.mbox with
      params := put s.mbox.params ⟨8 * s.mbox.writePage + k, by omega⟩ b
      writePage := if k = 7 then s.mbox.writePage + 1 else s.mbox.writePage } }) ∧
    (∀ cmd : Cmd, exec (.commandOffer cmd.code) s = .next { s with mbox := { s.mbox with
      inFlight := some ⟨cmd.code, s.mbox.params⟩
      lastCode := cmd.code
      completion := .noResult
      writePage := 0
      state := .busy } }) ∧
    ∀ code : Byte, (∀ cmd : Cmd, cmd.code ≠ code) →
      exec (.unknown code) s = .next { s with mbox := { s.mbox with
        inFlight := none
        lastCode := code
        completion := .unknown
        result := Vector.replicate 32 0
        readPage := 0
        writePage := 0
        state := .done } }) ∧
  (∀ s : State, s.register 0 = s.statusByte ∧ s.register 1 = s.mbox.lastCode ∧
    s.register 10 = s.mbox.completion.code ∧
    (∀ k : Fin 8, s.register ⟨2 + k, by omega⟩ = look s.mbox.result ⟨8 * s.mbox.readPage + k, by omega⟩) ∧
    (∀ n : Fin 4, s.register ⟨11 + n, by omega⟩ = s.attnByte n) ∧
    (s.register 15).getLsbD 0 = s.attn.irqaEnable ∧ (s.register 15).getLsbD 1 = s.attn.irqbEnable ∧
    (s.register 15).getLsbD 2 = s.attn.doneEnable ∧ (s.register 15).toNat < 8) ∧
  (∀ (p : BusPins) (s : State),
    (p.cs = false ∨ p.rd = false ∨ p.wr = true → s.dataBus p = none) ∧
    (p.cs = true → p.rd = true → p.wr = false → s.dataBus p = some (s.register p.address)) ∧
    ∀ i, s.resetAsserted = false → p.rd = true → p.row = some i →
      ∃ t, exec i s = .next t ∧ t.lastRead = s.dataBus p) ∧
  (∀ p : BusPins,
    (p.cs = false ∨ p.rd = p.wr → p.row = none) ∧
    (p.cs = true → p.rd = true → p.wr = false →
      (p.address = 0 → p.row = some .statusRead) ∧
      (∀ k : Fin 8, p.address = ⟨2 + k, by omega⟩ → p.row = some (.resultRead k)) ∧
      (p.address = 10 → p.row = some .completionRead) ∧
      (p.address ∈ [1, 11, 12, 13, 14, 15] → p.row = none)) ∧
    (p.cs = true → p.rd = false → p.wr = true →
      (∀ cmd : Cmd, p.address = 1 → p.data = cmd.code → p.row = some (.commandOffer p.data)) ∧
      (p.address = 1 → (∀ cmd : Cmd, cmd.code ≠ p.data) → p.row = some (.unknown p.data)) ∧
      (∀ k : Fin 8, p.address = ⟨2 + k, by omega⟩ → p.row = some (.paramWrite k p.data)) ∧
      (p.address = 15 → p.row = some (.controlWrite p.data)) ∧
      (p.address ∈ [0, 10, 11, 12, 13, 14] → p.row = some (.ignoredRegisterWrite p.address p.data)))) ∧
  (∀ x ∈ ([(.start, 0x01, .start), (.stop, 0x02, .stop), (.setParam, 0x08, .setParam),
      (.applyParams, 0x09, .applyParams), (.readParam, 0x0A, .readParam), (.setNoticeMask, 0x0B, .setNoticeMask),
      (.configureChannel, 0x10, .configureChannel), (.block, 0x11, .block), (.restore, 0x12, .restore),
      (.readSession, 0x14, .readSession), (.readDigits, 0x15, .readDigits), (.writeEntry, 0x18, .writeEntry),
      (.clearEntry, 0x19, .clearEntry), (.writeGroup, 0x20, .writeGroup), (.setMembers, 0x21, .setMembers),
      (.addMember, 0x22, .addMember), (.dropMember, 0x23, .dropMember), (.readGroup, 0x24, .readGroup),
      (.receiverService, 0x28, .receiverService), (.hold, 0x30, .hold), (.retrieve, 0x31, .retrieve),
      (.transfer, 0x32, .transfer), (.drop, 0x33, .drop), (.place, 0x34, .place), (.connect, 0x35, .connect),
      (.setListen, 0x36, .setListen), (.conference, 0x38, .conference), (.join, 0x39, .join),
      (.readBridge, 0x3A, .readBridge), (.takeNotices, 0x40, .takeNotices), (.setWatch, 0x41, .setWatch),
      (.armWatch, 0x42, .armWatch), (.disarmWatch, 0x43, .disarmWatch)] : List (Cmd × Byte × Instr)),
    x.1.code = x.2.1 ∧ x.1.row = x.2.2) ∧
  ([Completion.noResult, .ok, .unknown, .wrongMode, .badState, .badArg, .noResource, .duplicate,
      .inconsistent].map Completion.code = [0, 1, 2, 3, 4, 5, 6, 7, 8]) ∧
  [MailState.idle, .busy, .done].map MailState.code = [0, 1, 2] ∧
  [OpState.config, .run, .stopping].map OpState.code = [0, 1, 2] ∧
  [Notice.seize, .refer, .vacant, .barred, .busy, .noanswer, .answer, .flash, .release, .ringin, .abandon,
    .trunkfault, .rxwait, .transfer, .queueout].map Notice.bit = [0, 1, 2, 3, 4, 5, 6, 7, 8, 9, 10, 11, 12, 13, 14]

/-- R164: a write to COMMAND or to a PARAM register while the mailbox is BUSY is ignored and sets the collision flag,
and a second one changes nothing further. -/
def Obligations.WritesWhileBusyCollide : Prop :=
  ∀ s : State, s.resetAsserted = false → s.mbox.state = .busy →
    ∀ i : Instr, ((∃ k b, i = .paramWrite k b) ∨ (∃ code, i = .commandOffer code) ∨ ∃ code, i = .unknown code) →
      exec i s = .next { s with mbox := { s.mbox with collision := true } } ∧
      (s.mbox.collision = true → exec i s = .next s) ∧
      ∃ t, exec .statusRead { s with mbox := { s.mbox with collision := true } } = .next t ∧
        t.mbox.collision = false ∧ t.mbox.inFlight = s.mbox.inFlight ∧ ∃ b, t.lastRead = some b ∧ b.getLsbD 4 = true

/-- R165, R166 and R170: a command whose parameters are out of range is refused with BAD_ARG, else one that the
operating state does not accept with WRONG_MODE; the refusal changes the mailbox alone, as every completion does; and
a command row without its own command in flight changes nothing (log 2, the model's choice). That DROP_MEMBER of a
channel that is no member, whose BAD_ARG is R96's, meets WRONG_MODE first in STOPPING is the model's reading (log 12). -/
def Obligations.RefusalsFollowTheOrderOfChecks : Prop :=
  ∀ (cmd : Cmd) (s : State),
    (∀ p : Params, s.taking cmd p →
      (cmd.inRange p = false → ∃ t, exec cmd.row s = .next t ∧ t = { s with mbox := t.mbox } ∧
        t.mbox = { s.mbox with
          result := Vector.replicate 32 0, completion := .badArg, readPage := 0, inFlight := none, state := .done }) ∧
      (cmd.inRange p = true → cmd.accepted s.op = false → ∃ t, exec cmd.row s = .next t ∧
        t = { s with mbox := t.mbox } ∧
        t.mbox = { s.mbox with
          result := Vector.replicate 32 0, completion := .wrongMode, readPage := 0, inFlight := none
          state := .done }) ∧
      ∃ (t : State) (code : Completion) (bytes : List Byte), exec cmd.row s = .next t ∧ code ≠ .noResult ∧
        t.mbox = { s.mbox with
        result := tabulate fun i => bytes.getD i 0
        completion := code, readPage := 0, inFlight := none, state := .done }) ∧
    ((∀ p, s.mbox.inFlight ≠ some ⟨cmd.code, p⟩) → exec cmd.row s = .next s) ∧
    ∀ (code : Completion) (bytes : List Byte), s.mail (Mailbox.post code bytes) = { s with mbox := { s.mbox with
      result := tabulate fun i => bytes.getD i 0
      completion := code, readPage := 0, inFlight := none, state := .done } }

/-! ### Operating states and tables -/

/-- R171: START enters RUN and takes up every IDLE station found off-hook and every IDLE trunk found ringing, the
stations before the trunks, each in ascending order, with their two counts in the result. A station collects without a
receiver for digit mode PULSE; those of TONE and EITHER take the FREE receivers in ascending order, and the others
wait in SEIZED in their order. A trunk with no answer group waits in HOSTWAIT with RINGIN; an only ringing trunk, with
an answer group, starts a hunt (statement HuntsChooseByMethod) from the records `k0` that the stations' take-up
leaves. -/
def Obligations.StartEntersRun : Prop :=
  ∀ (s : State) (p : Params) (stations dialling trunks : List Chan) (free : List RxIx),
    s.taking .start p → s.op = .config →
    stations = (List.finRange 32).filter (fun c => (s.calls.ses c).cls = .station ∧ (s.calls.ses c).state = .idle ∧
      ((look s.loopQ c).state = .offhook ∨ (look s.loopQ c).state = .openTiming)) →
    dialling = stations.filter (fun c => (s.calls.ses c).digitMode ≠ .pulse) →
    trunks = (List.finRange 32).filter (fun c => (s.calls.ses c).cls = .trunk ∧ (s.calls.ses c).state = .idle ∧
      (look s.ringQ c).state = .inBurst) →
    free = (List.finRange 8).filter (fun r => (s.calls.rx r).state = .free) →
    ∃ k0 k, exec .start s = .next ((({ s with op := .run }).close k).mail
        (Mailbox.post .ok [1, byteOf stations.length, byteOf trunks.length])) ∧
      (∀ c, c ∉ stations → s.calls.sameAt c k0) ∧ k0.battQ = s.calls.battQ ∧ k0.groups = s.calls.groups ∧
      k0.bridges = s.calls.bridges ∧ k0.rxQueue = s.calls.rxQueue ++ dialling.drop free.length ∧
      (∀ c ∈ stations, (s.calls.ses c).digitMode = .pulse →
        k0.stands c { (s.calls.ses c).moved .collecting with
            receiver := none, timer := s.timerOf .firstDigit Param.firstDigitTime }
          (.tone .dial) noOutput (s.recorded [.seize] c)) ∧
      (∀ (i : Nat) (c : Chan), dialling[i]? = some c →
        (∀ r, free[i]? = some r →
          k0.rx r = ⟨(s.calls.rx r).service, .quiet, some c, none, none, none⟩ ∧
          k0.stands c { (s.calls.ses c).moved .collecting with
              receiver := some r, timer := s.timerOf .firstDigit Param.firstDigitTime }
            (.tone .dial) noOutput (s.recorded [.seize] c)) ∧
        (free[i]? = none →
          k0.stands c { (s.calls.ses c).moved .seized with timer := s.timerOf .rxWait Param.rxWaitNotice }
            .none noOutput (s.recorded [.seize] c))) ∧
      (∀ r, (∀ i, free[i]? = some r → dialling.length ≤ i) → k0.rx r = s.calls.rx r) ∧
      (trunks = [] → k = k0) ∧
      ((∀ t ∈ trunks, (s.calls.ses t).answerGroup = none) →
        (∀ c, c ∉ trunks → k0.sameAt c k) ∧ k.battQ = s.calls.battQ ∧ k0.samePool k ∧ k.groups = s.calls.groups ∧
          k.bridges = s.calls.bridges ∧
          ∀ t ∈ trunks, k.stands t ((s.calls.ses t).moved .hostwait) .none ⟨false, (s.calls.levels t).loop⟩
            (s.recorded [.ringin] t)) ∧
      ∀ t g, trunks = [t] → (s.calls.ses t).answerGroup = some g →
        ∃ k1, k0.onlyAt [t] k1 ∧
          k1.stands t { s.calls.ses t with tried := 0, curGroup := none } (look s.calls.listen t) (s.calls.levels t)
            (s.recorded [.ringin] t) ∧
          k = k1.hunt { s.env with op := .run } huntFuel g t

/-- R28, R67, R120, R138 and R172: STOP takes every session that is neither IDLE nor BLOCKED to IDLE, takes back the
receivers, empties the queues, frees the bridges, raises nothing, drops the digits in flight (log 1), and
leaves STOPPING, or CONFIG when the images agree. -/
def Obligations.StopClearsTheCalls : Prop :=
  ∀ (s : State) (p : Params), s.taking .stop p → s.op = .run →
    ∃ t, exec .stop s = .next t ∧
      (∀ c, (s.calls.ses c).state ≠ .idle → (s.calls.ses c).state ≠ .blocked →
        t.calls.stands c ((s.calls.ses c).moved .idle) .none noOutput (s.noticesAt c)) ∧
      (∀ c, ((s.calls.ses c).state = .idle ∨ (s.calls.ses c).state = .blocked) → s.calls.sameAt c t.calls) ∧
      (∀ r, ((s.calls.rx r).state = .free ∨ (s.calls.rx r).state = .offline → t.calls.rx r = s.calls.rx r) ∧
        ((s.calls.rx r).state ∉ [.free, .offline] → (s.calls.rx r).service = .inService →
          t.calls.rx r = ⟨.inService, .free, none, none, none, none⟩) ∧
        ((s.calls.rx r).state ∉ [.free, .offline] → (s.calls.rx r).service ≠ .inService →
          t.calls.rx r = ⟨.out, .offline, none, none, none, none⟩)) ∧
      t.calls.rxQueue = [] ∧ (∀ g, t.calls.group g = { s.calls.group g with queue := [] }) ∧
      (∀ b, t.calls.members b = []) ∧ t.calls.battQ = s.calls.battQ ∧
      ((∀ c, t.calls.levels c = look s.link.sent c) → t.op = .config) ∧
      ((∃ c, t.calls.levels c ≠ look s.link.sent c) → t.op = .stopping) ∧
      t.mbox = s.mbox.post .ok [byteOf t.op.code] ∧
      (∀ v, v ∈ t.deliveries ↔ v ∈ s.deliveries ∧ ∀ r c d, v ≠ .digit r c d) ∧
      t = { s with
        op := t.op
        deliveries := t.deliveries
        calls := t.calls
        mbox := t.mbox
        attn := { s.attn with watches := t.attn.watches }
        link := { s.link with
          position := t.link.position
          clearPending := t.link.clearPending
          statusPending := t.link.statusPending
          flight := t.link.flight } }

/-- R174, R175, R176 and R183: the 23 parameters with their ranges and defaults; SET_PARAM writes the staged set;
APPLY_PARAMS copies it when the four relations hold and names the first that fails otherwise; SET_NOTICE_MASK replaces
the mask, bit 15 reading as 0. -/
def Obligations.ParametersAreStagedAndApplied : Prop :=
  ([Param.seizeQual, Param.hitMax, Param.pulseBreakMax, Param.flashMin, Param.flashMax, Param.pulseMakeEnd,
      Param.firstDigitTime, Param.interdigitTime, Param.overlapTime, Param.toneOnMin, Param.toneGapMin,
      Param.ringOnTime, Param.ringOffTime, Param.noAnswerCycles, Param.toneoutTime, Param.guardStation,
      Param.guardTrunk, Param.trunkSeizeWait, Param.cutThroughDelay, Param.ringBurstMin, Param.ringGapMax,
      Param.farOpenMin, Param.rxWaitNotice].map (fun i => (i.val, look paramLow i, look paramHigh i,
        look paramDefault i)) =
    [(0, 10, 250, 30), (1, 5, 100, 15), (2, 20, 200, 100), (3, 100, 1000, 250), (4, 300, 3000, 1100),
      (5, 100, 1000, 250), (6, 1000, 60000, 10000), (7, 1000, 60000, 8000), (8, 500, 60000, 3000), (9, 20, 200, 40),
      (10, 20, 200, 40), (11, 200, 5000, 1000), (12, 200, 10000, 3000), (13, 1, 15, 6), (14, 1000, 60000, 10000),
      (15, 0, 5000, 200), (16, 0, 10000, 1500), (17, 200, 10000, 2000), (18, 0, 5000, 500), (19, 50, 1000, 150),
      (20, 1000, 20000, 6000), (21, 50, 5000, 400), (22, 500, 30000, 3000)]) ∧
  (∀ (i : ParamIx) (v : Nat) (s : State) (p : Params), s.taking .setParam p → s.op ≠ .stopping →
    (look p 0).toNat = i → (look p 1).toNat + 256 * (look p 2).toNat = v → look paramLow i ≤ v →
    v ≤ look paramHigh i →
    exec .setParam s = .next { s with
      params := { s.params with staged := put s.params.staged i v }
      mbox := s.mbox.post .ok [byteOf i, byteOf v, byteOf (v / 256), byteOf (look s.params.current i),
        byteOf (look s.params.current i / 256)] }) ∧
  (∀ (s : State) (p : Params), s.taking .applyParams p → s.op ≠ .stopping → ∀ a b c d e f : Nat,
    look s.params.staged Param.hitMax = a → look s.params.staged Param.pulseBreakMax = b →
    look s.params.staged Param.flashMin = c → look s.params.staged Param.flashMax = d →
    look s.params.staged Param.overlapTime = e → look s.params.staged Param.interdigitTime = f →
    (a < b → b < c → c < d → e ≤ f → exec .applyParams s = .next { s with
      params := { s.params with current := s.params.staged }, mbox := s.mbox.post .ok [0] }) ∧
    (b ≤ a → exec .applyParams s = .next (s.mail (Mailbox.post .inconsistent [1]))) ∧
    (a < b → c ≤ b → exec .applyParams s = .next (s.mail (Mailbox.post .inconsistent [2]))) ∧
    (a < b → b < c → d ≤ c → exec .applyParams s = .next (s.mail (Mailbox.post .inconsistent [3]))) ∧
    (a < b → b < c → c < d → f < e → exec .applyParams s = .next (s.mail (Mailbox.post .inconsistent [4])))) ∧
  ∀ (s : State) (p : Params), s.taking .setNoticeMask p → s.op ≠ .stopping →
    ∃ m : NoticeSet, (∀ i, m.getLsbD i = (decide (i < 15) &&
        if i < 8 then (look p 0).getLsbD i else (look p 1).getLsbD (i - 8))) ∧
      exec .setNoticeMask s = .next { s with
        params := { s.params with mask := m }
        mbox := s.mbox.post .ok [look p 0, look p 1 &&& 0x7F] }

/-- R76, R77, R78 and R178: WRITE_ENTRY, whose bytes 0, 1, 2, 3 and 4 are the slot, the pattern length, the action,
its argument and the minimum service class and whose bytes 8 to 13 are the symbols, two in a byte, the earlier in bits
3 to 0, gives the slot the entry whole, or is refused with DUPLICATE and the lowest other slot that holds the pattern;
CLEAR_ENTRY empties a slot. -/
def Obligations.DialPlanEntriesAreWrittenAndCleared : Prop :=
  (∀ (slot : SlotIx) (en : Entry) (s : State) (p : Params), s.taking .writeEntry p → s.op ≠ .stopping →
    (look p 0).toNat = slot → (look p 1).toNat = en.pattern.length → 1 ≤ en.pattern.length →
    en.pattern.length ≤ 12 →
    (∀ (i : Nat) (y : PatSym) (hi : i < 12), en.pattern[i]? = some y →
      (look p ⟨8 + i / 2, by omega⟩).toNat / 16 ^ (i % 2) % 16 = (match y with
        | .digit (.num n) => n.val
        | .digit .star => 10
        | .digit .hash => 11
        | .x => 12)) →
    (match en.action with
      | .channel c => look p 2 = 0 ∧ (look p 3).toNat = c
      | .extension o => look p 2 = 1 ∧ (look p 3).toNat = o ∧ (en.pattern.count .x = 1 ∨ en.pattern.count .x = 2)
      | .group g => look p 2 = 2 ∧ (look p 3).toNat = g
      | .refer => look p 2 = 3
      | .deny => look p 2 = 4) →
    (look p 4).toNat = en.minClass →
    ((∀ i en', i ≠ slot → look s.plan i = some en' → en'.pattern ≠ en.pattern) →
      exec .writeEntry s = .next { s with plan := put s.plan slot (some en), mbox := s.mbox.post .ok [] }) ∧
    ∀ i en', i ≠ slot → look s.plan i = some en' → en'.pattern = en.pattern →
      (∀ j < i, ∀ en'', j ≠ slot → look s.plan j = some en'' → en''.pattern ≠ en.pattern) →
      exec .writeEntry s = .next (s.mail (Mailbox.post .duplicate [byteOf i]))) ∧
  ∀ (slot : SlotIx) (s : State) (p : Params), s.taking .clearEntry p → s.op ≠ .stopping → (look p 0).toNat = slot →
    exec .clearEntry s = .next { s with plan := put s.plan slot none, mbox := s.mbox.post .ok [] }

/-- R95 and R96: WRITE_GROUP, SET_MEMBERS, ADD_MEMBER and DROP_MEMBER, each completed with the group's record (09 to 24
of the result its members); their refusals. The place of DROP_MEMBER's BAD_ARG after WRONG_MODE is a deduction (log
12). -/
def Obligations.GroupCommandsChangeTheirGroup : Prop :=
  (∀ (a : GroupArgs) (s : State) (p : Params), s.taking .writeGroup p → s.op ≠ .stopping →
    (look p 0).toNat = a.group → (look p 1).toNat = a.method.code → look p 2 = optByte a.overflow →
    look p 3 = optByte a.noAnswer → (look p 4).toNat = a.queueLimit → (look p 5).toNat = a.queueWait →
    a.queueLimit ≤ 8 → 1 ≤ a.queueWait →
    ∃ k, exec .writeGroup s = .next { s with calls := k, mbox := s.mbox.post .ok (groupResult k a.group) } ∧
      k = { s.calls with groups := put s.calls.groups a.group { s.calls.group a.group with
        method := a.method, overflow := a.overflow, noAnswer := a.noAnswer, queueLimit := a.queueLimit
        queueWait := a.queueWait } }) ∧
  (∀ (g : GroupIx) (l : List Chan) (s : State) (p : Params), s.taking .setMembers p → s.op ≠ .stopping →
    (look p 0).toNat = g → (look p 1).toNat = l.length → l.length ≤ 6 →
    (([look p 2, look p 3, look p 4, look p 5, look p 6, look p 7].take l.length).map (·.toNat) =
      l.map fun c => c.val) →
    (¬ l.Nodup → exec .setMembers s = .next (s.mail (Mailbox.post .duplicate []))) ∧
    (l.Nodup → ∃ k, exec .setMembers s = .next { s with calls := k, mbox := s.mbox.post .ok (groupResult k g) } ∧
      k = { s.calls with groups := put s.calls.groups g { s.calls.group g with
        members := l, position := l.length - 1 } })) ∧
  (∀ (g : GroupIx) (c : Chan) (s : State) (p : Params), s.taking .addMember p → s.op ≠ .stopping →
    (look p 0).toNat = g → (look p 1).toNat = c →
    (c ∈ (s.calls.group g).members → exec .addMember s = .next (s.mail (Mailbox.post .duplicate []))) ∧
    (c ∉ (s.calls.group g).members → 16 ≤ (s.calls.group g).members.length →
      exec .addMember s = .next (s.mail (Mailbox.post .noResource []))) ∧
    (c ∉ (s.calls.group g).members → (s.calls.group g).members.length < 16 →
      ∃ k, exec .addMember s = .next { s with calls := k, mbox := s.mbox.post .ok (groupResult k g) } ∧
        k = { s.calls with groups := put s.calls.groups g { s.calls.group g with
          members := (s.calls.group g).members ++ [c] } })) ∧
  ∀ (g : GroupIx) (c : Chan) (s : State) (p : Params), s.taking .dropMember p → s.op ≠ .stopping →
    (look p 0).toNat = g → (look p 1).toNat = c →
    (c ∉ (s.calls.group g).members → exec .dropMember s = .next (s.mail (Mailbox.post .badArg []))) ∧
    (c ∈ (s.calls.group g).members → ∃ k position,
      exec .dropMember s = .next { s with calls := k, mbox := s.mbox.post .ok (groupResult k g) } ∧
      k = { s.calls with groups := put s.calls.groups g { s.calls.group g with
        members := (s.calls.group g).members.erase c, position := position } } ∧
      ((s.calls.group g).members.idxOf c < (s.calls.group g).position →
        position = (s.calls.group g).position - 1) ∧
      ((s.calls.group g).members.idxOf c = (s.calls.group g).position → 0 < (s.calls.group g).position →
        position = (s.calls.group g).position - 1) ∧
      ((s.calls.group g).members.idxOf c = 0 → (s.calls.group g).position = 0 →
        position = (s.calls.group g).members.length - 2) ∧
      ((s.calls.group g).position < (s.calls.group g).members.idxOf c → position = (s.calls.group g).position))

/-! ### Attention -/

/-- R184 and R31: TAKE_NOTICES copies a channel's notice set and empties it, or, for 32, the system set, with the link
error flag. R191 and R192: the watch commands, which report the flags as they found them. -/
def Obligations.NoticesAreTakenAndWatchesSet : Prop :=
  (∀ (s : State) (p : Params), s.taking .takeNotices p →
    (∀ c : Chan, (look p 0).toNat = c → exec .takeNotices s = .next { s with
      calls := { s.calls with notices := put s.calls.notices c 0 }
      mbox := s.mbox.post .ok [byteOf c, BitVec.ofNat 8 (s.noticesAt c).toNat,
        BitVec.ofNat 8 ((s.noticesAt c).toNat / 256)] }) ∧
    (look p 0 = 32 → exec .takeNotices s = .next { s with
      attn := { s.attn with linkErr := false }
      link := { s.link with errorFlag := false }
      mbox := s.mbox.post .ok [32, if s.attn.linkErr then 1 else 0, 0] }) ∧
    (32 < (look p 0).toNat → exec .takeNotices s = .next (s.mail (Mailbox.post .badArg [])))) ∧
  ∀ (i : WatchIx) (s : State) (p : Params), s.op ≠ .stopping → (look p 0).toNat = i →
    (s.taking .setWatch p → ((look p 1).toNat = 0 ∨ (look p 1).toNat = 1) →
      ∃ w : Watch, exec .setWatch s = .next { s with
          attn := { s.attn with watches := put s.attn.watches i w }
          mbox := s.mbox.post .ok (watchResult i (look s.attn.watches i)) } ∧
        w.armed = false ∧ w.fired = false ∧ w.mode = (if look p 1 = 0 then .any else .all) ∧
        (∀ c : Chan, w.selects c =
          (look p ⟨2 + c.val / 8, by omega⟩).getLsbD (c.val % 8)) ∧
        ∀ st : SState, w.states.getLsbD st.code =
          (look p ⟨6 + st.code / 8, by cases st <;> decide⟩).getLsbD (st.code % 8)) ∧
    (s.taking .armWatch p →
      ((look s.attn.watches i).condition s.calls = true → exec .armWatch s = .next { s with
        attn := { s.attn with
          watches := put s.attn.watches i { look s.attn.watches i with armed := false, fired := true } }
        mbox := s.mbox.post .ok (watchResult i (look s.attn.watches i)) }) ∧
      ((look s.attn.watches i).condition s.calls = false → exec .armWatch s = .next { s with
        attn := { s.attn with
          watches := put s.attn.watches i { look s.attn.watches i with armed := true, fired := false } }
        mbox := s.mbox.post .ok (watchResult i (look s.attn.watches i)) })) ∧
    (s.taking .disarmWatch p → exec .disarmWatch s = .next { s with
      attn := { s.attn with
        watches := put s.attn.watches i { look s.attn.watches i with armed := false, fired := false } }
      mbox := s.mbox.post .ok (watchResult i (look s.attn.watches i)) }) ∧
    ∀ w : Watch, watchResult i w = [byteOf i, byteOf (if w.armed then 1 else 0), byteOf (if w.fired then 1 else 0)]

/-- R185, R186, R189 and R190: the condition of a watch; the close of an event fires an armed watch whose condition is
true when the event changed the state of a channel it selects; IRQA and IRQB follow their enabled conditions. -/
def Obligations.FiredWatchesAndRequestLines : Prop :=
  (∀ (w : Watch) (k : Calls), w.condition k = true ↔
    (w.mode = .any ∧ (∃ c, w.selects c = true ∧ w.states.getLsbD (k.ses c).state.code = true) ∨
      w.mode = .all ∧ (∃ c, w.selects c = true) ∧
        ∀ c, w.selects c = true → w.states.getLsbD (k.ses c).state.code = true)) ∧
  (∀ (s : State) (k : Calls) (i : WatchIx),
    (s.close k).calls = k ∧
    (((look s.attn.watches i).armed = true ∧ (look s.attn.watches i).condition k = true ∧
        ∃ c, (look s.attn.watches i).selects c = true ∧ (s.calls.ses c).state ≠ (k.ses c).state) →
      look (s.close k).attn.watches i = { look s.attn.watches i with armed := false, fired := true }) ∧
    (¬ ((look s.attn.watches i).armed = true ∧ (look s.attn.watches i).condition k = true ∧
        ∃ c, (look s.attn.watches i).selects c = true ∧ (s.calls.ses c).state ≠ (k.ses c).state) →
      look (s.close k).attn.watches i = look s.attn.watches i) ∧
    s.close k = { s with
      calls := k
      deliveries := (s.close k).deliveries
      attn := { s.attn with watches := (s.close k).attn.watches }
      link := { s.link with
        position := (s.close k).link.position
        clearPending := (s.close k).link.clearPending
        statusPending := (s.close k).link.statusPending
        flight := (s.close k).link.flight } } ∧
    (s.link.flight.isSome = true → (s.close k).link = s.link)) ∧
  ∀ s : State,
    (s.irqa = true ↔
      s.attn.irqaEnable = true ∧ ((∃ c, s.noticesAt c ≠ 0) ∨ s.attn.linkErr = true) ∨
        s.attn.doneEnable = true ∧ s.mbox.state = .done) ∧
    (s.irqb = true ↔ s.attn.irqbEnable = true ∧ ∃ i, (look s.attn.watches i).fired = true) ∧
    ∀ (n : Fin 4) (j : Fin 8), (s.attnByte n).getLsbD j = decide (s.noticesAt ⟨8 * n + j, by omega⟩ ≠ 0)

/-! ### Invariants of every step -/

/-- R74, R94, R174 and R176: the current parameters stay consistent and in range, dial plan entries stay lawful with no
two identical patterns, and groups keep at most 16 distinct members; and with the entries lawful (R71) a digit list
keeps at most 12 digits, fewer while its collection is open. -/
def Obligations.EveryStepKeepsTheTablesLawful : Prop :=
  ∀ s t : State, step s = .next t →
    (s.paramsLaw → t.paramsLaw) ∧ (s.planLaw → t.planLaw) ∧ (s.planLaw → s.digitsLaw → t.digitsLaw) ∧
      (s.groupsLaw → t.groupsLaw)

/-- R170: outside RUN every session is IDLE or BLOCKED, the queues are empty, no bridge has members and no receiver is
assigned. -/
def Obligations.EveryStepKeepsOutsideRunQuiet : Prop :=
  ∀ s t : State, step s = .next t → s.quietLaw → t.quietLaw

/-- R10 and R33: a ring output is on only for a RINGING session and a loop output closed only for a trunk in SEIZING,
TALK, HELD, CONFER or HOSTWAIT. -/
def Obligations.EveryStepKeepsTheOutputImageLawful : Prop :=
  ∀ s t : State, step s = .next t → s.levelsLaw → t.levelsLaw

/-- R52: service, state and assigned channel of every receiver go together. -/
def Obligations.EveryStepKeepsTheReceiversLawful : Prop :=
  ∀ s t : State, step s = .next t → s.receiversLaw → t.receiversLaw

/-- R163 and R165: a command with a defined code is in flight exactly while the mailbox is BUSY; R30, R31, R178, R182,
R183 and R184: the link error flag and LINKERR stand and fall together, and the unused bit of every notice set and of
the mask stays 0. -/
def Obligations.EveryStepKeepsTheMailboxAndTheNoticesLawful : Prop :=
  ∀ s t : State, step s = .next t →
    (s.mailboxLaw → t.mailboxLaw) ∧ (s.linkLaw → t.linkLaw) ∧ (s.noticesLaw → t.noticesLaw)

/-- R3, R8, R9 and R12: every session keeps a state of its class and sets only the fields of its state; partners in TALK
name each other, a seizing trunk and its originator do, a held channel and its holder do, and the ringing count of an
originator is the number of its ringing set. -/
def Obligations.EveryStepKeepsThePartnersInStep : Prop :=
  ∀ s t : State, step s = .next t → s.quietLaw → s.receiversLaw → s.groupsLaw → s.recordsLaw →
    (∀ c, (t.calls.ses c).fits) ∧ t.calls.partnersLaw

/-- R3, R51, R53 and R65: the receiver wait queue holds exactly the SEIZED channels, each once, and no receiver is
FREE while one waits; a receiver is assigned to the channel that names it; and (log 1, a deduction) a digit in flight
is one that its channel's present collection awaits. -/
def Obligations.EveryStepKeepsTheReceiversInStep : Prop :=
  ∀ s t : State, step s = .next t → s.quietLaw → s.receiversLaw → s.groupsLaw → s.recordsLaw →
    t.calls.poolLaw ∧ (s.flightLaw → t.flightLaw)

/-- R115 and R128: a channel is QUEUED exactly when it stands in one camp-on queue, that of its current group, and a
queue holds at most 8; it is in CONFER exactly when it is a member of the bridge it names, and a bridge has 0, 3 or 4
members. -/
def Obligations.EveryStepKeepsTheQueuesAndBridgesInStep : Prop :=
  ∀ s t : State, step s = .next t → s.quietLaw → s.receiversLaw → s.groupsLaw → s.recordsLaw →
    t.calls.queuesLaw ∧ t.calls.bridgesLaw

/-- Every law of the invariants holds at reset. -/
def Obligations.ResetStateIsLawful : Prop :=
  State.reset.paramsLaw ∧ State.reset.planLaw ∧ State.reset.groupsLaw ∧ State.reset.mailboxLaw ∧
    State.reset.quietLaw ∧ State.reset.levelsLaw ∧ State.reset.receiversLaw ∧ State.reset.linkLaw ∧
    State.reset.noticesLaw ∧ State.reset.recordsLaw ∧ State.reset.flightLaw ∧ State.reset.digitsLaw

end Statements
end

