-- ==== Sys2Proof/Laws/State.lean ====
section
/-! SUPPORT. One lemma for each field and each update of the state, so that no proof unfolds a record update; and what
stands at a place after an update of a table. -/

namespace Sys2Proof.Machine

/-! ### Call state: the fields an update leaves -/

@[simp] theorem Calls.setSes_listen (k : Calls) (c : Chan) (r : Session) : (k.setSes c r).listen = k.listen := rfl
@[simp] theorem Calls.setSes_out (k : Calls) (c : Chan) (r : Session) : (k.setSes c r).out = k.out := rfl
@[simp] theorem Calls.setSes_battQ (k : Calls) (c : Chan) (r : Session) : (k.setSes c r).battQ = k.battQ := rfl
@[simp] theorem Calls.setSes_receivers (k : Calls) (c : Chan) (r : Session) : (k.setSes c r).receivers = k.receivers := rfl
@[simp] theorem Calls.setSes_rxQueue (k : Calls) (c : Chan) (r : Session) : (k.setSes c r).rxQueue = k.rxQueue := rfl
@[simp] theorem Calls.setSes_groups (k : Calls) (c : Chan) (r : Session) : (k.setSes c r).groups = k.groups := rfl
@[simp] theorem Calls.setSes_bridges (k : Calls) (c : Chan) (r : Session) : (k.setSes c r).bridges = k.bridges := rfl
@[simp] theorem Calls.setSes_notices (k : Calls) (c : Chan) (r : Session) : (k.setSes c r).notices = k.notices := rfl

@[simp] theorem Calls.alter_listen (k : Calls) (c : Chan) (f : Session → Session) : (k.alter c f).listen = k.listen := rfl
@[simp] theorem Calls.alter_out (k : Calls) (c : Chan) (f : Session → Session) : (k.alter c f).out = k.out := rfl
@[simp] theorem Calls.alter_battQ (k : Calls) (c : Chan) (f : Session → Session) : (k.alter c f).battQ = k.battQ := rfl
@[simp] theorem Calls.alter_receivers (k : Calls) (c : Chan) (f : Session → Session) : (k.alter c f).receivers = k.receivers := rfl
@[simp] theorem Calls.alter_rxQueue (k : Calls) (c : Chan) (f : Session → Session) : (k.alter c f).rxQueue = k.rxQueue := rfl
@[simp] theorem Calls.alter_groups (k : Calls) (c : Chan) (f : Session → Session) : (k.alter c f).groups = k.groups := rfl
@[simp] theorem Calls.alter_bridges (k : Calls) (c : Chan) (f : Session → Session) : (k.alter c f).bridges = k.bridges := rfl
@[simp] theorem Calls.alter_notices (k : Calls) (c : Chan) (f : Session → Session) : (k.alter c f).notices = k.notices := rfl

@[simp] theorem Calls.setListen_sessions (k : Calls) (c : Chan) (l : Listen) : (k.setListen c l).sessions = k.sessions := rfl
@[simp] theorem Calls.setListen_out (k : Calls) (c : Chan) (l : Listen) : (k.setListen c l).out = k.out := rfl
@[simp] theorem Calls.setListen_battQ (k : Calls) (c : Chan) (l : Listen) : (k.setListen c l).battQ = k.battQ := rfl
@[simp] theorem Calls.setListen_receivers (k : Calls) (c : Chan) (l : Listen) : (k.setListen c l).receivers = k.receivers := rfl
@[simp] theorem Calls.setListen_rxQueue (k : Calls) (c : Chan) (l : Listen) : (k.setListen c l).rxQueue = k.rxQueue := rfl
@[simp] theorem Calls.setListen_groups (k : Calls) (c : Chan) (l : Listen) : (k.setListen c l).groups = k.groups := rfl
@[simp] theorem Calls.setListen_bridges (k : Calls) (c : Chan) (l : Listen) : (k.setListen c l).bridges = k.bridges := rfl
@[simp] theorem Calls.setListen_notices (k : Calls) (c : Chan) (l : Listen) : (k.setListen c l).notices = k.notices := rfl

@[simp] theorem Calls.setOut_sessions (k : Calls) (c : Chan) (v : Levels) : (k.setOut c v).sessions = k.sessions := rfl
@[simp] theorem Calls.setOut_listen (k : Calls) (c : Chan) (v : Levels) : (k.setOut c v).listen = k.listen := rfl
@[simp] theorem Calls.setOut_battQ (k : Calls) (c : Chan) (v : Levels) : (k.setOut c v).battQ = k.battQ := rfl
@[simp] theorem Calls.setOut_receivers (k : Calls) (c : Chan) (v : Levels) : (k.setOut c v).receivers = k.receivers := rfl
@[simp] theorem Calls.setOut_rxQueue (k : Calls) (c : Chan) (v : Levels) : (k.setOut c v).rxQueue = k.rxQueue := rfl
@[simp] theorem Calls.setOut_groups (k : Calls) (c : Chan) (v : Levels) : (k.setOut c v).groups = k.groups := rfl
@[simp] theorem Calls.setOut_bridges (k : Calls) (c : Chan) (v : Levels) : (k.setOut c v).bridges = k.bridges := rfl
@[simp] theorem Calls.setOut_notices (k : Calls) (c : Chan) (v : Levels) : (k.setOut c v).notices = k.notices := rfl

@[simp] theorem Calls.raise_sessions (k : Calls) (e : Env) (n : Notice) (c : Chan) : (k.raise e n c).sessions = k.sessions := by unfold Calls.raise; split <;> rfl
@[simp] theorem Calls.raise_listen (k : Calls) (e : Env) (n : Notice) (c : Chan) : (k.raise e n c).listen = k.listen := by unfold Calls.raise; split <;> rfl
@[simp] theorem Calls.raise_out (k : Calls) (e : Env) (n : Notice) (c : Chan) : (k.raise e n c).out = k.out := by unfold Calls.raise; split <;> rfl
@[simp] theorem Calls.raise_battQ (k : Calls) (e : Env) (n : Notice) (c : Chan) : (k.raise e n c).battQ = k.battQ := by unfold Calls.raise; split <;> rfl
@[simp] theorem Calls.raise_receivers (k : Calls) (e : Env) (n : Notice) (c : Chan) : (k.raise e n c).receivers = k.receivers := by unfold Calls.raise; split <;> rfl
@[simp] theorem Calls.raise_rxQueue (k : Calls) (e : Env) (n : Notice) (c : Chan) : (k.raise e n c).rxQueue = k.rxQueue := by unfold Calls.raise; split <;> rfl
@[simp] theorem Calls.raise_groups (k : Calls) (e : Env) (n : Notice) (c : Chan) : (k.raise e n c).groups = k.groups := by unfold Calls.raise; split <;> rfl
@[simp] theorem Calls.raise_bridges (k : Calls) (e : Env) (n : Notice) (c : Chan) : (k.raise e n c).bridges = k.bridges := by unfold Calls.raise; split <;> rfl

@[simp] theorem Calls.alterGroup_sessions (k : Calls) (g : GroupIx) (f : Group → Group) : (k.alterGroup g f).sessions = k.sessions := rfl
@[simp] theorem Calls.alterGroup_listen (k : Calls) (g : GroupIx) (f : Group → Group) : (k.alterGroup g f).listen = k.listen := rfl
@[simp] theorem Calls.alterGroup_out (k : Calls) (g : GroupIx) (f : Group → Group) : (k.alterGroup g f).out = k.out := rfl
@[simp] theorem Calls.alterGroup_battQ (k : Calls) (g : GroupIx) (f : Group → Group) : (k.alterGroup g f).battQ = k.battQ := rfl
@[simp] theorem Calls.alterGroup_receivers (k : Calls) (g : GroupIx) (f : Group → Group) : (k.alterGroup g f).receivers = k.receivers := rfl
@[simp] theorem Calls.alterGroup_rxQueue (k : Calls) (g : GroupIx) (f : Group → Group) : (k.alterGroup g f).rxQueue = k.rxQueue := rfl
@[simp] theorem Calls.alterGroup_bridges (k : Calls) (g : GroupIx) (f : Group → Group) : (k.alterGroup g f).bridges = k.bridges := rfl
@[simp] theorem Calls.alterGroup_notices (k : Calls) (g : GroupIx) (f : Group → Group) : (k.alterGroup g f).notices = k.notices := rfl

@[simp] theorem Calls.leaveQueues_sessions (k : Calls) (c : Chan) : (k.leaveQueues c).sessions = k.sessions := rfl
@[simp] theorem Calls.leaveQueues_listen (k : Calls) (c : Chan) : (k.leaveQueues c).listen = k.listen := rfl
@[simp] theorem Calls.leaveQueues_out (k : Calls) (c : Chan) : (k.leaveQueues c).out = k.out := rfl
@[simp] theorem Calls.leaveQueues_battQ (k : Calls) (c : Chan) : (k.leaveQueues c).battQ = k.battQ := rfl
@[simp] theorem Calls.leaveQueues_receivers (k : Calls) (c : Chan) : (k.leaveQueues c).receivers = k.receivers := rfl
@[simp] theorem Calls.leaveQueues_rxQueue (k : Calls) (c : Chan) : (k.leaveQueues c).rxQueue = k.rxQueue := rfl
@[simp] theorem Calls.leaveQueues_bridges (k : Calls) (c : Chan) : (k.leaveQueues c).bridges = k.bridges := rfl
@[simp] theorem Calls.leaveQueues_notices (k : Calls) (c : Chan) : (k.leaveQueues c).notices = k.notices := rfl

@[simp] theorem Calls.enter_battQ (k : Calls) (c : Chan) (st : SState) (f : Session → Session) : (k.enter c st f).battQ = k.battQ := rfl
@[simp] theorem Calls.enter_receivers (k : Calls) (c : Chan) (st : SState) (f : Session → Session) : (k.enter c st f).receivers = k.receivers := rfl
@[simp] theorem Calls.enter_rxQueue (k : Calls) (c : Chan) (st : SState) (f : Session → Session) : (k.enter c st f).rxQueue = k.rxQueue := rfl
@[simp] theorem Calls.enter_groups (k : Calls) (c : Chan) (st : SState) (f : Session → Session) : (k.enter c st f).groups = k.groups := rfl
@[simp] theorem Calls.enter_bridges (k : Calls) (c : Chan) (st : SState) (f : Session → Session) : (k.enter c st f).bridges = k.bridges := rfl
@[simp] theorem Calls.enter_notices (k : Calls) (c : Chan) (st : SState) (f : Session → Session) : (k.enter c st f).notices = k.notices := rfl

@[simp] theorem Calls.setRx_sessions (k : Calls) (r : RxIx) (x : Receiver) : (k.setRx r x).sessions = k.sessions := rfl
@[simp] theorem Calls.setRx_listen (k : Calls) (r : RxIx) (x : Receiver) : (k.setRx r x).listen = k.listen := rfl
@[simp] theorem Calls.setRx_out (k : Calls) (r : RxIx) (x : Receiver) : (k.setRx r x).out = k.out := rfl
@[simp] theorem Calls.setRx_battQ (k : Calls) (r : RxIx) (x : Receiver) : (k.setRx r x).battQ = k.battQ := rfl
@[simp] theorem Calls.setRx_rxQueue (k : Calls) (r : RxIx) (x : Receiver) : (k.setRx r x).rxQueue = k.rxQueue := rfl
@[simp] theorem Calls.setRx_groups (k : Calls) (r : RxIx) (x : Receiver) : (k.setRx r x).groups = k.groups := rfl
@[simp] theorem Calls.setRx_bridges (k : Calls) (r : RxIx) (x : Receiver) : (k.setRx r x).bridges = k.bridges := rfl
@[simp] theorem Calls.setRx_notices (k : Calls) (r : RxIx) (x : Receiver) : (k.setRx r x).notices = k.notices := rfl

@[simp] theorem Calls.setMembers_sessions (k : Calls) (b : BridgeIx) (l : List Chan) : (k.setMembers b l).sessions = k.sessions := rfl
@[simp] theorem Calls.setMembers_listen (k : Calls) (b : BridgeIx) (l : List Chan) : (k.setMembers b l).listen = k.listen := rfl
@[simp] theorem Calls.setMembers_out (k : Calls) (b : BridgeIx) (l : List Chan) : (k.setMembers b l).out = k.out := rfl
@[simp] theorem Calls.setMembers_battQ (k : Calls) (b : BridgeIx) (l : List Chan) : (k.setMembers b l).battQ = k.battQ := rfl
@[simp] theorem Calls.setMembers_receivers (k : Calls) (b : BridgeIx) (l : List Chan) : (k.setMembers b l).receivers = k.receivers := rfl
@[simp] theorem Calls.setMembers_rxQueue (k : Calls) (b : BridgeIx) (l : List Chan) : (k.setMembers b l).rxQueue = k.rxQueue := rfl
@[simp] theorem Calls.setMembers_groups (k : Calls) (b : BridgeIx) (l : List Chan) : (k.setMembers b l).groups = k.groups := rfl
@[simp] theorem Calls.setMembers_notices (k : Calls) (b : BridgeIx) (l : List Chan) : (k.setMembers b l).notices = k.notices := rfl

@[simp] theorem Calls.setBatt_sessions (k : Calls) (c : Chan) (q : BattQual) : (k.setBatt c q).sessions = k.sessions := rfl
@[simp] theorem Calls.setBatt_listen (k : Calls) (c : Chan) (q : BattQual) : (k.setBatt c q).listen = k.listen := rfl
@[simp] theorem Calls.setBatt_out (k : Calls) (c : Chan) (q : BattQual) : (k.setBatt c q).out = k.out := rfl
@[simp] theorem Calls.setBatt_receivers (k : Calls) (c : Chan) (q : BattQual) : (k.setBatt c q).receivers = k.receivers := rfl
@[simp] theorem Calls.setBatt_rxQueue (k : Calls) (c : Chan) (q : BattQual) : (k.setBatt c q).rxQueue = k.rxQueue := rfl
@[simp] theorem Calls.setBatt_groups (k : Calls) (c : Chan) (q : BattQual) : (k.setBatt c q).groups = k.groups := rfl
@[simp] theorem Calls.setBatt_bridges (k : Calls) (c : Chan) (q : BattQual) : (k.setBatt c q).bridges = k.bridges := rfl
@[simp] theorem Calls.setBatt_notices (k : Calls) (c : Chan) (q : BattQual) : (k.setBatt c q).notices = k.notices := rfl

/-! ### Call state: what stands at a place after an update -/

theorem Calls.ses_setSes (k : Calls) (c d : Chan) (r : Session) :
    (k.setSes c r).ses d = if c = d then r else k.ses d := look_put ..

@[simp] theorem Calls.ses_setSes_self (k : Calls) (c : Chan) (r : Session) : (k.setSes c r).ses c = r := look_put_self ..

@[simp] theorem Calls.ses_alter_self (k : Calls) (c : Chan) (f : Session → Session) :
    (k.alter c f).ses c = f (k.ses c) := look_put_self ..

@[simp] theorem Calls.ses_alter_ne (k : Calls) (c d : Chan) (f : Session → Session) (h : c ≠ d) :
    (k.alter c f).ses d = k.ses d := look_put_ne _ _ _ _ h

theorem Calls.ses_alter (k : Calls) (c d : Chan) (f : Session → Session) :
    (k.alter c f).ses d = if c = d then f (k.ses d) else k.ses d := by
  by_cases h : c = d
  · subst h; simp
  · simp [h]

@[simp] theorem Calls.ses_enter_self (k : Calls) (c : Chan) (st : SState) (f : Session → Session) :
    (k.enter c st f).ses c = f ((k.ses c).moved st) := look_put_self ..

@[simp] theorem Calls.ses_enter_ne (k : Calls) (c d : Chan) (st : SState) (f : Session → Session) (h : c ≠ d) :
    (k.enter c st f).ses d = k.ses d := look_put_ne _ _ _ _ h

theorem Calls.ses_enter (k : Calls) (c d : Chan) (st : SState) (f : Session → Session) :
    (k.enter c st f).ses d = if c = d then f ((k.ses d).moved st) else k.ses d := by
  by_cases h : c = d
  · subst h; simp
  · simp [h]

@[simp] theorem Calls.levels_enter_self (k : Calls) (c : Chan) (st : SState) (f : Session → Session) :
    (k.enter c st f).levels c = (f ((k.ses c).moved st)).levels (k.levels c) := look_put_self ..

@[simp] theorem Calls.levels_enter_ne (k : Calls) (c d : Chan) (st : SState) (f : Session → Session) (h : c ≠ d) :
    (k.enter c st f).levels d = k.levels d := look_put_ne _ _ _ _ h

@[simp] theorem Calls.listen_enter_self (k : Calls) (c : Chan) (st : SState) (f : Session → Session) :
    look (k.enter c st f).listen c = (f ((k.ses c).moved st)).listen := look_put_self ..

@[simp] theorem Calls.listen_enter_ne (k : Calls) (c d : Chan) (st : SState) (f : Session → Session) (h : c ≠ d) :
    look (k.enter c st f).listen d = look k.listen d := look_put_ne _ _ _ _ h

@[simp] theorem Calls.levels_setOut_self (k : Calls) (c : Chan) (v : Levels) : (k.setOut c v).levels c = v :=
  look_put_self ..

@[simp] theorem Calls.levels_setOut_ne (k : Calls) (c d : Chan) (v : Levels) (h : c ≠ d) :
    (k.setOut c v).levels d = k.levels d := look_put_ne _ _ _ _ h

theorem Calls.levels_setOut (k : Calls) (c d : Chan) (v : Levels) :
    (k.setOut c v).levels d = if c = d then v else k.levels d := look_put ..

@[simp] theorem Calls.listen_setListen_self (k : Calls) (c : Chan) (l : Listen) :
    look (k.setListen c l).listen c = l := look_put_self ..

@[simp] theorem Calls.listen_setListen_ne (k : Calls) (c d : Chan) (l : Listen) (h : c ≠ d) :
    look (k.setListen c l).listen d = look k.listen d := look_put_ne _ _ _ _ h

@[simp] theorem Calls.rx_setRx_self (k : Calls) (r : RxIx) (x : Receiver) : (k.setRx r x).rx r = x := look_put_self ..

theorem Calls.rx_setRx (k : Calls) (r q : RxIx) (x : Receiver) :
    (k.setRx r x).rx q = if r = q then x else k.rx q := look_put ..

@[simp] theorem Calls.group_alterGroup_self (k : Calls) (g : GroupIx) (f : Group → Group) :
    (k.alterGroup g f).group g = f (k.group g) := look_put_self ..

theorem Calls.group_alterGroup (k : Calls) (g h : GroupIx) (f : Group → Group) :
    (k.alterGroup g f).group h = if g = h then f (k.group h) else k.group h := by
  by_cases e : g = h
  · subst e; simp
  · simp [Calls.alterGroup, Calls.group, e]

@[simp] theorem Calls.members_setMembers_self (k : Calls) (b : BridgeIx) (l : List Chan) :
    (k.setMembers b l).members b = l := look_put_self ..

theorem Calls.members_setMembers (k : Calls) (b d : BridgeIx) (l : List Chan) :
    (k.setMembers b l).members d = if b = d then l else k.members d := look_put ..

@[simp] theorem Calls.batt_setBatt_self (k : Calls) (c : Chan) (q : BattQual) : (k.setBatt c q).batt c = q :=
  look_put_self ..

/-! ### Call state: reads that an update leaves -/

@[simp] theorem Calls.levels_setSes (k : Calls) (c : Chan) (r : Session) (d : Chan) : (k.setSes c r).levels d = k.levels d := rfl
@[simp] theorem Calls.rx_setSes (k : Calls) (c : Chan) (r : Session) (i : RxIx) : (k.setSes c r).rx i = k.rx i := rfl
@[simp] theorem Calls.group_setSes (k : Calls) (c : Chan) (r : Session) (h : GroupIx) : (k.setSes c r).group h = k.group h := rfl
@[simp] theorem Calls.members_setSes (k : Calls) (c : Chan) (r : Session) (b : BridgeIx) : (k.setSes c r).members b = k.members b := rfl
@[simp] theorem Calls.batt_setSes (k : Calls) (c : Chan) (r : Session) (d : Chan) : (k.setSes c r).batt d = k.batt d := rfl

@[simp] theorem Calls.levels_alter (k : Calls) (c : Chan) (f : Session → Session) (d : Chan) : (k.alter c f).levels d = k.levels d := rfl
@[simp] theorem Calls.rx_alter (k : Calls) (c : Chan) (f : Session → Session) (i : RxIx) : (k.alter c f).rx i = k.rx i := rfl
@[simp] theorem Calls.group_alter (k : Calls) (c : Chan) (f : Session → Session) (h : GroupIx) : (k.alter c f).group h = k.group h := rfl
@[simp] theorem Calls.members_alter (k : Calls) (c : Chan) (f : Session → Session) (b : BridgeIx) : (k.alter c f).members b = k.members b := rfl
@[simp] theorem Calls.batt_alter (k : Calls) (c : Chan) (f : Session → Session) (d : Chan) : (k.alter c f).batt d = k.batt d := rfl

@[simp] theorem Calls.ses_setListen (k : Calls) (c : Chan) (l : Listen) (d : Chan) : (k.setListen c l).ses d = k.ses d := rfl
@[simp] theorem Calls.levels_setListen (k : Calls) (c : Chan) (l : Listen) (d : Chan) : (k.setListen c l).levels d = k.levels d := rfl
@[simp] theorem Calls.rx_setListen (k : Calls) (c : Chan) (l : Listen) (i : RxIx) : (k.setListen c l).rx i = k.rx i := rfl
@[simp] theorem Calls.group_setListen (k : Calls) (c : Chan) (l : Listen) (h : GroupIx) : (k.setListen c l).group h = k.group h := rfl
@[simp] theorem Calls.members_setListen (k : Calls) (c : Chan) (l : Listen) (b : BridgeIx) : (k.setListen c l).members b = k.members b := rfl
@[simp] theorem Calls.batt_setListen (k : Calls) (c : Chan) (l : Listen) (d : Chan) : (k.setListen c l).batt d = k.batt d := rfl

@[simp] theorem Calls.ses_setOut (k : Calls) (c : Chan) (v : Levels) (d : Chan) : (k.setOut c v).ses d = k.ses d := rfl
@[simp] theorem Calls.rx_setOut (k : Calls) (c : Chan) (v : Levels) (i : RxIx) : (k.setOut c v).rx i = k.rx i := rfl
@[simp] theorem Calls.group_setOut (k : Calls) (c : Chan) (v : Levels) (h : GroupIx) : (k.setOut c v).group h = k.group h := rfl
@[simp] theorem Calls.members_setOut (k : Calls) (c : Chan) (v : Levels) (b : BridgeIx) : (k.setOut c v).members b = k.members b := rfl
@[simp] theorem Calls.batt_setOut (k : Calls) (c : Chan) (v : Levels) (d : Chan) : (k.setOut c v).batt d = k.batt d := rfl

@[simp] theorem Calls.ses_raise (k : Calls) (e : Env) (n : Notice) (c : Chan) (d : Chan) : (k.raise e n c).ses d = k.ses d := congrArg (look · d) (Calls.raise_sessions ..)
@[simp] theorem Calls.levels_raise (k : Calls) (e : Env) (n : Notice) (c : Chan) (d : Chan) : (k.raise e n c).levels d = k.levels d := congrArg (look · d) (Calls.raise_out ..)
@[simp] theorem Calls.rx_raise (k : Calls) (e : Env) (n : Notice) (c : Chan) (i : RxIx) : (k.raise e n c).rx i = k.rx i := congrArg (look · i) (Calls.raise_receivers ..)
@[simp] theorem Calls.group_raise (k : Calls) (e : Env) (n : Notice) (c : Chan) (h : GroupIx) : (k.raise e n c).group h = k.group h := congrArg (look · h) (Calls.raise_groups ..)
@[simp] theorem Calls.members_raise (k : Calls) (e : Env) (n : Notice) (c : Chan) (b : BridgeIx) : (k.raise e n c).members b = k.members b := congrArg (look · b) (Calls.raise_bridges ..)
@[simp] theorem Calls.batt_raise (k : Calls) (e : Env) (n : Notice) (c : Chan) (d : Chan) : (k.raise e n c).batt d = k.batt d := congrArg (look · d) (Calls.raise_battQ ..)

@[simp] theorem Calls.ses_alterGroup (k : Calls) (g : GroupIx) (f : Group → Group) (d : Chan) : (k.alterGroup g f).ses d = k.ses d := rfl
@[simp] theorem Calls.levels_alterGroup (k : Calls) (g : GroupIx) (f : Group → Group) (d : Chan) : (k.alterGroup g f).levels d = k.levels d := rfl
@[simp] theorem Calls.rx_alterGroup (k : Calls) (g : GroupIx) (f : Group → Group) (i : RxIx) : (k.alterGroup g f).rx i = k.rx i := rfl
@[simp] theorem Calls.members_alterGroup (k : Calls) (g : GroupIx) (f : Group → Group) (b : BridgeIx) : (k.alterGroup g f).members b = k.members b := rfl
@[simp] theorem Calls.batt_alterGroup (k : Calls) (g : GroupIx) (f : Group → Group) (d : Chan) : (k.alterGroup g f).batt d = k.batt d := rfl

@[simp] theorem Calls.ses_leaveQueues (k : Calls) (c : Chan) (d : Chan) : (k.leaveQueues c).ses d = k.ses d := rfl
@[simp] theorem Calls.levels_leaveQueues (k : Calls) (c : Chan) (d : Chan) : (k.leaveQueues c).levels d = k.levels d := rfl
@[simp] theorem Calls.rx_leaveQueues (k : Calls) (c : Chan) (i : RxIx) : (k.leaveQueues c).rx i = k.rx i := rfl
@[simp] theorem Calls.members_leaveQueues (k : Calls) (c : Chan) (b : BridgeIx) : (k.leaveQueues c).members b = k.members b := rfl
@[simp] theorem Calls.batt_leaveQueues (k : Calls) (c : Chan) (d : Chan) : (k.leaveQueues c).batt d = k.batt d := rfl

@[simp] theorem Calls.rx_enter (k : Calls) (c : Chan) (st : SState) (f : Session → Session) (i : RxIx) : (k.enter c st f).rx i = k.rx i := rfl
@[simp] theorem Calls.group_enter (k : Calls) (c : Chan) (st : SState) (f : Session → Session) (h : GroupIx) : (k.enter c st f).group h = k.group h := rfl
@[simp] theorem Calls.members_enter (k : Calls) (c : Chan) (st : SState) (f : Session → Session) (b : BridgeIx) : (k.enter c st f).members b = k.members b := rfl
@[simp] theorem Calls.batt_enter (k : Calls) (c : Chan) (st : SState) (f : Session → Session) (d : Chan) : (k.enter c st f).batt d = k.batt d := rfl

@[simp] theorem Calls.ses_setRx (k : Calls) (r : RxIx) (x : Receiver) (d : Chan) : (k.setRx r x).ses d = k.ses d := rfl
@[simp] theorem Calls.levels_setRx (k : Calls) (r : RxIx) (x : Receiver) (d : Chan) : (k.setRx r x).levels d = k.levels d := rfl
@[simp] theorem Calls.group_setRx (k : Calls) (r : RxIx) (x : Receiver) (h : GroupIx) : (k.setRx r x).group h = k.group h := rfl
@[simp] theorem Calls.members_setRx (k : Calls) (r : RxIx) (x : Receiver) (b : BridgeIx) : (k.setRx r x).members b = k.members b := rfl
@[simp] theorem Calls.batt_setRx (k : Calls) (r : RxIx) (x : Receiver) (d : Chan) : (k.setRx r x).batt d = k.batt d := rfl

@[simp] theorem Calls.ses_setMembers (k : Calls) (b : BridgeIx) (l : List Chan) (d : Chan) : (k.setMembers b l).ses d = k.ses d := rfl
@[simp] theorem Calls.levels_setMembers (k : Calls) (b : BridgeIx) (l : List Chan) (d : Chan) : (k.setMembers b l).levels d = k.levels d := rfl
@[simp] theorem Calls.rx_setMembers (k : Calls) (b : BridgeIx) (l : List Chan) (i : RxIx) : (k.setMembers b l).rx i = k.rx i := rfl
@[simp] theorem Calls.group_setMembers (k : Calls) (b : BridgeIx) (l : List Chan) (h : GroupIx) : (k.setMembers b l).group h = k.group h := rfl
@[simp] theorem Calls.batt_setMembers (k : Calls) (b : BridgeIx) (l : List Chan) (d : Chan) : (k.setMembers b l).batt d = k.batt d := rfl

@[simp] theorem Calls.ses_setBatt (k : Calls) (c : Chan) (q : BattQual) (d : Chan) : (k.setBatt c q).ses d = k.ses d := rfl
@[simp] theorem Calls.levels_setBatt (k : Calls) (c : Chan) (q : BattQual) (d : Chan) : (k.setBatt c q).levels d = k.levels d := rfl
@[simp] theorem Calls.rx_setBatt (k : Calls) (c : Chan) (q : BattQual) (i : RxIx) : (k.setBatt c q).rx i = k.rx i := rfl
@[simp] theorem Calls.group_setBatt (k : Calls) (c : Chan) (q : BattQual) (h : GroupIx) : (k.setBatt c q).group h = k.group h := rfl
@[simp] theorem Calls.members_setBatt (k : Calls) (c : Chan) (q : BattQual) (b : BridgeIx) : (k.setBatt c q).members b = k.members b := rfl

theorem Calls.notices_raise (e : Env) (n : Notice) (c d : Chan) (k : Calls) :
    look (k.raise e n c).notices d =
      if c = d ∧ e.mask.getLsbD n.bit then look k.notices d ||| BitVec.twoPow 16 n.bit else look k.notices d := by
  unfold Calls.raise
  split
  · next h =>
    by_cases e : c = d
    · subst e; simp [h]
    · simp [e]
  · next h => simp [h]

/-! ### State: the fields an update leaves -/

@[simp] theorem State.setLoopQ_pending (s : State) (c : Chan) (q : LoopQual) : (s.setLoopQ c q).pending = s.pending := rfl
@[simp] theorem State.setLoopQ_resetAsserted (s : State) (c : Chan) (q : LoopQual) : (s.setLoopQ c q).resetAsserted = s.resetAsserted := rfl
@[simp] theorem State.setLoopQ_now (s : State) (c : Chan) (q : LoopQual) : (s.setLoopQ c q).now = s.now := rfl
@[simp] theorem State.setLoopQ_op (s : State) (c : Chan) (q : LoopQual) : (s.setLoopQ c q).op = s.op := rfl
@[simp] theorem State.setLoopQ_calls (s : State) (c : Chan) (q : LoopQual) : (s.setLoopQ c q).calls = s.calls := rfl
@[simp] theorem State.setLoopQ_link (s : State) (c : Chan) (q : LoopQual) : (s.setLoopQ c q).link = s.link := rfl
@[simp] theorem State.setLoopQ_ringQ (s : State) (c : Chan) (q : LoopQual) : (s.setLoopQ c q).ringQ = s.ringQ := rfl
@[simp] theorem State.setLoopQ_plan (s : State) (c : Chan) (q : LoopQual) : (s.setLoopQ c q).plan = s.plan := rfl
@[simp] theorem State.setLoopQ_deliveries (s : State) (c : Chan) (q : LoopQual) : (s.setLoopQ c q).deliveries = s.deliveries := rfl
@[simp] theorem State.setLoopQ_tones (s : State) (c : Chan) (q : LoopQual) : (s.setLoopQ c q).tones = s.tones := rfl
@[simp] theorem State.setLoopQ_highway (s : State) (c : Chan) (q : LoopQual) : (s.setLoopQ c q).highway = s.highway := rfl
@[simp] theorem State.setLoopQ_params (s : State) (c : Chan) (q : LoopQual) : (s.setLoopQ c q).params = s.params := rfl
@[simp] theorem State.setLoopQ_mbox (s : State) (c : Chan) (q : LoopQual) : (s.setLoopQ c q).mbox = s.mbox := rfl
@[simp] theorem State.setLoopQ_attn (s : State) (c : Chan) (q : LoopQual) : (s.setLoopQ c q).attn = s.attn := rfl
@[simp] theorem State.setLoopQ_lastRead (s : State) (c : Chan) (q : LoopQual) : (s.setLoopQ c q).lastRead = s.lastRead := rfl

@[simp] theorem State.setRingQ_pending (s : State) (c : Chan) (q : RingQual) : (s.setRingQ c q).pending = s.pending := rfl
@[simp] theorem State.setRingQ_resetAsserted (s : State) (c : Chan) (q : RingQual) : (s.setRingQ c q).resetAsserted = s.resetAsserted := rfl
@[simp] theorem State.setRingQ_now (s : State) (c : Chan) (q : RingQual) : (s.setRingQ c q).now = s.now := rfl
@[simp] theorem State.setRingQ_op (s : State) (c : Chan) (q : RingQual) : (s.setRingQ c q).op = s.op := rfl
@[simp] theorem State.setRingQ_calls (s : State) (c : Chan) (q : RingQual) : (s.setRingQ c q).calls = s.calls := rfl
@[simp] theorem State.setRingQ_link (s : State) (c : Chan) (q : RingQual) : (s.setRingQ c q).link = s.link := rfl
@[simp] theorem State.setRingQ_loopQ (s : State) (c : Chan) (q : RingQual) : (s.setRingQ c q).loopQ = s.loopQ := rfl
@[simp] theorem State.setRingQ_plan (s : State) (c : Chan) (q : RingQual) : (s.setRingQ c q).plan = s.plan := rfl
@[simp] theorem State.setRingQ_deliveries (s : State) (c : Chan) (q : RingQual) : (s.setRingQ c q).deliveries = s.deliveries := rfl
@[simp] theorem State.setRingQ_tones (s : State) (c : Chan) (q : RingQual) : (s.setRingQ c q).tones = s.tones := rfl
@[simp] theorem State.setRingQ_highway (s : State) (c : Chan) (q : RingQual) : (s.setRingQ c q).highway = s.highway := rfl
@[simp] theorem State.setRingQ_params (s : State) (c : Chan) (q : RingQual) : (s.setRingQ c q).params = s.params := rfl
@[simp] theorem State.setRingQ_mbox (s : State) (c : Chan) (q : RingQual) : (s.setRingQ c q).mbox = s.mbox := rfl
@[simp] theorem State.setRingQ_attn (s : State) (c : Chan) (q : RingQual) : (s.setRingQ c q).attn = s.attn := rfl
@[simp] theorem State.setRingQ_lastRead (s : State) (c : Chan) (q : RingQual) : (s.setRingQ c q).lastRead = s.lastRead := rfl

@[simp] theorem State.mail_pending (s : State) (f : Mailbox → Mailbox) : (s.mail f).pending = s.pending := rfl
@[simp] theorem State.mail_resetAsserted (s : State) (f : Mailbox → Mailbox) : (s.mail f).resetAsserted = s.resetAsserted := rfl
@[simp] theorem State.mail_now (s : State) (f : Mailbox → Mailbox) : (s.mail f).now = s.now := rfl
@[simp] theorem State.mail_op (s : State) (f : Mailbox → Mailbox) : (s.mail f).op = s.op := rfl
@[simp] theorem State.mail_calls (s : State) (f : Mailbox → Mailbox) : (s.mail f).calls = s.calls := rfl
@[simp] theorem State.mail_link (s : State) (f : Mailbox → Mailbox) : (s.mail f).link = s.link := rfl
@[simp] theorem State.mail_loopQ (s : State) (f : Mailbox → Mailbox) : (s.mail f).loopQ = s.loopQ := rfl
@[simp] theorem State.mail_ringQ (s : State) (f : Mailbox → Mailbox) : (s.mail f).ringQ = s.ringQ := rfl
@[simp] theorem State.mail_plan (s : State) (f : Mailbox → Mailbox) : (s.mail f).plan = s.plan := rfl
@[simp] theorem State.mail_deliveries (s : State) (f : Mailbox → Mailbox) : (s.mail f).deliveries = s.deliveries := rfl
@[simp] theorem State.mail_tones (s : State) (f : Mailbox → Mailbox) : (s.mail f).tones = s.tones := rfl
@[simp] theorem State.mail_highway (s : State) (f : Mailbox → Mailbox) : (s.mail f).highway = s.highway := rfl
@[simp] theorem State.mail_params (s : State) (f : Mailbox → Mailbox) : (s.mail f).params = s.params := rfl
@[simp] theorem State.mail_attn (s : State) (f : Mailbox → Mailbox) : (s.mail f).attn = s.attn := rfl
@[simp] theorem State.mail_lastRead (s : State) (f : Mailbox → Mailbox) : (s.mail f).lastRead = s.lastRead := rfl

@[simp] theorem State.recordRead_pending (s : State) (a : Fin 16) : (s.recordRead a).pending = s.pending := rfl
@[simp] theorem State.recordRead_resetAsserted (s : State) (a : Fin 16) : (s.recordRead a).resetAsserted = s.resetAsserted := rfl
@[simp] theorem State.recordRead_now (s : State) (a : Fin 16) : (s.recordRead a).now = s.now := rfl
@[simp] theorem State.recordRead_op (s : State) (a : Fin 16) : (s.recordRead a).op = s.op := rfl
@[simp] theorem State.recordRead_calls (s : State) (a : Fin 16) : (s.recordRead a).calls = s.calls := rfl
@[simp] theorem State.recordRead_link (s : State) (a : Fin 16) : (s.recordRead a).link = s.link := rfl
@[simp] theorem State.recordRead_loopQ (s : State) (a : Fin 16) : (s.recordRead a).loopQ = s.loopQ := rfl
@[simp] theorem State.recordRead_ringQ (s : State) (a : Fin 16) : (s.recordRead a).ringQ = s.ringQ := rfl
@[simp] theorem State.recordRead_plan (s : State) (a : Fin 16) : (s.recordRead a).plan = s.plan := rfl
@[simp] theorem State.recordRead_deliveries (s : State) (a : Fin 16) : (s.recordRead a).deliveries = s.deliveries := rfl
@[simp] theorem State.recordRead_tones (s : State) (a : Fin 16) : (s.recordRead a).tones = s.tones := rfl
@[simp] theorem State.recordRead_highway (s : State) (a : Fin 16) : (s.recordRead a).highway = s.highway := rfl
@[simp] theorem State.recordRead_params (s : State) (a : Fin 16) : (s.recordRead a).params = s.params := rfl
@[simp] theorem State.recordRead_mbox (s : State) (a : Fin 16) : (s.recordRead a).mbox = s.mbox := rfl
@[simp] theorem State.recordRead_attn (s : State) (a : Fin 16) : (s.recordRead a).attn = s.attn := rfl

@[simp] theorem State.closeWatches_pending (s : State) (k : Calls) : (s.closeWatches k).pending = s.pending := rfl
@[simp] theorem State.closeWatches_resetAsserted (s : State) (k : Calls) : (s.closeWatches k).resetAsserted = s.resetAsserted := rfl
@[simp] theorem State.closeWatches_now (s : State) (k : Calls) : (s.closeWatches k).now = s.now := rfl
@[simp] theorem State.closeWatches_op (s : State) (k : Calls) : (s.closeWatches k).op = s.op := rfl
@[simp] theorem State.closeWatches_calls (s : State) (k : Calls) : (s.closeWatches k).calls = s.calls := rfl
@[simp] theorem State.closeWatches_link (s : State) (k : Calls) : (s.closeWatches k).link = s.link := rfl
@[simp] theorem State.closeWatches_loopQ (s : State) (k : Calls) : (s.closeWatches k).loopQ = s.loopQ := rfl
@[simp] theorem State.closeWatches_ringQ (s : State) (k : Calls) : (s.closeWatches k).ringQ = s.ringQ := rfl
@[simp] theorem State.closeWatches_plan (s : State) (k : Calls) : (s.closeWatches k).plan = s.plan := rfl
@[simp] theorem State.closeWatches_deliveries (s : State) (k : Calls) : (s.closeWatches k).deliveries = s.deliveries := rfl
@[simp] theorem State.closeWatches_tones (s : State) (k : Calls) : (s.closeWatches k).tones = s.tones := rfl
@[simp] theorem State.closeWatches_highway (s : State) (k : Calls) : (s.closeWatches k).highway = s.highway := rfl
@[simp] theorem State.closeWatches_params (s : State) (k : Calls) : (s.closeWatches k).params = s.params := rfl
@[simp] theorem State.closeWatches_mbox (s : State) (k : Calls) : (s.closeWatches k).mbox = s.mbox := rfl
@[simp] theorem State.closeWatches_lastRead (s : State) (k : Calls) : (s.closeWatches k).lastRead = s.lastRead := rfl

@[simp] theorem State.pick_pending (s : State) (b : Bool) : (s.pick b).pending = s.pending := by unfold State.pick; (repeat' split) <;> rfl
@[simp] theorem State.pick_resetAsserted (s : State) (b : Bool) : (s.pick b).resetAsserted = s.resetAsserted := by unfold State.pick; (repeat' split) <;> rfl
@[simp] theorem State.pick_now (s : State) (b : Bool) : (s.pick b).now = s.now := by unfold State.pick; (repeat' split) <;> rfl
@[simp] theorem State.pick_op (s : State) (b : Bool) : (s.pick b).op = s.op := by unfold State.pick; (repeat' split) <;> rfl
@[simp] theorem State.pick_calls (s : State) (b : Bool) : (s.pick b).calls = s.calls := by unfold State.pick; (repeat' split) <;> rfl
@[simp] theorem State.pick_loopQ (s : State) (b : Bool) : (s.pick b).loopQ = s.loopQ := by unfold State.pick; (repeat' split) <;> rfl
@[simp] theorem State.pick_ringQ (s : State) (b : Bool) : (s.pick b).ringQ = s.ringQ := by unfold State.pick; (repeat' split) <;> rfl
@[simp] theorem State.pick_plan (s : State) (b : Bool) : (s.pick b).plan = s.plan := by unfold State.pick; (repeat' split) <;> rfl
@[simp] theorem State.pick_deliveries (s : State) (b : Bool) : (s.pick b).deliveries = s.deliveries := by unfold State.pick; (repeat' split) <;> rfl
@[simp] theorem State.pick_tones (s : State) (b : Bool) : (s.pick b).tones = s.tones := by unfold State.pick; (repeat' split) <;> rfl
@[simp] theorem State.pick_highway (s : State) (b : Bool) : (s.pick b).highway = s.highway := by unfold State.pick; (repeat' split) <;> rfl
@[simp] theorem State.pick_params (s : State) (b : Bool) : (s.pick b).params = s.params := by unfold State.pick; (repeat' split) <;> rfl
@[simp] theorem State.pick_mbox (s : State) (b : Bool) : (s.pick b).mbox = s.mbox := by unfold State.pick; (repeat' split) <;> rfl
@[simp] theorem State.pick_attn (s : State) (b : Bool) : (s.pick b).attn = s.attn := by unfold State.pick; (repeat' split) <;> rfl
@[simp] theorem State.pick_lastRead (s : State) (b : Bool) : (s.pick b).lastRead = s.lastRead := by unfold State.pick; (repeat' split) <;> rfl

@[simp] theorem State.kick_pending (s : State) : (s.kick).pending = s.pending := by unfold State.kick; split <;> simp
@[simp] theorem State.kick_resetAsserted (s : State) : (s.kick).resetAsserted = s.resetAsserted := by unfold State.kick; split <;> simp
@[simp] theorem State.kick_now (s : State) : (s.kick).now = s.now := by unfold State.kick; split <;> simp
@[simp] theorem State.kick_op (s : State) : (s.kick).op = s.op := by unfold State.kick; split <;> simp
@[simp] theorem State.kick_calls (s : State) : (s.kick).calls = s.calls := by unfold State.kick; split <;> simp
@[simp] theorem State.kick_loopQ (s : State) : (s.kick).loopQ = s.loopQ := by unfold State.kick; split <;> simp
@[simp] theorem State.kick_ringQ (s : State) : (s.kick).ringQ = s.ringQ := by unfold State.kick; split <;> simp
@[simp] theorem State.kick_plan (s : State) : (s.kick).plan = s.plan := by unfold State.kick; split <;> simp
@[simp] theorem State.kick_deliveries (s : State) : (s.kick).deliveries = s.deliveries := by unfold State.kick; split <;> simp
@[simp] theorem State.kick_tones (s : State) : (s.kick).tones = s.tones := by unfold State.kick; split <;> simp
@[simp] theorem State.kick_highway (s : State) : (s.kick).highway = s.highway := by unfold State.kick; split <;> simp
@[simp] theorem State.kick_params (s : State) : (s.kick).params = s.params := by unfold State.kick; split <;> simp
@[simp] theorem State.kick_mbox (s : State) : (s.kick).mbox = s.mbox := by unfold State.kick; split <;> simp
@[simp] theorem State.kick_attn (s : State) : (s.kick).attn = s.attn := by unfold State.kick; split <;> simp
@[simp] theorem State.kick_lastRead (s : State) : (s.kick).lastRead = s.lastRead := by unfold State.kick; split <;> simp

@[simp] theorem State.endStopping_pending (s : State) : (s.endStopping).pending = s.pending := by unfold State.endStopping; split <;> rfl
@[simp] theorem State.endStopping_resetAsserted (s : State) : (s.endStopping).resetAsserted = s.resetAsserted := by unfold State.endStopping; split <;> rfl
@[simp] theorem State.endStopping_now (s : State) : (s.endStopping).now = s.now := by unfold State.endStopping; split <;> rfl
@[simp] theorem State.endStopping_calls (s : State) : (s.endStopping).calls = s.calls := by unfold State.endStopping; split <;> rfl
@[simp] theorem State.endStopping_link (s : State) : (s.endStopping).link = s.link := by unfold State.endStopping; split <;> rfl
@[simp] theorem State.endStopping_loopQ (s : State) : (s.endStopping).loopQ = s.loopQ := by unfold State.endStopping; split <;> rfl
@[simp] theorem State.endStopping_ringQ (s : State) : (s.endStopping).ringQ = s.ringQ := by unfold State.endStopping; split <;> rfl
@[simp] theorem State.endStopping_plan (s : State) : (s.endStopping).plan = s.plan := by unfold State.endStopping; split <;> rfl
@[simp] theorem State.endStopping_deliveries (s : State) : (s.endStopping).deliveries = s.deliveries := by unfold State.endStopping; split <;> rfl
@[simp] theorem State.endStopping_tones (s : State) : (s.endStopping).tones = s.tones := by unfold State.endStopping; split <;> rfl
@[simp] theorem State.endStopping_highway (s : State) : (s.endStopping).highway = s.highway := by unfold State.endStopping; split <;> rfl
@[simp] theorem State.endStopping_params (s : State) : (s.endStopping).params = s.params := by unfold State.endStopping; split <;> rfl
@[simp] theorem State.endStopping_mbox (s : State) : (s.endStopping).mbox = s.mbox := by unfold State.endStopping; split <;> rfl
@[simp] theorem State.endStopping_attn (s : State) : (s.endStopping).attn = s.attn := by unfold State.endStopping; split <;> rfl
@[simp] theorem State.endStopping_lastRead (s : State) : (s.endStopping).lastRead = s.lastRead := by unfold State.endStopping; split <;> rfl

@[simp] theorem State.close_pending (s : State) (k : Calls) : (s.close k).pending = s.pending := by simp [State.close]
@[simp] theorem State.close_resetAsserted (s : State) (k : Calls) : (s.close k).resetAsserted = s.resetAsserted := by simp [State.close]
@[simp] theorem State.close_now (s : State) (k : Calls) : (s.close k).now = s.now := by simp [State.close]
@[simp] theorem State.close_op (s : State) (k : Calls) : (s.close k).op = s.op := by simp [State.close]
@[simp] theorem State.close_loopQ (s : State) (k : Calls) : (s.close k).loopQ = s.loopQ := by simp [State.close]
@[simp] theorem State.close_ringQ (s : State) (k : Calls) : (s.close k).ringQ = s.ringQ := by simp [State.close]
@[simp] theorem State.close_plan (s : State) (k : Calls) : (s.close k).plan = s.plan := by simp [State.close]
@[simp] theorem State.close_tones (s : State) (k : Calls) : (s.close k).tones = s.tones := by simp [State.close]
@[simp] theorem State.close_highway (s : State) (k : Calls) : (s.close k).highway = s.highway := by simp [State.close]
@[simp] theorem State.close_params (s : State) (k : Calls) : (s.close k).params = s.params := by simp [State.close]
@[simp] theorem State.close_mbox (s : State) (k : Calls) : (s.close k).mbox = s.mbox := by simp [State.close]
@[simp] theorem State.close_lastRead (s : State) (k : Calls) : (s.close k).lastRead = s.lastRead := by simp [State.close]

/-- `t` is `s` but for its highway. -/
def State.sameButHighway (s t : State) : Prop := ∃ h, t = { s with highway := h }

theorem State.endSlot_same (s : State) : s.sameButHighway s.endSlot := by
  unfold State.endSlot
  split
  · exact ⟨_, rfl⟩
  · exact ⟨s.highway, rfl⟩

theorem State.sendSlots_same (a b : Chan) (s : State) : s.sameButHighway (s.sendSlots a b) := by
  unfold State.sendSlots
  exact ⟨_, rfl⟩

theorem State.sameButHighway_trans {s t u : State} (h1 : s.sameButHighway t) (h2 : t.sameButHighway u) :
    s.sameButHighway u := by
  obtain ⟨h, rfl⟩ := h1
  obtain ⟨h', rfl⟩ := h2
  exact ⟨h', rfl⟩

/-- The next slot of a frame changes the highway alone. -/
theorem State.nextSlot_same (c : Chan) (s : State) : s.sameButHighway (s.nextSlot c) := by
  unfold State.nextSlot
  split
  · exact s.endSlot_same
  · exact s.sendSlots_same _ _

/-- A frame changes the highway alone. -/
theorem State.highwayFrame_same (v : Vector Byte 32) (x : Clocking) (s : State) :
    s.sameButHighway (s.highwayFrame v x) := by
  have hs : ∀ c, s.sameButHighway ((s.beginFrame v x.last).sendSlots 0 c) := fun c =>
    State.sameButHighway_trans (by unfold State.beginFrame; exact ⟨_, rfl⟩) (State.sendSlots_same ..)
  have he : s.sameButHighway ((s.beginFrame v x.last).sendSlots 0 x.last).endSlot :=
    State.sameButHighway_trans (hs _) (State.endSlot_same _)
  unfold State.highwayFrame
  repeat' split
  · exact hs _
  · exact he
  · exact he

@[simp] theorem State.completeFrame_pending (s : State) (o : Order) : (s.completeFrame o).pending = s.pending := by simp [State.completeFrame]
@[simp] theorem State.completeFrame_resetAsserted (s : State) (o : Order) : (s.completeFrame o).resetAsserted = s.resetAsserted := by simp [State.completeFrame]
@[simp] theorem State.completeFrame_now (s : State) (o : Order) : (s.completeFrame o).now = s.now := by simp [State.completeFrame]
@[simp] theorem State.completeFrame_calls (s : State) (o : Order) : (s.completeFrame o).calls = s.calls := by simp [State.completeFrame]
@[simp] theorem State.completeFrame_loopQ (s : State) (o : Order) : (s.completeFrame o).loopQ = s.loopQ := by simp [State.completeFrame]
@[simp] theorem State.completeFrame_ringQ (s : State) (o : Order) : (s.completeFrame o).ringQ = s.ringQ := by simp [State.completeFrame]
@[simp] theorem State.completeFrame_plan (s : State) (o : Order) : (s.completeFrame o).plan = s.plan := by simp [State.completeFrame]
@[simp] theorem State.completeFrame_deliveries (s : State) (o : Order) : (s.completeFrame o).deliveries = s.deliveries := by simp [State.completeFrame]
@[simp] theorem State.completeFrame_tones (s : State) (o : Order) : (s.completeFrame o).tones = s.tones := by simp [State.completeFrame]
@[simp] theorem State.completeFrame_highway (s : State) (o : Order) : (s.completeFrame o).highway = s.highway := by simp [State.completeFrame]
@[simp] theorem State.completeFrame_params (s : State) (o : Order) : (s.completeFrame o).params = s.params := by simp [State.completeFrame]
@[simp] theorem State.completeFrame_mbox (s : State) (o : Order) : (s.completeFrame o).mbox = s.mbox := by simp [State.completeFrame]
@[simp] theorem State.completeFrame_attn (s : State) (o : Order) : (s.completeFrame o).attn = s.attn := by simp [State.completeFrame]
@[simp] theorem State.completeFrame_lastRead (s : State) (o : Order) : (s.completeFrame o).lastRead = s.lastRead := by simp [State.completeFrame]

@[simp] theorem State.badFrame_pending (s : State) : (s.badFrame).pending = s.pending := by simp [State.badFrame]
@[simp] theorem State.badFrame_resetAsserted (s : State) : (s.badFrame).resetAsserted = s.resetAsserted := by simp [State.badFrame]
@[simp] theorem State.badFrame_now (s : State) : (s.badFrame).now = s.now := by simp [State.badFrame]
@[simp] theorem State.badFrame_op (s : State) : (s.badFrame).op = s.op := by simp [State.badFrame]
@[simp] theorem State.badFrame_calls (s : State) : (s.badFrame).calls = s.calls := by simp [State.badFrame]
@[simp] theorem State.badFrame_loopQ (s : State) : (s.badFrame).loopQ = s.loopQ := by simp [State.badFrame]
@[simp] theorem State.badFrame_ringQ (s : State) : (s.badFrame).ringQ = s.ringQ := by simp [State.badFrame]
@[simp] theorem State.badFrame_plan (s : State) : (s.badFrame).plan = s.plan := by simp [State.badFrame]
@[simp] theorem State.badFrame_deliveries (s : State) : (s.badFrame).deliveries = s.deliveries := by simp [State.badFrame]
@[simp] theorem State.badFrame_tones (s : State) : (s.badFrame).tones = s.tones := by simp [State.badFrame]
@[simp] theorem State.badFrame_highway (s : State) : (s.badFrame).highway = s.highway := by simp [State.badFrame]
@[simp] theorem State.badFrame_params (s : State) : (s.badFrame).params = s.params := by simp [State.badFrame]
@[simp] theorem State.badFrame_mbox (s : State) : (s.badFrame).mbox = s.mbox := by simp [State.badFrame]
@[simp] theorem State.badFrame_lastRead (s : State) : (s.badFrame).lastRead = s.lastRead := by simp [State.badFrame]

@[simp] theorem State.tick_pending (s : State) : (s.tick).pending = s.pending := rfl
@[simp] theorem State.tick_resetAsserted (s : State) : (s.tick).resetAsserted = s.resetAsserted := rfl
@[simp] theorem State.tick_op (s : State) : (s.tick).op = s.op := rfl
@[simp] theorem State.tick_link (s : State) : (s.tick).link = s.link := rfl
@[simp] theorem State.tick_plan (s : State) : (s.tick).plan = s.plan := rfl
@[simp] theorem State.tick_deliveries (s : State) : (s.tick).deliveries = s.deliveries := rfl
@[simp] theorem State.tick_highway (s : State) : (s.tick).highway = s.highway := rfl
@[simp] theorem State.tick_params (s : State) : (s.tick).params = s.params := rfl
@[simp] theorem State.tick_mbox (s : State) : (s.tick).mbox = s.mbox := rfl
@[simp] theorem State.tick_attn (s : State) : (s.tick).attn = s.attn := rfl
@[simp] theorem State.tick_lastRead (s : State) : (s.tick).lastRead = s.lastRead := rfl

@[simp] theorem State.tick_now (s : State) : (s.tick).now = s.now + 1 := rfl
@[simp] theorem State.tick_listen (s : State) : (s.tick).calls.listen = s.calls.listen := by unfold State.tick; rfl
@[simp] theorem State.tick_out (s : State) : (s.tick).calls.out = s.calls.out := by unfold State.tick; rfl
@[simp] theorem State.tick_rxQueue (s : State) : (s.tick).calls.rxQueue = s.calls.rxQueue := by unfold State.tick; rfl
@[simp] theorem State.tick_groups (s : State) : (s.tick).calls.groups = s.calls.groups := by unfold State.tick; rfl
@[simp] theorem State.tick_bridges (s : State) : (s.tick).calls.bridges = s.calls.bridges := by unfold State.tick; rfl
@[simp] theorem State.tick_notices (s : State) : (s.tick).calls.notices = s.calls.notices := by unfold State.tick; rfl

@[simp] theorem State.tick_ses (s : State) (c : Chan) : (s.tick).calls.ses c =
    { s.calls.ses c with timer := (s.calls.ses c).timer.map fun t => ⟨t.kind, t.left - 1⟩ } := by
  simp only [State.tick, Calls.ses, look_every]

@[simp] theorem State.tick_batt (s : State) (c : Chan) :
    (s.tick).calls.batt c = { s.calls.batt c with timer := (s.calls.batt c).timer.map (· - 1) } := by
  simp only [State.tick, Calls.batt, look_every]

@[simp] theorem State.tick_rx (s : State) (r : RxIx) :
    (s.tick).calls.rx r = { s.calls.rx r with timer := (s.calls.rx r).timer.map lessOne } := by
  simp only [State.tick, Calls.rx, look_every]

@[simp] theorem Calls.stopAll_battQ (k : Calls) : (k.stopAll).battQ = k.battQ := by unfold Calls.stopAll; rfl
@[simp] theorem Calls.stopAll_notices (k : Calls) : (k.stopAll).notices = k.notices := by unfold Calls.stopAll; rfl
@[simp] theorem Calls.stopAll_rxQueue (k : Calls) : (k.stopAll).rxQueue = [] := by unfold Calls.stopAll; rfl
@[simp] theorem Calls.stopAll_ses (k : Calls) (c : Chan) :
    (k.stopAll).ses c = if (k.ses c).active then (k.ses c).moved .idle else k.ses c := by
  simp only [Calls.stopAll, Calls.ses, look_every]; rfl
@[simp] theorem Calls.stopAll_rx (k : Calls) (r : RxIx) : (k.stopAll).rx r = (k.rx r).stopped := by
  simp only [Calls.stopAll, Calls.rx, look_every]
@[simp] theorem Calls.stopAll_group (k : Calls) (g : GroupIx) : (k.stopAll).group g = { k.group g with queue := [] } := by
  simp only [Calls.stopAll, Calls.group, look_every]

@[simp] theorem State.closeWatches_watches (s : State) (k : Calls) :
    (s.closeWatches k).attn.watches = every (fun w => w.close k s.calls) s.attn.watches := rfl

@[simp] theorem State.close_calls (s : State) (k : Calls) : (s.close k).calls = k := by simp [State.close]

@[simp] theorem State.close_deliveries (s : State) (k : Calls) :
    (s.close k).deliveries = s.deliveries.filter (s.calls.awaits k) := by simp [State.close]

@[simp] theorem State.close_attn (s : State) (k : Calls) :
    (s.close k).attn = { s.attn with watches := every (fun w => w.close s.calls k) s.attn.watches } := by
  simp [State.close, State.closeWatches]

/-! ### The link fields that the transmitter leaves -/

@[simp] theorem State.pick_sent (s : State) (b : Bool) : (s.pick b).link.sent = s.link.sent := by
  unfold State.pick; (repeat' split) <;> rfl

@[simp] theorem State.pick_errorFlag (s : State) (b : Bool) : (s.pick b).link.errorFlag = s.link.errorFlag := by
  unfold State.pick; (repeat' split) <;> rfl

@[simp] theorem State.kick_sent (s : State) : s.kick.link.sent = s.link.sent := by unfold State.kick; split <;> simp

@[simp] theorem State.kick_errorFlag (s : State) : s.kick.link.errorFlag = s.link.errorFlag := by
  unfold State.kick; split <;> simp

@[simp] theorem State.close_sent (s : State) (k : Calls) : (s.close k).link.sent = s.link.sent := by
  simp [State.close]

@[simp] theorem State.close_errorFlag (s : State) (k : Calls) : (s.close k).link.errorFlag = s.link.errorFlag := by
  simp [State.close]

@[simp] theorem State.endStopping_agree (s : State) : s.endStopping.agree = s.agree := by
  unfold State.endStopping; split <;> rfl

end Sys2Proof.Machine
end

