-- ==== Sys2Proof/Laws/Moves.lean ====
section
/-! SUPPORT. Everything an event of the Session Table can do to the call state, said once: each shared operation is a
chain of moves, and a move is one of the few updates below. A property that every move keeps is kept by every
operation. -/

namespace Sys2Proof.Machine

/-- Two records with the same state, configuration and digit list. -/
structure Session.Alike (r r' : Session) : Prop where
  state : r'.state = r.state
  cls : r'.cls = r.cls
  digitMode : r'.digitMode = r.digitMode
  serviceClass : r'.serviceClass = r.serviceClass
  flashMode : r'.flashMode = r.flashMode
  answerGroup : r'.answerGroup = r.answerGroup
  digits : r'.digits = r.digits

theorem Session.Alike.refl (r : Session) : Session.Alike r r := ⟨rfl, rfl, rfl, rfl, rfl, rfl, rfl⟩

/-- Two groups with the same members and the same settings. -/
structure Group.Alike (x y : Group) : Prop where
  method : y.method = x.method
  members : y.members = x.members
  overflow : y.overflow = x.overflow
  noAnswer : y.noAnswer = x.noAnswer
  queueLimit : y.queueLimit = x.queueLimit
  queueWait : y.queueWait = x.queueWait

theorem Group.Alike.refl (x : Group) : Group.Alike x x := ⟨rfl, rfl, rfl, rfl, rfl, rfl⟩

/-- One update of the call state. -/
inductive Move : Calls → Calls → Prop where
  /-- A channel enters a state, its new fields and timer set. -/
  | enter (k : Calls) (c : Chan) (st : SState) (f : Session → Session)
      (h : Session.Alike ((k.ses c).moved st) (f ((k.ses c).moved st))) : Move k (k.enter c st f)
  /-- Links, counts or the timer of a record change, its state and configuration do not. -/
  | fields (k : Calls) (c : Chan) (f : Session → Session) (h : Session.Alike (k.ses c) (f (k.ses c))) :
      Move k (k.alter c f)
  /-- A digit is appended to a list. -/
  | append (k : Calls) (c : Chan) (d : Digit) : Move k (k.alter c fun r => { r with digits := r.digits ++ [d] })
  /-- A listen source set apart from a change of state. -/
  | listen (k : Calls) (c : Chan) (l : Listen) : Move k (k.setListen c l)
  /-- The ring output of a RINGING station. -/
  | ringOutput (k : Calls) (c : Chan) (on : Bool) (h : (k.ses c).state = .ringing) : Move k (k.setOut c ⟨on, false⟩)
  /-- The loop output of a channel in HOSTWAIT. -/
  | answered (k : Calls) (c : Chan) (h : (k.ses c).state = .hostwait) :
      Move k (k.setOut c ⟨false, (k.ses c).cls == .trunk⟩)
  /-- A notice. -/
  | raise (k : Calls) (e : Env) (n : Notice) (c : Chan) : Move k (k.raise e n c)
  /-- A receiver lent. -/
  | lent (k : Calls) (r : RxIx) (c : Chan) (h : (k.rx r).state = .free ∨ (k.rx r).service = .inService) :
      Move k (k.setRx r ((k.rx r).lentTo c))
  /-- A receiver becomes FREE. -/
  | freed (k : Calls) (r : RxIx) : Move k (k.setRx r .freed)
  /-- A receiver goes out of service. -/
  | retired (k : Calls) (r : RxIx) : Move k (k.setRx r .retired)
  /-- An assigned receiver at work. -/
  | works (k : Calls) (r : RxIx) (x : Receiver) (was : (k.rx r).state.assigned = true) (is : x.state.assigned = true)
      (same : x.assigned = (k.rx r).assigned) (service : x.service = (k.rx r).service ∨ x.service ≠ .out) :
      Move k (k.setRx r x)
  /-- The receiver wait queue. -/
  | rxQueue (k : Calls) (q : List Chan) : Move k { k with rxQueue := q }
  /-- A member list. -/
  | bridge (k : Calls) (b : BridgeIx) (l : List Chan) : Move k (k.setMembers b l)
  /-- A battery qualifier. -/
  | batt (k : Calls) (c : Chan) (q : BattQual) : Move k (k.setBatt c q)
  /-- The camp-on queues and positions. -/
  | groups (k : Calls) (v : Vector Group 8) (h : ∀ g, Group.Alike (k.group g) (look v g)) :
      Move k { k with groups := v }

/-- A chain of moves. -/
inductive Reach : Calls → Calls → Prop where
  | refl (k : Calls) : Reach k k
  | step {k l m : Calls} (first : Reach k l) (last : Move l m) : Reach k m

theorem Reach.trans {k l m : Calls} (h1 : Reach k l) (h2 : Reach l m) : Reach k m := by
  induction h2 with
  | refl => exact h1
  | step _ last ih => exact ih.step last

theorem Move.reach {k l : Calls} (h : Move k l) : Reach k l := (Reach.refl k).step h

/-- A property that every move keeps is kept by a chain. -/
theorem Reach.keeps {P : Calls → Prop} (hm : ∀ k l, Move k l → P k → P l) {k l : Calls} (h : Reach k l) (hk : P k) :
    P l := by
  induction h with
  | refl => exact hk
  | step _ last ih => exact hm _ _ last ih

theorem Reach.fold {α : Type} (op : Calls → α → Calls) (h : ∀ k a, Reach k (op k a)) (l : List α) (k : Calls) :
    Reach k (l.foldl op k) := by
  induction l generalizing k with
  | nil => exact .refl k
  | cons a l ih => exact (h k a).trans (ih _)

/-! ### Ops -/

theorem Calls.toIdle_reach (c : Chan) (k : Calls) : Reach k (k.toIdle c) := (Move.enter k c _ _ (.refl _)).reach

theorem Calls.toReleasing_reach (e : Env) (c : Chan) (k : Calls) : Reach k (k.toReleasing e c) :=
  (Move.enter k c _ _ ⟨rfl, rfl, rfl, rfl, rfl, rfl, rfl⟩).reach

theorem Calls.toToneout_reach (e : Env) (t : ToneOut) (c : Chan) (k : Calls) : Reach k (k.toToneout e t c) :=
  (Move.enter k c _ _ ⟨rfl, rfl, rfl, rfl, rfl, rfl, rfl⟩).reach

theorem Calls.toLockout_reach (c : Chan) (k : Calls) : Reach k (k.toLockout c) := (Move.enter k c _ _ (.refl _)).reach

theorem Calls.toHostwait_reach (c : Chan) (k : Calls) : Reach k (k.toHostwait c) := (Move.enter k c _ _ (.refl _)).reach

theorem Calls.toHostwaitAnswered_reach (c : Chan) (k : Calls) : Reach k (k.toHostwaitAnswered c) := by
  have h : ((k.toHostwait c).ses c).cls = (k.ses c).cls := by simp [Calls.toHostwait, Session.moved]
  unfold Calls.toHostwaitAnswered
  rw [← h]
  exact (k.toHostwait_reach c).step (.answered _ _ (by simp [Calls.toHostwait, Session.moved]))

theorem Calls.toTalk_reach (c p : Chan) (k : Calls) : Reach k (k.toTalk c p) :=
  (Move.enter k c _ _ ⟨rfl, rfl, rfl, rfl, rfl, rfl, rfl⟩).reach

theorem Calls.pair_reach (a b : Chan) (k : Calls) : Reach k (k.pair a b) :=
  (k.toTalk_reach a b).trans (Calls.toTalk_reach b a _)

theorem Calls.toHeld_reach (c p : Chan) (k : Calls) : Reach k (k.toHeld c p) :=
  (Move.enter k c _ _ ⟨rfl, rfl, rfl, rfl, rfl, rfl, rfl⟩).reach

theorem Calls.toConfer_reach (c : Chan) (b : BridgeIx) (k : Calls) : Reach k (k.toConfer c b) :=
  (Move.enter k c _ _ ⟨rfl, rfl, rfl, rfl, rfl, rfl, rfl⟩).reach

theorem Calls.dropPartner_reach (e : Env) (p : Chan) (k : Calls) : Reach k (k.dropPartner e p) := by
  unfold Calls.dropPartner
  split
  · exact k.toReleasing_reach e p
  · exact k.toToneout_reach e _ p

theorem Calls.raise_reach (e : Env) (n : Notice) (c : Chan) (k : Calls) : Reach k (k.raise e n c) :=
  (Move.raise k e n c).reach

theorem Calls.foldIdle_reach (l : List Chan) (k : Calls) : Reach k (l.foldl (fun k d => k.toIdle d) k) :=
  Reach.fold _ (fun k c => k.toIdle_reach c) l k

theorem Calls.clearRinging_reach (o : Chan) (k : Calls) : Reach k (k.clearRinging o) :=
  (Calls.foldIdle_reach _ k).step (.fields _ _ _ ⟨rfl, rfl, rfl, rfl, rfl, rfl, rfl⟩)

theorem Calls.leaveQueues_reach (c : Chan) (k : Calls) : Reach k (k.leaveQueues c) :=
  (Move.groups k _ fun g => by rw [look_every]; exact ⟨rfl, rfl, rfl, rfl, rfl, rfl⟩).reach

/-- A group's queue or position changes, its members and settings do not. -/
theorem Calls.alterGroup_reach (g : GroupIx) (f : Group → Group) (h : ∀ x, Group.Alike x (f x)) (k : Calls) :
    Reach k (k.alterGroup g f) :=
  (Move.groups k _ fun i => by
    rw [look_put]
    split
    · next e => subst e; exact h _
    · exact .refl _).reach

/-! ### Receivers -/

theorem Calls.startCollecting_reach (e : Env) (c : Chan) (rx : Option RxIx) (k : Calls) :
    Reach k (k.startCollecting e c rx) :=
  (Move.enter k c _ _ ⟨rfl, rfl, rfl, rfl, rfl, rfl, rfl⟩).reach

theorem Calls.lend_reach (e : Env) (r : RxIx) (c : Chan) (k : Calls)
    (h : (k.rx r).state = .free ∨ (k.rx r).service = .inService) : Reach k (k.lend e r c) :=
  (Move.lent k r c h).reach.trans (Calls.startCollecting_reach ..)

theorem Calls.waitForReceiver_reach (e : Env) (c : Chan) (k : Calls) : Reach k (k.waitForReceiver e c) :=
  (Move.rxQueue k _).reach.step (.enter _ _ _ _ ⟨rfl, rfl, rfl, rfl, rfl, rfl, rfl⟩)

theorem Calls.lowestFree_state {k : Calls} {r : RxIx} (h : k.lowestFree = some r) : (k.rx r).state = .free := by
  simpa using List.find?_some h

theorem Calls.requestReceiver_reach (e : Env) (c : Chan) (k : Calls) : Reach k (k.requestReceiver e c) := by
  unfold Calls.requestReceiver
  split
  · next h => exact k.lend_reach e _ c (.inl (Calls.lowestFree_state h))
  · exact k.waitForReceiver_reach e c

theorem Calls.startDialling_reach (e : Env) (c : Chan) (k : Calls) : Reach k (k.startDialling e c) := by
  unfold Calls.startDialling
  split
  · exact k.startCollecting_reach e c none
  · exact k.requestReceiver_reach e c
  · exact k.requestReceiver_reach e c

theorem Calls.seizure_reach (e : Env) (c : Chan) (k : Calls) : Reach k (k.seizure e c) :=
  (k.raise_reach e _ c).trans (Calls.startDialling_reach ..)

theorem Calls.returnReceiver_reach (e : Env) (r : RxIx) (k : Calls) : Reach k (k.returnReceiver e r) := by
  unfold Calls.returnReceiver
  split
  · exact (Move.retired k r).reach
  · exact (Move.retired k r).reach
  · next h =>
    split
    · exact (Move.rxQueue k _).reach.trans (Calls.lend_reach _ _ _ _ (.inr h))
    · exact (Move.freed k r).reach

/-! ### Bridges -/

theorem Calls.formBridge_reach (b : BridgeIx) (ch h p : Chan) (k : Calls) : Reach k (k.formBridge b ch h p) :=
  ((((Move.bridge k b _).reach.step (.fields _ ch _ ⟨rfl, rfl, rfl, rfl, rfl, rfl, rfl⟩)).trans
    (Calls.toConfer_reach ..)).trans (Calls.toConfer_reach ..)).trans (Calls.toConfer_reach ..)

theorem Calls.freeHolder_reach (c : Chan) (k : Calls) : Reach k (k.freeHolder c) := by
  unfold Calls.freeHolder
  split
  · exact (Move.fields k _ _ ⟨rfl, rfl, rfl, rfl, rfl, rfl, rfl⟩).reach
  · exact .refl k

theorem Calls.joinBridge_reach (b : BridgeIx) (c : Chan) (k : Calls) : Reach k (k.joinBridge b c) := by
  unfold Calls.joinBridge
  refine Reach.trans (Reach.step ?_ (.bridge _ _ _)) (Calls.toConfer_reach ..)
  split
  · exact k.freeHolder_reach c
  · exact .refl k

theorem Calls.leaveBridge_reach (c : Chan) (k : Calls) : Reach k (k.leaveBridge c) := by
  unfold Calls.leaveBridge
  split
  · exact .refl k
  · split
    · exact (Move.bridge k _ _).reach.trans (Calls.pair_reach ..)
    · exact (Move.bridge k _ _).reach

/-! ### Placement -/

theorem Calls.ring_reach (e : Env) (o d : Chan) (k : Calls) : Reach k (k.ring e o d) := by
  unfold Calls.ring
  refine .step ?_ (.ringOutput _ _ _ ?_)
  case refine_2 => rw [Calls.ses_enter_self]; rfl
  refine .step ?_ (.enter _ d _ _ ⟨rfl, rfl, rfl, rfl, rfl, rfl, rfl⟩)
  split
  · exact (Move.fields k o _ ⟨rfl, rfl, rfl, rfl, rfl, rfl, rfl⟩).reach
  · exact (Move.enter k o _ _ ⟨rfl, rfl, rfl, rfl, rfl, rfl, rfl⟩).reach

theorem Calls.seizeTrunk_reach (e : Env) (o t : Chan) (k : Calls) : Reach k (k.seizeTrunk e o t) := by
  unfold Calls.seizeTrunk
  refine .step ?_ (.enter _ o _ _ ⟨rfl, rfl, rfl, rfl, rfl, rfl, rfl⟩)
  refine .step ?_ (.batt _ t _)
  exact (Move.enter k t _ _ ⟨rfl, rfl, rfl, rfl, rfl, rfl, rfl⟩).reach

theorem Calls.placeOn_reach (e : Env) (o m : Chan) (k : Calls) : Reach k (k.placeOn e o m) := by
  unfold Calls.placeOn
  split
  · exact k.seizeTrunk_reach e o m
  · exact k.ring_reach e o m

theorem Calls.busyOutcome_reach (e : Env) (o : Chan) (k : Calls) : Reach k (k.busyOutcome e o) := by
  unfold Calls.busyOutcome
  refine Reach.trans ?_ (Calls.raise_reach ..)
  split
  · exact k.toHostwait_reach o
  · exact k.toToneout_reach e _ o

theorem Calls.joinQueue_reach (g : GroupIx) (o : Chan) (k : Calls) : Reach k (k.joinQueue g o) := by
  unfold Calls.joinQueue
  refine .step ?_ (.enter _ o _ _ ⟨rfl, rfl, rfl, rfl, rfl, rfl, rfl⟩)
  refine Calls.alterGroup_reach g _ (fun _ => ?_) k
  exact ⟨rfl, rfl, rfl, rfl, rfl, rfl⟩

theorem Calls.choose_reach (e : Env) (g : GroupIx) (o : Chan) (l : List Chan) (k m : Calls)
    (h : k.choose e g o l = some m) : Reach k m := by
  unfold Calls.choose at h
  split at h
  · obtain ⟨x, -, rfl⟩ := Option.map_eq_some_iff.mp h
    exact k.placeOn_reach e o x
  · obtain ⟨x, -, rfl⟩ := Option.map_eq_some_iff.mp h
    refine Reach.trans ?_ (Calls.placeOn_reach ..)
    refine Calls.alterGroup_reach g _ (fun _ => ?_) k
    exact ⟨rfl, rfl, rfl, rfl, rfl, rfl⟩
  · split at h
    · cases h
    · cases h
      exact Reach.fold _ (fun k m => k.ring_reach e o m) _ k

theorem Calls.markGroup_reach (g : GroupIx) (o : Chan) (k : Calls) : Reach k (k.markGroup g o) :=
  (Move.fields k o _ ⟨rfl, rfl, rfl, rfl, rfl, rfl, rfl⟩).reach

theorem Calls.hunt_reach (e : Env) (n : Nat) (g : GroupIx) (o : Chan) (k : Calls) : Reach k (k.hunt e n g o) := by
  induction n generalizing g k with
  | zero => exact k.busyOutcome_reach e o
  | succ n ih =>
    unfold Calls.hunt
    refine (k.markGroup_reach g o).trans ?_
    dsimp only
    split
    · next h => exact Calls.choose_reach e g o _ _ _ h
    · split
      · exact Calls.joinQueue_reach ..
      · exact ih ..
      · exact Calls.busyOutcome_reach ..

theorem Calls.newAttempt_reach (o : Chan) (k : Calls) : Reach k (k.newAttempt o) :=
  (Move.fields k o _ ⟨rfl, rfl, rfl, rfl, rfl, rfl, rfl⟩).reach

theorem Calls.huntFresh_reach (e : Env) (g : GroupIx) (o : Chan) (k : Calls) : Reach k (k.huntFresh e g o) :=
  (k.newAttempt_reach o).trans (Calls.hunt_reach ..)

theorem Calls.placeDirect_reach (e : Env) (o d : Chan) (k : Calls) : Reach k (k.placeDirect e o d) := by
  unfold Calls.placeDirect
  refine (k.newAttempt_reach o).trans ?_
  dsimp only
  split
  · exact Calls.ring_reach ..
  · split
    · exact Calls.busyOutcome_reach ..
    · exact Calls.seizeTrunk_reach ..
  · exact Calls.busyOutcome_reach ..

theorem Calls.incomingCall_reach (e : Env) (t : Chan) (k : Calls) : Reach k (k.incomingCall e t) := by
  unfold Calls.incomingCall
  refine (k.raise_reach e .ringin t).trans ?_
  dsimp only
  split
  · exact Calls.toHostwait_reach ..
  · exact Calls.huntFresh_reach ..

theorem Calls.lineCheck_reach (e : Env) (c : Chan) (k : Calls) : Reach k (k.lineCheck e c) := by
  unfold Calls.lineCheck
  split
  · split
    · exact k.seizure_reach e c
    · exact k.seizure_reach e c
    · exact .refl k
    · exact .refl k
  · split
    · exact k.incomingCall_reach e c
    · exact .refl k
  · exact .refl k

theorem Calls.serveQueue_reach (e : Env) (c : Chan) (g : GroupIx) (k : Calls) : Reach k (k.serveQueue e c g) := by
  unfold Calls.serveQueue
  split
  · refine Reach.trans ?_ (Calls.placeOn_reach ..)
    refine Calls.alterGroup_reach g _ (fun _ => ?_) k
    exact ⟨rfl, rfl, rfl, rfl, rfl, rfl⟩
  · exact .refl k

theorem Calls.freePath_reach (e : Env) (c : Chan) (k : Calls) : Reach k (k.freePath e c) := by
  unfold Calls.freePath
  split
  · exact k.serveQueue_reach e c _
  · exact .refl k

theorem Calls.afterIdle_reach (e : Env) (c : Chan) (k : Calls) : Reach k (k.afterIdle e c) := by
  unfold Calls.afterIdle
  split
  · refine (k.lineCheck_reach e c).trans ?_
    dsimp only
    split
    · exact Calls.freePath_reach ..
    · exact .refl _
  · exact .refl k

theorem Calls.idleStages_reach (e : Env) (cs : List Chan) (k : Calls) : Reach k (k.idleStages e cs) := by
  unfold Calls.idleStages
  split
  · exact Reach.fold _ (fun k c => k.afterIdle_reach e c) cs k
  · exact .refl k

theorem Calls.enterIdle_reach (e : Env) (c : Chan) (k : Calls) : Reach k (k.enterIdle e c) :=
  (k.toIdle_reach c).trans (Calls.idleStages_reach ..)

theorem Calls.foldRing_reach (on : Bool) (l : List Chan) (k : Calls) (h : ∀ d ∈ l, (k.ses d).state = .ringing) :
    Reach k (l.foldl (fun k d => k.setOut d ⟨on, false⟩) k) := by
  induction l generalizing k with
  | nil => exact .refl k
  | cons d l ih =>
    refine (Move.ringOutput k d on (h d (by simp))).reach.trans (ih _ ?_)
    intro x hx
    exact h x (by simp [hx])

theorem Calls.mem_ringSet {k : Calls} {o d : Chan} :
    d ∈ k.ringSet o ↔ (k.ses d).state = .ringing ∧ (k.ses d).peer = some o := by
  simp [Calls.ringSet, allChans]

theorem Calls.ringOutputs_reach (o : Chan) (on : Bool) (k : Calls) : Reach k (k.ringOutputs o on) :=
  k.foldRing_reach on _ fun _ hd => (Calls.mem_ringSet.mp hd).1

theorem Calls.noAnswer_reach (e : Env) (o : Chan) (k : Calls) : Reach k (k.noAnswer e o) := by
  unfold Calls.noAnswer
  refine (k.raise_reach e .noanswer o).trans ?_
  dsimp only
  split
  · exact ((Calls.clearRinging_reach ..).trans (Calls.hunt_reach ..)).trans (Calls.idleStages_reach ..)
  · split
    · split
      · exact Calls.toHostwait_reach ..
      · exact (Move.fields _ o _ ⟨rfl, rfl, rfl, rfl, rfl, rfl, rfl⟩).reach.trans (Calls.ringOutputs_reach ..)
    · exact ((Calls.clearRinging_reach ..).trans (Calls.toToneout_reach ..)).trans (Calls.idleStages_reach ..)

theorem Calls.answer_reach (e : Env) (d o : Chan) (k : Calls) : Reach k (k.answer e d o) :=
  (((k.pair_reach d o).trans (Calls.raise_reach ..)).trans (Calls.foldIdle_reach ..)).trans (Calls.idleStages_reach ..)

theorem Calls.continueHunt_reach (e : Env) (t o : Chan) (k : Calls) : Reach k (k.continueHunt e t o) := by
  unfold Calls.continueHunt
  split
  · exact k.busyOutcome_reach e o
  · split
    · next h => exact Calls.choose_reach e _ o _ _ _ h
    · split
      · exact Calls.joinQueue_reach ..
      · exact Calls.hunt_reach ..
      · exact Calls.busyOutcome_reach ..

theorem Calls.seizeFailed_reach (e : Env) (t : Chan) (k : Calls) : Reach k (k.seizeFailed e t) := by
  unfold Calls.seizeFailed
  have h : Reach k ((k.enter t .blocked id).raise e .trunkfault t) :=
    (Move.enter k t .blocked id (.refl _)).reach.trans (Calls.raise_reach ..)
  refine h.trans ?_
  dsimp only
  split
  · exact Calls.continueHunt_reach ..
  · exact .refl _

theorem Calls.cutThrough_reach (t : Chan) (k : Calls) : Reach k (k.cutThrough t) := by
  unfold Calls.cutThrough
  split
  · exact k.pair_reach t _
  · exact .refl k

theorem Calls.cadence_reach (e : Env) (o : Chan) (k : Calls) : Reach k (k.cadence e o) := by
  unfold Calls.cadence
  split
  · exact (Move.fields k o _ ⟨rfl, rfl, rfl, rfl, rfl, rfl, rfl⟩).reach.trans (Calls.ringOutputs_reach ..)
  · refine (Move.fields k o (fun r => { r with cycles := min ((k.ses o).cycles + 1) 15 })
      ⟨rfl, rfl, rfl, rfl, rfl, rfl, rfl⟩).reach.trans ?_
    dsimp only
    split
    · exact Calls.noAnswer_reach ..
    · exact (Move.fields _ o _ ⟨rfl, rfl, rfl, rfl, rfl, rfl, rfl⟩).reach.trans (Calls.ringOutputs_reach ..)

theorem Calls.queueOut_reach (e : Env) (o : Chan) (k : Calls) : Reach k (k.queueOut e o) := by
  unfold Calls.queueOut
  refine ((k.leaveQueues_reach o).trans (Calls.raise_reach e .queueout o _)).trans ?_
  dsimp only
  split
  · exact Calls.busyOutcome_reach ..
  · split
    · exact Calls.hunt_reach ..
    · exact Calls.busyOutcome_reach ..
    · exact Calls.busyOutcome_reach ..

/-! ### Release, hold and transfer -/

theorem Calls.giveUp_reach (e : Env) (c : Chan) (k : Calls) : Reach k (k.giveUp e c) := by
  unfold Calls.giveUp
  split
  · exact (Move.rxQueue k _).reach
  · split
    · exact (Move.fields k c _ ⟨rfl, rfl, rfl, rfl, rfl, rfl, rfl⟩).reach.trans (Calls.returnReceiver_reach ..)
    · exact .refl k
  · exact k.clearRinging_reach c
  · exact k.clearRinging_reach c
  · split
    · exact (Move.fields k c _ ⟨rfl, rfl, rfl, rfl, rfl, rfl, rfl⟩).reach.trans (Calls.toReleasing_reach ..)
    · exact .refl k
  · exact k.leaveQueues_reach c
  · split
    · exact (Move.fields k c _ ⟨rfl, rfl, rfl, rfl, rfl, rfl, rfl⟩).reach.trans (Calls.dropPartner_reach ..)
    · exact .refl k
  · exact k.freeHolder_reach c
  · exact k.leaveBridge_reach c
  · split
    · exact (Move.fields k c _ ⟨rfl, rfl, rfl, rfl, rfl, rfl, rfl⟩).reach.trans (Calls.toToneout_reach ..)
    · exact .refl k
  all_goals exact .refl k

theorem Calls.passRinging_reach (ch h : Chan) (k : Calls) : Reach k (k.passRinging ch h) := by
  unfold Calls.passRinging
  refine .step ?_ (.fields _ ch _ ⟨rfl, rfl, rfl, rfl, rfl, rfl, rfl⟩)
  refine .step ?_ (.enter _ h _ _ ⟨rfl, rfl, rfl, rfl, rfl, rfl, rfl⟩)
  refine Reach.fold _ (fun k d => ?_) _ k
  exact (Move.fields k d _ ⟨rfl, rfl, rfl, rfl, rfl, rfl, rfl⟩).reach

theorem Calls.passTrunk_reach (ch h t : Chan) (k : Calls) : Reach k (k.passTrunk ch h t) := by
  unfold Calls.passTrunk
  refine .step ?_ (.fields _ ch _ ⟨rfl, rfl, rfl, rfl, rfl, rfl, rfl⟩)
  refine .step ?_ (.enter _ h _ _ ⟨rfl, rfl, rfl, rfl, rfl, rfl, rfl⟩)
  exact (Move.fields k t _ ⟨rfl, rfl, rfl, rfl, rfl, rfl, rfl⟩).reach

theorem Calls.passQueue_reach (ch h : Chan) (k : Calls) : Reach k (k.passQueue ch h) := by
  unfold Calls.passQueue
  refine .step ?_ (.fields _ ch _ ⟨rfl, rfl, rfl, rfl, rfl, rfl, rfl⟩)
  refine .step ?_ (.enter _ h _ _ ⟨rfl, rfl, rfl, rfl, rfl, rfl, rfl⟩)
  refine (Move.groups k _ fun g => ?_).reach
  rw [look_every]
  exact ⟨rfl, rfl, rfl, rfl, rfl, rfl⟩

theorem Calls.partHeld_reach (e : Env) (park : Bool) (h : Chan) (k : Calls) : Reach k (k.partHeld e park h) := by
  unfold Calls.partHeld
  split
  · exact (k.toHostwaitAnswered_reach h).trans (Calls.raise_reach ..)
  · exact k.dropPartner_reach e h

theorem Calls.handOn_reach (e : Env) (park : Bool) (ch h : Chan) (k : Calls) : Reach k (k.handOn e park ch h) := by
  unfold Calls.handOn
  refine (Move.fields k ch (fun x => { x with holds := none }) ⟨rfl, rfl, rfl, rfl, rfl, rfl, rfl⟩).reach.trans ?_
  dsimp only
  split
  · split
    · exact ((Move.fields _ ch _ ⟨rfl, rfl, rfl, rfl, rfl, rfl, rfl⟩).reach.trans (Calls.pair_reach ..)).trans
        (Calls.raise_reach ..)
    · exact Calls.partHeld_reach ..
  · refine Reach.trans ?_ (Calls.raise_reach ..)
    split
    · exact Calls.toHostwaitAnswered_reach ..
    · exact Calls.passRinging_reach ..
  · split
    · refine Reach.trans ?_ (Calls.raise_reach ..)
      split
      · exact Calls.toHostwaitAnswered_reach ..
      · exact Calls.passTrunk_reach ..
    · exact Calls.partHeld_reach ..
  · refine Reach.trans ?_ (Calls.raise_reach ..)
    split
    · exact Calls.toHostwaitAnswered_reach ..
    · exact Calls.passQueue_reach ..
  all_goals exact Calls.partHeld_reach ..

theorem Calls.handOnHeld_reach (e : Env) (park : Bool) (ch : Chan) (k : Calls) : Reach k (k.handOnHeld e park ch) := by
  unfold Calls.handOnHeld
  split
  · exact k.handOn_reach e park ch _
  · exact .refl k

theorem Calls.unwind_reach (e : Env) (park : Bool) (c : Chan) (last : Calls → Calls) (hl : ∀ k, Reach k (last k))
    (k : Calls) : Reach k (k.unwind e park c last) :=
  (((k.handOnHeld_reach e park c).trans (Calls.giveUp_reach ..)).trans (hl _)).trans (Calls.idleStages_reach ..)

theorem Calls.release_reach (e : Env) (c : Chan) (k : Calls) : Reach k (k.release e c) :=
  Calls.unwind_reach e false c _ (fun k => (k.toReleasing_reach e c).trans (Calls.raise_reach ..)) k

theorem Calls.abandon_reach (e : Env) (c : Chan) (k : Calls) : Reach k (k.abandon e c) :=
  (((k.giveUp_reach e c).trans (Calls.toReleasing_reach ..)).trans (Calls.raise_reach ..)).trans
    (Calls.idleStages_reach ..)

theorem Calls.consult_reach (e : Env) (ch p : Chan) (k : Calls) : Reach k (k.consult e ch p) :=
  ((k.toHeld_reach p ch).step (.fields _ ch _ ⟨rfl, rfl, rfl, rfl, rfl, rfl, rfl⟩)).trans (Calls.startDialling_reach ..)

theorem Calls.returnToHeld_reach (e : Env) (ch h : Chan) (k : Calls) : Reach k (k.returnToHeld e ch h) :=
  (((k.giveUp_reach e ch).step (.fields _ ch _ ⟨rfl, rfl, rfl, rfl, rfl, rfl, rfl⟩)).trans (Calls.pair_reach ..)).trans
    (Calls.idleStages_reach ..)

theorem Calls.flash_reach (e : Env) (ch : Chan) (k : Calls) : Reach k (k.flash e ch) := by
  unfold Calls.flash
  refine (k.raise_reach e .flash ch).trans ?_
  dsimp only
  split
  · exact .refl _
  · split
    · split
      · exact Calls.returnToHeld_reach ..
      · exact .refl _
    · split
      · exact Calls.consult_reach ..
      · exact .refl _

/-! ### Collection -/

theorem Calls.endReorder_reach (e : Env) (c : Chan) (k : Calls) : Reach k (k.endReorder e c) :=
  (k.giveUp_reach e c).trans (Calls.toToneout_reach ..)

theorem Calls.endVacant_reach (e : Env) (c : Chan) (k : Calls) : Reach k (k.endVacant e c) :=
  (k.endReorder_reach e c).trans (Calls.raise_reach ..)

theorem Calls.endBarred_reach (e : Env) (c : Chan) (k : Calls) : Reach k (k.endBarred e c) :=
  (k.endReorder_reach e c).trans (Calls.raise_reach ..)

theorem Calls.endDirect_reach (e : Env) (c : Chan) (n : Nat) (k : Calls) : Reach k (k.endDirect e c n) := by
  unfold Calls.endDirect
  split
  · exact (k.giveUp_reach e c).trans (Calls.placeDirect_reach ..)
  · exact k.endVacant_reach e c

theorem Calls.endComplete_reach (e : Env) (c : Chan) (en : Entry) (k : Calls) : Reach k (k.endComplete e c en) := by
  unfold Calls.endComplete
  split
  · exact k.endBarred_reach e c
  · split
    · exact k.endBarred_reach e c
    · exact ((k.giveUp_reach e c).trans (Calls.toHostwait_reach ..)).trans (Calls.raise_reach ..)
    · exact k.endDirect_reach e c _
    · exact k.endDirect_reach e c _
    · exact (k.giveUp_reach e c).trans (Calls.huntFresh_reach ..)

theorem Calls.actOn_reach (e : Env) (c : Chan) (v : Verdict) (k : Calls) : Reach k (k.actOn e c v) := by
  unfold Calls.actOn
  split
  · exact (Move.fields k c _ ⟨rfl, rfl, rfl, rfl, rfl, rfl, rfl⟩).reach
  · exact (Move.fields k c _ ⟨rfl, rfl, rfl, rfl, rfl, rfl, rfl⟩).reach
  · exact k.endVacant_reach e c
  · split
    · exact k.endComplete_reach e c _
    · exact k.endVacant_reach e c

theorem Calls.appendDigit_reach (e : Env) (c : Chan) (d : Digit) (k : Calls) : Reach k (k.appendDigit e c d) :=
  ((Move.append k c d).reach.step (.listen _ c _)).trans (Calls.actOn_reach ..)

theorem Calls.toneDigit_reach (e : Env) (r : RxIx) (c : Chan) (d : Digit) (k : Calls) :
    Reach k (k.toneDigit e r c d) := by
  unfold Calls.toneDigit
  split
  · exact k.appendDigit_reach e c d
  · exact .refl k

theorem Calls.pulseDigit_reach (e : Env) (c : Chan) (d : Digit) (k : Calls) : Reach k (k.pulseDigit e c d) := by
  unfold Calls.pulseDigit
  split
  · exact k.appendDigit_reach e c d
  · exact .refl k

theorem Calls.collectionExpiry_reach (e : Env) (c : Chan) (k : Calls) : Reach k (k.collectionExpiry e c) :=
  k.actOn_reach e c _

/-! ### Events -/

theorem Calls.take_reach (e : Env) (c : Chan) (ev : LineEvent) (k : Calls) : Reach k (k.take e c ev) := by
  unfold Calls.take
  split
  · split
    · unfold Calls.takeSeize
      split
      · exact k.seizure_reach e c
      · exact k.raise_reach e _ c
      · split
        · exact k.answer_reach e c _
        · exact .refl k
      all_goals exact .refl k
    · exact k.pulseDigit_reach e c _
    · exact k.flash_reach e c
    · unfold Calls.takeDisconnect
      split <;> first | exact k.release_reach e c | exact .refl k
    · unfold Calls.takeRingBurst
      split
      · exact k.incomingCall_reach e c
      · exact .refl k
    · unfold Calls.takeRingGone
      split
      · exact k.abandon_reach e c
      · exact k.abandon_reach e c
      · split
        · exact .refl k
        · exact k.abandon_reach e c
      all_goals exact .refl k
    · unfold Calls.takeBattOn
      split
      · exact (Move.fields k c _ ⟨rfl, rfl, rfl, rfl, rfl, rfl, rfl⟩).reach
      · exact .refl k
    · unfold Calls.takeFarOpen
      split
      · exact k.release_reach e c
      · exact k.release_reach e c
      · exact k.release_reach e c
      · exact k.release_reach e c
      · split
        · exact k.release_reach e c
        · exact .refl k
      all_goals exact .refl k
  · exact .refl k

theorem Calls.rxWaitEnd_reach (e : Env) (c : Chan) (k : Calls) : Reach k (k.rxWaitEnd e c) :=
  (Move.fields k c _ ⟨rfl, rfl, rfl, rfl, rfl, rfl, rfl⟩).reach.trans (Calls.raise_reach ..)

theorem Receiver.assigned_of_onDue {x : Receiver} (h : x.onDue = true) : x.state.assigned = true := by
  have h' : x.state = .onset := by simp [Receiver.onDue] at h; exact h.1
  rw [h']; rfl

theorem Receiver.assigned_of_gapDue {x : Receiver} (h : x.gapDue = true) : x.state.assigned = true := by
  have h' : x.state = .gap := by simp [Receiver.gapDue] at h; exact h.1
  rw [h']; rfl

/-- A receiver whose tone has qualified (R62). -/
theorem Calls.qualified_reach (r : RxIx) (k : Calls) (h : (k.rx r).onDue = true) :
    Reach k (k.setRx r { k.rx r with state := .digit, timer := none }) :=
  (Move.works k r { k.rx r with state := .digit, timer := none } (Receiver.assigned_of_onDue h) rfl rfl
    (.inl rfl)).reach

theorem Calls.toneGap_reach (r : RxIx) (k : Calls) (h : (k.rx r).gapDue = true) : Reach k (k.toneGap r) :=
  (Move.works k r { k.rx r with state := .quiet, current := none, timer := none } (Receiver.assigned_of_gapDue h) rfl
    rfl (.inl rfl)).reach

theorem Calls.takeUp_reach (e : Env) (k : Calls) : Reach k (k.takeUp e) :=
  (Reach.fold _ (fun k c => k.seizure_reach e c) _ k).trans (Reach.fold _ (fun k c => k.incomingCall_reach e c) _ _)

theorem Calls.withdraw_reach (r : RxIx) (k : Calls) : Reach k (k.withdraw r) := by
  unfold Calls.withdraw
  split
  · exact (Move.retired k r).reach
  · exact .refl k
  all_goals
    next h =>
      refine (Move.works k r { k.rx r with service := .withdrawPending } (by rw [h]; rfl) ?_ rfl
        (.inr RxService.noConfusion)).reach
      show (k.rx r).state.assigned = true
      rw [h]; rfl

theorem Calls.putInService_reach (e : Env) (r : RxIx) (k : Calls) : Reach k (k.putInService e r) := by
  unfold Calls.putInService
  split
  · exact (Move.freed k r).reach.trans (Calls.returnReceiver_reach ..)
  · exact .refl k
  all_goals
    next h =>
      refine (Move.works k r { k.rx r with service := .inService } (by rw [h]; rfl) ?_ rfl
        (.inr RxService.noConfusion)).reach
      show (k.rx r).state.assigned = true
      rw [h]; rfl

theorem Calls.dropRinging_reach (e : Env) (d : Chan) (k : Calls) : Reach k (k.dropRinging e d) := by
  unfold Calls.dropRinging
  split
  · next o _ =>
    refine Reach.trans ((k.toIdle_reach d).step
      (.fields _ o (fun r => { r with ringCount := r.ringCount - 1 }) ⟨rfl, rfl, rfl, rfl, rfl, rfl, rfl⟩)) ?_
    dsimp only
    refine Reach.trans ?_ (Calls.idleStages_reach ..)
    split
    · exact Calls.noAnswer_reach ..
    · exact .refl _
  · exact k.enterIdle_reach e d

theorem Calls.dropSession_reach (e : Env) (c : Chan) (k : Calls) : Reach k (k.dropSession e c) := by
  refine Calls.unwind_reach e false c _ (fun k => ?_) k
  split
  · exact k.toReleasing_reach e c
  · exact k.toLockout_reach c

theorem Calls.transfer_reach (e : Env) (c : Chan) (k : Calls) : Reach k (k.unwind e true c (Calls.toHostwait c)) :=
  Calls.unwind_reach e true c _ (fun k => k.toHostwait_reach c) k

end Sys2Proof.Machine
end

