-- ==== Sys2Proof/Laws/Events.lean ====
section
/-! SUPPORT. What an event of the part leaves as it stands beside the call state, said once for each operation on the
whole state, and what taking a command does. -/

namespace Sys2Proof.Machine

/-- `t` differs from `s` at most in the call state, the loop and ring qualifiers, the deliveries in flight, the watches and
what the transmitter has picked. -/
structure State.Still (s t : State) : Prop where
  pending : t.pending = s.pending
  resetAsserted : t.resetAsserted = s.resetAsserted
  now : t.now = s.now
  op : t.op = s.op
  plan : t.plan = s.plan
  tones : t.tones = s.tones
  highway : t.highway = s.highway
  params : t.params = s.params
  mbox : t.mbox = s.mbox
  lastRead : t.lastRead = s.lastRead
  sent : t.link.sent = s.link.sent
  errorFlag : t.link.errorFlag = s.link.errorFlag
  linkErr : t.attn.linkErr = s.attn.linkErr
  irqaEnable : t.attn.irqaEnable = s.attn.irqaEnable
  irqbEnable : t.attn.irqbEnable = s.attn.irqbEnable
  doneEnable : t.attn.doneEnable = s.attn.doneEnable

theorem State.Still.refl (s : State) : State.Still s s :=
  ⟨rfl, rfl, rfl, rfl, rfl, rfl, rfl, rfl, rfl, rfl, rfl, rfl, rfl, rfl, rfl, rfl⟩

theorem State.Still.trans {s t u : State} (h1 : State.Still s t) (h2 : State.Still t u) : State.Still s u :=
  ⟨h2.1.trans h1.1, h2.2.trans h1.2, h2.3.trans h1.3, h2.4.trans h1.4, h2.5.trans h1.5, h2.6.trans h1.6,
    h2.7.trans h1.7, h2.8.trans h1.8, h2.9.trans h1.9, h2.10.trans h1.10, h2.11.trans h1.11, h2.12.trans h1.12,
    h2.13.trans h1.13, h2.14.trans h1.14, h2.15.trans h1.15, h2.16.trans h1.16⟩

/-- An event of the Session Table: the call state moves, the rest stands still. -/
structure State.Event (s t : State) : Prop where
  still : State.Still s t
  moves : Reach s.calls t.calls

theorem State.Event.refl (s : State) : State.Event s s := ⟨.refl s, .refl _⟩

theorem State.Event.trans {s t u : State} (h1 : State.Event s t) (h2 : State.Event t u) : State.Event s u :=
  ⟨h1.still.trans h2.still, h1.moves.trans h2.moves⟩

theorem State.close_still (s : State) (k : Calls) : State.Still s (s.close k) := by constructor <;> simp

theorem State.kick_still (s : State) : State.Still s s.kick := by constructor <;> simp

theorem State.close_event (s : State) (k : Calls) (h : Reach s.calls k) : State.Event s (s.close k) :=
  ⟨s.close_still k, by rw [State.close_calls]; exact h⟩

/-! ### Qualifiers -/

theorem State.setDeliveries_event (s : State) (l : List Delivery) : State.Event s { s with deliveries := l } :=
  ⟨⟨rfl, rfl, rfl, rfl, rfl, rfl, rfl, rfl, rfl, rfl, rfl, rfl, rfl, rfl, rfl, rfl⟩, .refl _⟩

theorem Calls.takeDelivery_reach (e : Env) (v : Delivery) (k : Calls) : Reach k (k.takeDelivery e v) := by
  unfold Calls.takeDelivery
  split
  · exact Calls.take_reach ..
  · exact Calls.toneDigit_reach ..

theorem State.hand_event (s : State) (t : Taking) (v : Delivery) : State.Event s (s.hand t v) := by
  unfold State.hand
  split
  · exact s.close_event _ (Calls.takeDelivery_reach ..)
  · exact s.setDeliveries_event _

theorem State.deliver_event (s : State) (t : Taking) (c : Chan) (ev : Option LineEvent) :
    State.Event s (s.deliver t c ev) := by
  unfold State.deliver
  split
  · exact s.hand_event ..
  · exact .refl s

theorem State.takeFlying_event (s : State) (v : Delivery) (l : List Delivery) : State.Event s (s.takeFlying v l) :=
  (s.setDeliveries_event l).trans (State.close_event _ _ (Calls.takeDelivery_reach ..))

theorem State.setLoopQ_event (s : State) (c : Chan) (q : LoopQual) : State.Event s (s.setLoopQ c q) :=
  ⟨⟨rfl, rfl, rfl, rfl, rfl, rfl, rfl, rfl, rfl, rfl, rfl, rfl, rfl, rfl, rfl, rfl⟩, .refl _⟩

theorem State.setRingQ_event (s : State) (c : Chan) (q : RingQual) : State.Event s (s.setRingQ c q) :=
  ⟨⟨rfl, rfl, rfl, rfl, rfl, rfl, rfl, rfl, rfl, rfl, rfl, rfl, rfl, rfl, rfl, rfl⟩, .refl _⟩

theorem State.setCalls_event (s : State) (k : Calls) (h : Reach s.calls k) : State.Event s { s with calls := k } :=
  ⟨⟨rfl, rfl, rfl, rfl, rfl, rfl, rfl, rfl, rfl, rfl, rfl, rfl, rfl, rfl, rfl, rfl⟩, h⟩

theorem State.seizeQual_event (s : State) (t : Taking) (c : Chan) : State.Event s (s.seizeQual t c) := by
  unfold State.seizeQual
  dsimp only
  split
  · exact (s.setLoopQ_event c _).trans (State.deliver_event ..)
  · exact .refl s

theorem State.flashMax_event (s : State) (t : Taking) (c : Chan) : State.Event s (s.flashMax t c) := by
  unfold State.flashMax
  dsimp only
  split
  · exact (s.setLoopQ_event c _).trans (State.deliver_event ..)
  · exact .refl s

theorem State.pulseMakeEnd_event (s : State) (t : Taking) (c : Chan) : State.Event s (s.pulseMakeEnd t c) := by
  unfold State.pulseMakeEnd
  dsimp only
  split
  · exact (s.setLoopQ_event c _).trans (State.deliver_event ..)
  · exact .refl s

theorem State.burstEnd_event (s : State) (t : Taking) (c : Chan) : State.Event s (s.burstEnd t c) := by
  unfold State.burstEnd
  dsimp only
  split
  · split
    · exact (s.setRingQ_event c _).trans (State.deliver_event ..)
    · exact s.setRingQ_event c _
    all_goals exact .refl s
  · exact .refl s

theorem State.gapEnd_event (s : State) (t : Taking) (c : Chan) : State.Event s (s.gapEnd t c) := by
  unfold State.gapEnd
  dsimp only
  split
  · exact (s.setRingQ_event c _).trans (State.deliver_event ..)
  · exact .refl s

theorem State.battOn_event (s : State) (t : Taking) (c : Chan) : State.Event s (s.battOn t c) := by
  unfold State.battOn
  split
  · exact (s.setCalls_event _ (Move.batt _ c _).reach).trans (State.deliver_event ..)
  · exact .refl s

theorem State.farOpen_event (s : State) (t : Taking) (c : Chan) : State.Event s (s.farOpen t c) := by
  unfold State.farOpen
  split
  · exact (s.setCalls_event _ (Move.batt _ c _).reach).trans (State.deliver_event ..)
  · exact .refl s

theorem State.route_event (s : State) (t : Taking) (r : Report) : State.Event s (s.route t r) := by
  unfold State.route
  split
  · exact (s.setLoopQ_event _ _).trans (State.deliver_event ..)
  · exact s.setRingQ_event _ _
  · exact s.setCalls_event _ (Move.batt _ _ _).reach
  all_goals exact .refl s

theorem State.expire_event (s : State) (kind : TimerKind) (c : Chan) (f : Env → Chan → Calls → Calls)
    (h : ∀ e k, Reach k (f e c k)) : State.Event s (s.expire kind c f) := by
  unfold State.expire
  split
  · exact s.close_event _ (h ..)
  · exact .refl s

theorem Receiver.indicate_of_unassigned (p : ParamSet) (ind : Option Digit) (x : Receiver)
    (h : x.state.assigned = false) : x.indicate p ind = x := by simp [Receiver.indicate, h]

/-- An indication keeps an assigned receiver assigned to its channel, with its service (R61 to R63). -/
theorem Receiver.indicate_keeps (p : ParamSet) (ind : Option Digit) (x : Receiver) (h : x.state.assigned = true) :
    (x.indicate p ind).state.assigned = true ∧ (x.indicate p ind).assigned = x.assigned ∧
      (x.indicate p ind).service = x.service := by
  unfold Receiver.indicate
  split
  · exact ⟨h, rfl, rfl⟩
  · dsimp only
    split <;> first
      | exact ⟨rfl, rfl, rfl⟩
      | exact ⟨h, rfl, rfl⟩
      | (split <;> first | exact ⟨rfl, rfl, rfl⟩ | exact ⟨h, rfl, rfl⟩)

theorem State.indication_event (s : State) (r : RxIx) (slot : Chan) (ind : Option Digit) :
    State.Event s (s.indication r slot ind) := by
  unfold State.indication
  split
  · refine s.setCalls_event _ ?_
    cases h : (s.calls.rx r).state.assigned
    · rw [Receiver.indicate_of_unassigned _ _ _ h]
      simp only [Calls.setRx, Calls.rx, put_look]
      exact .refl _
    · have hk := Receiver.indicate_keeps s.params.current ind _ h
      exact (Move.works _ _ _ h hk.1 hk.2.1 (.inl hk.2.2)).reach
  · exact .refl s

/-- The expiry that qualifies a tone (R62). -/
theorem State.toneOn_event (s : State) (t : Taking) (r : RxIx) (hd : (s.calls.rx r).onDue = true) :
    State.Event s (s.toneOn t r) := by
  have h := s.setCalls_event _ (Calls.qualified_reach r s.calls hd)
  unfold State.toneOn
  dsimp only
  split
  · exact h.trans (State.hand_event ..)
  · exact h

/-! ### Commands -/

/-- A command row takes the command in flight when it is its own, and otherwise changes nothing. -/
theorem takeCommand_next {cmd : Cmd} {body : Params → State → Reply} {s t : State}
    (h : takeCommand cmd body s = .next t) :
    t = s ∨ ∃ f, s.resetAsserted = false ∧ s.mbox.inFlight = some f ∧ f.code = cmd.code ∧
      t = (body f.params s).state.mail (Mailbox.post (body f.params s).code (body f.params s).bytes) := by
  unfold takeCommand awake at h
  injection h with h
  split at h
  · exact .inl h.symm
  · next hr =>
    dsimp only at h
    split at h
    · next f hf =>
      split at h
      · next hc => exact .inr ⟨f, by simpa using hr, hf, hc, h.symm⟩
      · exact .inl h.symm
    · exact .inl h.symm

/-- A command that is its row's own, taken out of reset, posts its reply. -/
theorem takeCommand_taken {cmd : Cmd} (body : Params → State → Reply) {s : State} {p : Params}
    (hr : s.resetAsserted = false) (hf : s.mbox.inFlight = some ⟨cmd.code, p⟩) :
    takeCommand cmd body s = .next ((body p s).state.mail (Mailbox.post (body p s).code (body p s).bytes)) := by
  simp [takeCommand, awake, hr, hf]

/-- The three ways through the checks of R165. -/
theorem checked_cases {α : Type} (allowed : OpState → Bool) (args : Params → Option α) (body : α → State → Reply)
    (p : Params) (s : State) :
    (args p = none ∧ checked allowed args body p s = refuse .badArg s) ∨
      (∃ a, args p = some a ∧ allowed s.op = false ∧ checked allowed args body p s = refuse .wrongMode s) ∨
      ∃ a, args p = some a ∧ allowed s.op = true ∧ checked allowed args body p s = body a s := by
  unfold checked
  cases h : args p with
  | none => simp
  | some a => cases ho : allowed s.op <;> simp

/-- What holds of a refusal and of the body's reply holds of the checked reply. -/
theorem checked_keeps {α : Type} {P : State → Prop} {allowed : OpState → Bool} {args : Params → Option α}
    {body : α → State → Reply} {p : Params} {s : State} (hs : P s)
    (hb : ∀ a, args p = some a → allowed s.op = true → P (body a s).state) : P (checked allowed args body p s).state := by
  rcases checked_cases allowed args body p s with ⟨-, h⟩ | ⟨a, -, -, h⟩ | ⟨a, ha, ho, h⟩
  · rw [h]; exact hs
  · rw [h]; exact hs
  · rw [h]; exact hb a ha ho

@[simp] theorem carried_state (bytes : List Byte) (s : State) : (carried bytes s).state = s := rfl
@[simp] theorem carried_code (bytes : List Byte) (s : State) : (carried bytes s).code = .ok := rfl
@[simp] theorem carried_bytes (bytes : List Byte) (s : State) : (carried bytes s).bytes = bytes := rfl
@[simp] theorem refuse_state (code : Completion) (s : State) : (refuse code s).state = s := rfl
@[simp] theorem refuse_code (code : Completion) (s : State) : (refuse code s).code = code := rfl
@[simp] theorem refuse_bytes (code : Completion) (s : State) : (refuse code s).bytes = [] := rfl
@[simp] theorem withSessions_state (c : Chan) (d : Option Chan) (k : Calls) (s : State) :
    (withSessions c d k s).state = s.close k := rfl
@[simp] theorem withSessions_code (c : Chan) (d : Option Chan) (k : Calls) (s : State) :
    (withSessions c d k s).code = .ok := rfl
@[simp] theorem withSessions_bytes (c : Chan) (d : Option Chan) (k : Calls) (s : State) :
    (withSessions c d k s).bytes = sessionResult k c d := by simp [withSessions]
@[simp] theorem withGroup_state (g : GroupIx) (f : Group → Group) (s : State) :
    (withGroup g f s).state = { s with calls := s.calls.alterGroup g f } := rfl
@[simp] theorem withWatch_state (i : WatchIx) (f : Watch → Watch) (s : State) :
    (withWatch i f s).state =
      { s with attn := { s.attn with watches := put s.attn.watches i (f (look s.attn.watches i)) } } := rfl

@[simp] theorem startBody_op (s : State) : (startBody () s).state.op = .run := by
  unfold startBody
  dsimp only
  rw [carried_state, State.close_op]

@[simp] theorem startBody_calls (s : State) :
    (startBody () s).state.calls = s.calls.takeUp { s with op := .run }.env := by
  unfold startBody
  dsimp only
  rw [carried_state, State.close_calls]

@[simp] theorem stopBody_calls (s : State) : (stopBody () s).state.calls = s.calls.stopAll := by
  unfold stopBody
  dsimp only
  rw [carried_state, State.endStopping_calls, State.close_calls]

@[simp] theorem receiverServiceBody_calls (a : RxIx × Bool) (s : State) : (receiverServiceBody a s).state.calls =
    if a.2 then s.calls.putInService s.env a.1 else s.calls.withdraw a.1 := by
  unfold receiverServiceBody
  dsimp only
  rw [carried_state, State.close_calls]

theorem blockBody_event (c : Chan) (s : State) : State.Event s (blockBody c s).state := by
  unfold blockBody
  split
  · exact s.close_event _ (Move.enter _ c _ _ (.refl _)).reach
  · exact .refl s

theorem restoreBody_event (c : Chan) (s : State) : State.Event s (restoreBody c s).state := by
  unfold restoreBody
  split
  · exact s.close_event _ (Calls.enterIdle_reach ..)
  · exact .refl s

theorem receiverServiceBody_event (a : RxIx × Bool) (s : State) : State.Event s (receiverServiceBody a s).state := by
  unfold receiverServiceBody
  refine s.close_event _ ?_
  split
  · exact Calls.putInService_reach ..
  · exact Calls.withdraw_reach ..

theorem holdBody_event (c : Chan) (s : State) : State.Event s (holdBody c s).state := by
  unfold holdBody
  split
  · exact s.close_event _ (Calls.consult_reach ..)
  · exact .refl s

theorem retrieveBody_event (c : Chan) (s : State) : State.Event s (retrieveBody c s).state := by
  unfold retrieveBody
  split
  · exact s.close_event _ (Calls.returnToHeld_reach ..)
  · exact .refl s

theorem transferBody_event (c : Chan) (s : State) : State.Event s (transferBody c s).state := by
  unfold transferBody
  split
  · exact s.close_event _ (Calls.transfer_reach ..)
  · exact .refl s

theorem dropBody_event (c : Chan) (s : State) : State.Event s (dropBody c s).state := by
  unfold dropBody
  split <;> first
    | exact .refl s
    | exact s.close_event _ (Calls.dropRinging_reach ..)
    | exact s.close_event _ (Calls.dropSession_reach ..)

theorem placeBody_event (a : Chan × PlaceOn) (s : State) : State.Event s (placeBody a s).state := by
  unfold placeBody
  split
  · split
    · exact s.close_event _ (Calls.huntFresh_reach ..)
    · split
      · exact s.close_event _ (Calls.placeDirect_reach ..)
      · exact .refl s
  · exact .refl s

theorem connectBody_event (a : Chan × Chan) (s : State) : State.Event s (connectBody a s).state := by
  unfold connectBody
  split
  · exact s.close_event _ (Calls.pair_reach ..)
  · exact .refl s

theorem setListenBody_event (a : Chan × Listen) (s : State) : State.Event s (setListenBody a s).state := by
  unfold setListenBody
  split
  · exact s.setCalls_event _ (Move.listen _ _ _).reach
  · exact .refl s

theorem conferenceBody_event (c : Chan) (s : State) : State.Event s (conferenceBody c s).state := by
  unfold conferenceBody
  split
  · exact .refl s
  · split
    · exact .refl s
    · exact s.close_event _ (Calls.formBridge_reach ..)

theorem joinBody_event (a : BridgeIx × Chan) (s : State) : State.Event s (joinBody a s).state := by
  unfold joinBody
  split
  · exact .refl s
  · split
    · exact .refl s
    · split
      · exact s.close_event _ (Calls.joinBridge_reach ..)
      · exact .refl s

theorem State.configure_still (a : ConfigArgs) (s : State) : State.Still s (s.configure a) := by
  unfold State.configure
  dsimp only
  split
  · exact ⟨rfl, rfl, rfl, rfl, rfl, rfl, rfl, rfl, rfl, rfl, rfl, rfl, rfl, rfl, rfl, rfl⟩
  · unfold State.reclassed
    constructor <;> simp

end Sys2Proof.Machine
end

