-- ==== Sys2Proof/Laws/Stands.lean ====
section
/-! SUPPORT. What stands at one channel after each shared operation, and the operations that leave all but a few channels
as they were: the lemmas behind the statements' `stands`, `sameAt` and `onlyAt`. -/

namespace Sys2Proof.Machine

/-! ### The gate and the taking of a command -/

theorem awake_on (f : State → State) {s : State} (h : s.resetAsserted = false) : awake f s = .next (f s) := by
  simp [awake, h]

theorem awake_held (f : State → State) {s : State} (h : s.resetAsserted = true) : awake f s = .next s := by
  simp [awake, h]

theorem takeCommand_held {cmd : Cmd} (body : Params → State → Reply) {s : State} (h : s.resetAsserted = true) :
    takeCommand cmd body s = .next s := awake_held _ h

/-- A command taken with good parameters in a state that accepts it. -/
theorem takeChecked {α : Type} {cmd : Cmd} {allowed : OpState → Bool} {args : Params → Option α} {a : α}
    (body : α → State → Reply) {s : State} {p : Params} (ht : s.taking cmd p) (ha : args p = some a)
    (ho : allowed s.op = true) :
    takeCommand cmd (checked allowed args body) s =
      .next ((body a s).state.mail (Mailbox.post (body a s).code (body a s).bytes)) := by
  rw [takeCommand_taken _ ht.1 ht.2]
  simp [checked, ha, ho]

theorem takeBadArg {α : Type} {cmd : Cmd} {allowed : OpState → Bool} {args : Params → Option α}
    (body : α → State → Reply) {s : State} {p : Params} (ht : s.taking cmd p) (ha : args p = none) :
    takeCommand cmd (checked allowed args body) s = .next (s.mail (Mailbox.post .badArg [])) := by
  rw [takeCommand_taken _ ht.1 ht.2]
  simp [checked, ha]

theorem takeWrongMode {α : Type} {cmd : Cmd} {allowed : OpState → Bool} {args : Params → Option α} {a : α}
    (body : α → State → Reply) {s : State} {p : Params} (ht : s.taking cmd p) (ha : args p = some a)
    (ho : allowed s.op = false) :
    takeCommand cmd (checked allowed args body) s = .next (s.mail (Mailbox.post .wrongMode [])) := by
  rw [takeCommand_taken _ ht.1 ht.2]
  simp [checked, ha, ho]

theorem readFin_eq_some {n : Nat} {b : Byte} {i : Fin n} (h : b.toNat = i) : readFin n b = some i := by
  unfold readFin
  simp [h]

theorem readFin_eq_none {n : Nat} {b : Byte} (h : n ≤ b.toNat) : readFin n b = none := by
  unfold readFin
  simp [Nat.not_lt.mpr h]

theorem readChan_eq_some {p : Params} {c : Chan} (h : (look p 0).toNat = c) : readChan p = some c := readFin_eq_some h

/-! ### Frames -/

@[simp] theorem frameStart_frameBits (a b : Byte) (x y : Bool) : frameStart (frameBits a b x y) = y := by
  simp only [frameStart, frameBits, BitVec.getLsbD_append]; cases x <;> cases y <;> simp

@[simp] theorem frameByte0_frameBits (a b : Byte) (x y : Bool) : frameByte0 (frameBits a b x y) = a := by
  refine BitVec.eq_of_getLsbD_eq fun i hi => ?_
  simp only [frameByte0, frameBits, BitVec.getLsbD_extractLsb', BitVec.getLsbD_append]
  simp [hi, show ¬ 9 + i < 1 by omega]

@[simp] theorem frameByte1_frameBits (a b : Byte) (x y : Bool) : frameByte1 (frameBits a b x y) = b := by
  refine BitVec.eq_of_getLsbD_eq fun i hi => ?_
  simp only [frameByte1, frameBits, BitVec.getLsbD_extractLsb', BitVec.getLsbD_append]
  simp [hi, show ¬ 1 + i < 1 by omega, show 1 + i - 1 = i by omega]

@[simp] theorem frameStop_frameBits (a b : Byte) (x y : Bool) : frameStop (frameBits a b x y) = x := by
  simp only [frameStop, frameBits, BitVec.getLsbD_append]; cases x <;> simp

/-- The three tests of R29 pass a good report, and its fields read back. -/
theorem readReport_good (c : Chan) (cond : Condition) (level : Bool) :
    readReport (frameBits (reportByte c cond level) (frameCheck (reportByte c cond level)) false) =
      some ⟨c, cond, level⟩ := by
  simp only [readReport, frameByte0_frameBits, frameByte1_frameBits, frameStop_frameBits]
  revert c
  cases cond <;> cases level <;> decide

theorem exec_goodReport (c : Chan) (cond : Condition) (level : Bool) (t : Taking) {s : State}
    (h : s.resetAsserted = false) : exec (goodReport c cond level t) s = .next (s.route t ⟨c, cond, level⟩) := by
  simp only [goodReport, exec, execConditionReport, awake_on _ h, readReport_good, frameStart_frameBits, if_true]

/-! ### A record that enters a state -/

@[simp] theorem Session.moved_state (r : Session) (st : SState) : (r.moved st).state = st := rfl
@[simp] theorem Session.moved_cls (r : Session) (st : SState) : (r.moved st).cls = r.cls := rfl
@[simp] theorem Session.moved_digitMode (r : Session) (st : SState) : (r.moved st).digitMode = r.digitMode := rfl
@[simp] theorem Session.moved_serviceClass (r : Session) (st : SState) : (r.moved st).serviceClass = r.serviceClass := rfl
@[simp] theorem Session.moved_flashMode (r : Session) (st : SState) : (r.moved st).flashMode = r.flashMode := rfl
@[simp] theorem Session.moved_answerGroup (r : Session) (st : SState) : (r.moved st).answerGroup = r.answerGroup := rfl
@[simp] theorem Session.moved_toneKind (r : Session) (st : SState) : (r.moved st).toneKind = r.toneKind := rfl
@[simp] theorem Session.moved_timer (r : Session) (st : SState) : (r.moved st).timer = none := rfl

/-! ### One channel -/

theorem Calls.sameAt_refl (d : Chan) (k : Calls) : Calls.sameAt d k k := ⟨⟨rfl, rfl, rfl, rfl⟩, rfl⟩

theorem Calls.sameAt_trans {d : Chan} {k l m : Calls} (h1 : Calls.sameAt d k l) (h2 : Calls.sameAt d l m) :
    Calls.sameAt d k m := by
  obtain ⟨⟨a1, a2, a3, a4⟩, a5⟩ := h1
  obtain ⟨⟨b1, b2, b3, b4⟩, b5⟩ := h2
  exact ⟨⟨b1.trans a1, b2.trans a2, b3.trans a3, b4.trans a4⟩, b5.trans a5⟩

theorem Calls.sameAt_enter {c d : Chan} (h : d ≠ c) (k : Calls) (st : SState) (f : Session → Session) :
    Calls.sameAt d k (k.enter c st f) := by
  have h' : c ≠ d := h.symm
  refine ⟨⟨?_, ?_, ?_, ?_⟩, ?_⟩ <;> simp [h']

theorem Calls.sameAt_alter {c d : Chan} (h : d ≠ c) (k : Calls) (f : Session → Session) :
    Calls.sameAt d k (k.alter c f) := by
  have h' : c ≠ d := h.symm
  refine ⟨⟨?_, ?_, ?_, ?_⟩, ?_⟩ <;> simp [h']

theorem Calls.sameAt_raise {c d : Chan} (h : d ≠ c) (e : Env) (n : Notice) (k : Calls) :
    Calls.sameAt d k (k.raise e n c) := by
  have h' : c ≠ d := h.symm
  refine ⟨⟨?_, ?_, ?_, ?_⟩, ?_⟩ <;> simp [h', Calls.notices_raise]

theorem Calls.sameAt_setOut {c d : Chan} (h : d ≠ c) (k : Calls) (v : Levels) : Calls.sameAt d k (k.setOut c v) := by
  have h' : c ≠ d := h.symm
  refine ⟨⟨?_, ?_, ?_, ?_⟩, ?_⟩ <;> simp [h']

theorem Calls.sameAt_setRx (d : Chan) (k : Calls) (r : RxIx) (x : Receiver) : Calls.sameAt d k (k.setRx r x) :=
  ⟨⟨rfl, rfl, rfl, rfl⟩, rfl⟩

theorem Calls.sameAt_setMembers (d : Chan) (k : Calls) (b : BridgeIx) (l : List Chan) :
    Calls.sameAt d k (k.setMembers b l) := ⟨⟨rfl, rfl, rfl, rfl⟩, rfl⟩

theorem Calls.sameAt_groups (d : Chan) (k : Calls) (v : Vector Group 8) : Calls.sameAt d k { k with groups := v } :=
  ⟨⟨rfl, rfl, rfl, rfl⟩, rfl⟩

theorem Calls.sameAt_rxQueue (d : Chan) (k : Calls) (q : List Chan) : Calls.sameAt d k { k with rxQueue := q } :=
  ⟨⟨rfl, rfl, rfl, rfl⟩, rfl⟩

/-- A channel that stands as it was keeps what stood at it. -/
theorem Calls.stands_of_sameAt {d : Chan} {k l : Calls} (h : Calls.sameAt d k l) {r : Session} {x : Listen} {v : Levels}
    {n : NoticeSet} (hk : k.stands d r x v n) : l.stands d r x v n := by
  obtain ⟨⟨a1, a2, a3, a4⟩, -⟩ := h
  obtain ⟨b1, b2, b3, b4⟩ := hk
  exact ⟨a1.trans b1, a2.trans b2, a3.trans b3, a4.trans b4⟩

/-- What stands at a channel that enters a state. -/
theorem Calls.stands_enter (c : Chan) (st : SState) (f : Session → Session) (k : Calls) :
    (k.enter c st f).stands c (f ((k.ses c).moved st)) (f ((k.ses c).moved st)).listen
      ((f ((k.ses c).moved st)).levels (k.levels c)) (look k.notices c) := by
  refine ⟨?_, ?_, ?_, ?_⟩ <;> simp

theorem Calls.onlyAt_refl (cs : List Chan) (k : Calls) : Calls.onlyAt cs k k :=
  ⟨fun d _ => Calls.sameAt_refl d k, rfl, ⟨rfl, rfl⟩, rfl, rfl⟩

theorem Calls.onlyAt_trans {cs : List Chan} {k l m : Calls} (h1 : Calls.onlyAt cs k l) (h2 : Calls.onlyAt cs l m) :
    Calls.onlyAt cs k m := by
  obtain ⟨a1, a2, ⟨a3, a4⟩, a5, a6⟩ := h1
  obtain ⟨b1, b2, ⟨b3, b4⟩, b5, b6⟩ := h2
  exact ⟨fun d h => Calls.sameAt_trans (a1 d h) (b1 d h), b2.trans a2, ⟨b3.trans a3, b4.trans a4⟩, b5.trans a5, b6.trans a6⟩

theorem Calls.onlyAt_enter {cs : List Chan} {c : Chan} (h : c ∈ cs) (k : Calls) (st : SState) (f : Session → Session) :
    Calls.onlyAt cs k (k.enter c st f) :=
  ⟨fun _ hd => Calls.sameAt_enter (ne_of_mem_of_not_mem h hd).symm k st f, rfl, ⟨rfl, rfl⟩, rfl, rfl⟩

theorem Calls.onlyAt_alter {cs : List Chan} {c : Chan} (h : c ∈ cs) (k : Calls) (f : Session → Session) :
    Calls.onlyAt cs k (k.alter c f) :=
  ⟨fun _ hd => Calls.sameAt_alter (ne_of_mem_of_not_mem h hd).symm k f, rfl, ⟨rfl, rfl⟩, rfl, rfl⟩

theorem Calls.onlyAt_raise {cs : List Chan} {c : Chan} (h : c ∈ cs) (e : Env) (n : Notice) (k : Calls) :
    Calls.onlyAt cs k (k.raise e n c) :=
  ⟨fun _ hd => Calls.sameAt_raise (ne_of_mem_of_not_mem h hd).symm e n k, by simp, ⟨by simp, by simp⟩, by simp, by simp⟩

theorem Calls.onlyAt_setOut {cs : List Chan} {c : Chan} (h : c ∈ cs) (k : Calls) (v : Levels) :
    Calls.onlyAt cs k (k.setOut c v) :=
  ⟨fun _ hd => Calls.sameAt_setOut (ne_of_mem_of_not_mem h hd).symm k v, rfl, ⟨rfl, rfl⟩, rfl, rfl⟩

/-! ### What the events of a state read -/

@[simp] theorem State.env_time (s : State) (i : ParamIx) : s.env.time i = look s.params.current i := by
  simp only [Env.time, State.env]
@[simp] theorem State.env_mask (s : State) : s.env.mask = s.params.mask := by simp only [State.env]
@[simp] theorem State.env_op (s : State) : s.env.op = s.op := by simp only [State.env]
@[simp] theorem State.env_plan (s : State) : s.env.plan = s.plan := by simp only [State.env]
@[simp] theorem State.env_loopQ (s : State) : s.env.loopQ = s.loopQ := by simp only [State.env]
@[simp] theorem State.env_ringQ (s : State) : s.env.ringQ = s.ringQ := by simp only [State.env]

/-! ### Notices -/

/-- A notice raised on `c` stands in its set as the statements write it. -/
theorem Calls.notices_raise_self (s : State) (e : Env) (he : e.mask = s.params.mask) (n : Notice) (c : Chan) (k : Calls)
    (h : look k.notices c = look s.calls.notices c) : look (k.raise e n c).notices c = s.recorded [n] c := by
  rw [Calls.notices_raise, h, he]
  simp [State.recorded, raisedIn]

theorem State.recorded_nil (s : State) (c : Chan) : s.recorded [] c = s.noticesAt c := rfl

/-! ### Ringing sets -/

theorem mem_allChans (c : Chan) : c ∈ allChans := by simp [allChans]

theorem Calls.mem_ringSet_iff (k : Calls) (o d : Chan) : d ∈ k.ringSet o ↔ k.ringsFor o d := by
  simp [Calls.ringSet, Calls.ringsFor, mem_allChans]

theorem Session.moved_idle_twice (r : Session) : (r.moved .idle).moved .idle = r.moved .idle := by
  simp [Session.moved, SState.hasPeer, SState.rings, SState.placing]

theorem Calls.toIdle_stands (c : Chan) (k : Calls) :
    (k.toIdle c).stands c ((k.ses c).moved .idle) .none noOutput (look k.notices c) := by
  refine ⟨?_, ?_, ?_, ?_⟩ <;> simp [Calls.toIdle, Session.listen, Session.levels, Session.moved, noOutput]

/-- A list of channels cleared to IDLE: each of them stands in IDLE. -/
theorem Calls.foldIdle_stands (l : List Chan) (k : Calls) (d : Chan) (h : d ∈ l) :
    (l.foldl (fun k d => k.toIdle d) k).stands d ((k.ses d).moved .idle) .none noOutput (look k.notices d) := by
  induction l generalizing k with
  | nil => cases h
  | cons c l ih =>
    by_cases hd : d ∈ l
    · have := ih (k.toIdle c) hd
      by_cases e : c = d
      · subst e
        obtain ⟨h1, h2, h3, h4⟩ := k.toIdle_stands c
        rw [h1, Session.moved_idle_twice, h4] at this
        exact this
      · obtain ⟨⟨h1, -, -, h4⟩, -⟩ := Calls.sameAt_enter (Ne.symm e) k .idle id
        unfold Calls.toIdle at this ⊢
        rw [h1, h4] at this
        exact this
    · have hc : d = c := by simpa [hd] using h
      subst hc
      have hs := k.toIdle_stands d
      clear ih h
      show (l.foldl (fun k d => k.toIdle d) (k.toIdle d)).stands d _ _ _ _
      generalize k.toIdle d = k' at hs
      induction l generalizing k' with
      | nil => exact hs
      | cons c l ih =>
        refine ih (by simp_all) _ (Calls.stands_of_sameAt (Calls.sameAt_enter ?_ k' .idle id) hs)
        intro e; simp_all

/-- A list of channels cleared to IDLE: only they change. -/
theorem Calls.foldIdle_only (l : List Chan) (k : Calls) : Calls.onlyAt l k (l.foldl (fun k d => k.toIdle d) k) := by
  suffices h : ∀ m : List Chan, (∀ d ∈ m, d ∈ l) → ∀ k, Calls.onlyAt l k (m.foldl (fun k d => k.toIdle d) k) from
    h l (fun _ h => h) k
  intro m
  induction m with
  | nil => intro _ k; exact Calls.onlyAt_refl l k
  | cons c m ih =>
    intro hm k
    exact Calls.onlyAt_trans (Calls.onlyAt_enter (hm c (by simp)) k .idle id) (ih (fun d hd => hm d (by simp [hd])) _)

/-- The ring outputs of a list of channels. -/
theorem Calls.foldRing_out (on : Bool) (l : List Chan) (k : Calls) :
    (l.foldl (fun k d => k.setOut d ⟨on, false⟩) k) =
      { k with out := (l.foldl (fun k d => k.setOut d ⟨on, false⟩) k).out } := by
  induction l generalizing k with
  | nil => rfl
  | cons c l ih => exact (ih (k.setOut c ⟨on, false⟩)).trans rfl

theorem Calls.foldRing_levels (on : Bool) (l : List Chan) (k : Calls) (d : Chan) :
    (l.foldl (fun k d => k.setOut d ⟨on, false⟩) k).levels d = if d ∈ l then ⟨on, false⟩ else k.levels d := by
  induction l generalizing k with
  | nil => simp
  | cons c l ih =>
    rw [List.foldl_cons, ih]
    by_cases h : d ∈ l
    · simp [h]
    · by_cases e : c = d
      · subst e; simp [h]
      · simp [h, e, Ne.symm e]

/-- The ring outputs of a ringing set: nothing but them changes. -/
theorem Calls.ringOutputs_out (o : Chan) (on : Bool) (k : Calls) :
    k.ringOutputs o on = { k with out := (k.ringOutputs o on).out } := Calls.foldRing_out ..

@[simp] theorem Calls.ringOutputs_ses (o : Chan) (on : Bool) (k : Calls) (d : Chan) :
    (k.ringOutputs o on).ses d = k.ses d := by
  rw [Calls.ringOutputs_out]
  rfl

@[simp] theorem Calls.ringOutputs_notices (o : Chan) (on : Bool) (k : Calls) :
    (k.ringOutputs o on).notices = k.notices := by
  rw [Calls.ringOutputs_out]

theorem Calls.ringOutputs_levels (o : Chan) (on : Bool) (k : Calls) (d : Chan) :
    (k.ringOutputs o on).levels d = if d ∈ k.ringSet o then ⟨on, false⟩ else k.levels d := Calls.foldRing_levels ..

/-! ### What entering IDLE leads to, with the lines at rest and nobody waiting -/

theorem Calls.freePath_noQueue (e : Env) (c : Chan) (k : Calls) (h : ∀ g, (k.group g).queue = []) :
    k.freePath e c = k := by
  have : allGroups.find? (k.queueServes c) = none := by
    rw [List.find?_eq_none]
    intro g _
    simp [Calls.queueServes, h g]
  simp [Calls.freePath, this]

theorem Calls.lineCheck_rest (e : Env) (c : Chan) (k : Calls)
    (hs : (k.ses c).cls = .station → (look e.loopQ c).state = .onhook ∨ (look e.loopQ c).state = .seizeTiming)
    (ht : (k.ses c).cls = .trunk → (look e.ringQ c).state ≠ .inBurst) : k.lineCheck e c = k := by
  unfold Calls.lineCheck
  split
  · next h => rcases hs h with h | h <;> simp [h]
  · next h => simp [ht h]
  · rfl

theorem Calls.afterIdle_rest (e : Env) (c : Chan) (k : Calls)
    (hs : (k.ses c).cls = .station → (look e.loopQ c).state = .onhook ∨ (look e.loopQ c).state = .seizeTiming)
    (ht : (k.ses c).cls = .trunk → (look e.ringQ c).state ≠ .inBurst) (h : ∀ g, (k.group g).queue = []) :
    k.afterIdle e c = k := by
  unfold Calls.afterIdle
  simp only [Calls.lineCheck_rest e c k hs ht, Calls.freePath_noQueue e c k h]
  simp

/-- Stages 2 and 3 of R27 do nothing for channels at rest while no camp-on queue holds anybody. -/
theorem Calls.idleStages_rest (e : Env) (cs : List Chan) (k : Calls)
    (hs : ∀ c ∈ cs, (k.ses c).cls = .station →
      (look e.loopQ c).state = .onhook ∨ (look e.loopQ c).state = .seizeTiming)
    (ht : ∀ c ∈ cs, (k.ses c).cls = .trunk → (look e.ringQ c).state ≠ .inBurst) (h : ∀ g, (k.group g).queue = []) :
    k.idleStages e cs = k := by
  unfold Calls.idleStages
  split
  · induction cs with
    | nil => rfl
    | cons c cs ih =>
      rw [List.foldl_cons, Calls.afterIdle_rest e c k (hs c (by simp)) (ht c (by simp)) h]
      exact ih (fun d hd => hs d (by simp [hd])) fun d hd => ht d (by simp [hd])
  · rfl

theorem Calls.idleStages_nil (e : Env) (k : Calls) : k.idleStages e [] = k := by
  unfold Calls.idleStages
  split <;> rfl

/-! ### Channels taken up one after the other -/

@[simp] theorem State.takenUp_nil (s : State) (k l : Calls) : s.takenUp [] k l ↔ l = k := Iff.rfl

theorem State.takenUp_cons (s : State) (d : Chan) (ds : List Chan) (k l : Calls) : s.takenUp (d :: ds) k l ↔ ∃ m,
    ((k.ses d).state = .idle → ({ s with calls := k } : State).entersIdle d m) ∧
      ((k.ses d).state ≠ .idle → m = k) ∧ s.takenUp ds m l := Iff.rfl

/-- The taking up of two lists in turn is that of the one after the other. -/
theorem State.takenUp_append (s : State) (ds es : List Chan) (k m l : Calls) (h1 : s.takenUp ds k m)
    (h2 : s.takenUp es m l) : s.takenUp (ds ++ es) k l := by
  induction ds generalizing k with
  | nil => cases h1; exact h2
  | cons d ds ih => obtain ⟨n, ha, hb, hc⟩ := h1; exact ⟨n, ha, hb, ih n hc⟩

end Sys2Proof.Machine
end

