-- ==== Sys2Proof/Laws/Lines.lean ====
section
/-! SUPPORT. What the expiries of the qualifiers do when they are due, and the delivery of a qualified event in RUN; what
the start of dialling leaves. -/

namespace Sys2Proof.Machine

/-- The event of the Session Table that a qualified event is (R14, R15). -/
def Calls.event (e : Env) (c : Chan) (v : LineEvent) (k : Calls) : Calls :=
  match v with
  | .seize => k.takeSeize e c
  | .pulseDigit d => k.pulseDigit e c d
  | .flash => k.flash e c
  | .disconnect => k.takeDisconnect e c
  | .ringBurst => k.takeRingBurst e c
  | .ringGone => k.takeRingGone e c
  | .battOn => k.takeBattOn e c
  | .farOpen => k.takeFarOpen e c

/-- A delivery with none of its source in flight is taken in its step when it is to be taken now (log 1). -/
theorem State.hand_now (v : Delivery) (s : State) (h : s.deliveries.any v.follows = false) :
    s.hand .now v = s.close (s.calls.takeDelivery s.env v) := by simp [State.hand, h]

/-- A delivery is left in flight when it is to be taken later (log 1). -/
theorem State.hand_later (v : Delivery) (s : State) :
    s.hand .later v = { s with deliveries := s.deliveries ++ [v] } := by simp [State.hand]

theorem State.deliver_run (c : Chan) (v : LineEvent) (s : State) (hf : s.deliveries.any (Delivery.follows (.event c v)) = false)
    (h : s.op = .run) (hc : (s.calls.ses c).cls = v.cls) :
    s.deliver .now c (some v) = s.close (s.calls.event s.env c v) := by
  have he : s.env.op = .run := h
  simp only [State.deliver, State.hand_now _ _ hf, Calls.takeDelivery, Calls.take, he, hc, and_self, if_true]
  rfl

theorem exec_seizeQualExpiry (t : Taking) (c : Chan) {s : State} (hr : s.resetAsserted = false)
    (h1 : (look s.loopQ c).state = .seizeTiming) (h2 : (look s.loopQ c).timer = some (.seizeQual, 0)) :
    exec (.seizeQualExpiry c t) s = .next (({ s with
      loopQ := put s.loopQ c { look s.loopQ c with state := .offhook, pulses := 0, timer := none } }).deliver t c
        (some .seize)) := by
  simp [exec, execSeizeQualExpiry, awake_on _ hr, State.seizeQual, h1, h2, State.setLoopQ]

theorem exec_flashMaxExpiry (t : Taking) (c : Chan) {s : State} (hr : s.resetAsserted = false)
    (h1 : (look s.loopQ c).state = .openTiming) (h2 : (look s.loopQ c).timer = some (.flashMax, 0)) :
    exec (.flashMaxExpiry c t) s = .next (({ s with
      loopQ := put s.loopQ c { look s.loopQ c with state := .onhook, pulses := 0, timer := none } }).deliver t c
        (some .disconnect)) := by
  simp [exec, execFlashMaxExpiry, awake_on _ hr, State.flashMax, h1, h2, State.setLoopQ]

theorem exec_burstTimerExpiry (t : Taking) (c : Chan) {s : State} (hr : s.resetAsserted = false)
    (h1 : (look s.ringQ c).state = .burstTiming) (h2 : (look s.ringQ c).burst = some 0) :
    exec (.burstTimerExpiry c t) s = .next (({ s with
      ringQ := put s.ringQ c { look s.ringQ c with state := .inBurst, burst := none } }).deliver t c
        (some .ringBurst)) := by
  simp [exec, execBurstTimerExpiry, awake_on _ hr, State.burstEnd, h1, h2, State.setRingQ]

theorem exec_gapTimerExpiry (t : Taking) (c : Chan) {s : State} (hr : s.resetAsserted = false)
    (h1 : (look s.ringQ c).state = .gapTiming) (h2 : (look s.ringQ c).inCheck = false)
    (h3 : (look s.ringQ c).gap = some 0) :
    exec (.gapTimerExpiry c t) s = .next (({ s with
      ringQ := put s.ringQ c { look s.ringQ c with state := .ringIdle, gap := none } }).deliver t c
        (some .ringGone)) := by
  simp [exec, execGapTimerExpiry, awake_on _ hr, State.gapEnd, h1, h2, h3, State.setRingQ]

theorem exec_battSeizeQualExpiry (t : Taking) (c : Chan) {s : State} (hr : s.resetAsserted = false)
    (h : s.calls.batt c = ⟨.timing, some 0⟩) :
    exec (.battSeizeQualExpiry c t) s = .next (({ s with calls := { s.calls with
      battQ := put s.calls.battQ c ⟨.present, none⟩ } }).deliver t c (some .battOn)) := by
  simp [exec, execBattSeizeQualExpiry, awake_on _ hr, State.battOn, h, Calls.setBatt]

theorem exec_farOpenMinExpiry (t : Taking) (c : Chan) {s : State} (hr : s.resetAsserted = false)
    (h : s.calls.batt c = ⟨.dropTiming, some 0⟩) :
    exec (.farOpenMinExpiry c t) s = .next (({ s with calls := { s.calls with
      battQ := put s.calls.battQ c ⟨.absent, none⟩ } }).deliver t c (some .farOpen)) := by
  simp [exec, execFarOpenMinExpiry, awake_on _ hr, State.farOpen, h, Calls.setBatt]

/-- An expiry of the session timer, when it is due (R4). -/
theorem State.expire_due (kind : TimerKind) (c : Chan) (f : Env → Chan → Calls → Calls) {s : State}
    (h : (s.calls.ses c).timer = some ⟨kind, 0⟩) (hs : kind.runsIn (s.calls.ses c).state = true) :
    s.expire kind c f = s.close (f s.env c s.calls) := by
  simp [State.expire, Session.due, h, hs]

/-! ### Dialling -/

theorem Calls.lowestFree_eq_some {k : Calls} {r : RxIx} (h : (k.rx r).state = .free)
    (hl : ∀ q < r, (k.rx q).state ≠ .free) : k.lowestFree = some r := by
  unfold Calls.lowestFree allReceivers
  rw [List.find?_eq_some_iff_getElem]
  refine ⟨by simpa using h, r, by simp, by simp, ?_⟩
  intro j hj
  have := hl ⟨j, by omega⟩ (by simpa [Fin.lt_def] using hj)
  simpa using this

theorem Calls.lowestFree_eq_none {k : Calls} (h : ∀ r, (k.rx r).state ≠ .free) : k.lowestFree = none := by
  unfold Calls.lowestFree
  rw [List.find?_eq_none]
  intro r _
  simpa using h r

theorem Calls.startCollecting_stands (e : Env) (c : Chan) (r : Option RxIx) (k : Calls) :
    (k.startCollecting e c r).stands c { (k.ses c).moved .collecting with
        receiver := r, timer := some ⟨.firstDigit, e.time Param.firstDigitTime⟩ }
      (.tone .dial) noOutput (look k.notices c) := by
  refine ⟨?_, ?_, ?_, ?_⟩ <;>
    simp [Calls.startCollecting, Session.startTimer, Session.listen, Session.levels, noOutput, Session.moved]

theorem Calls.requestReceiver_frame (e : Env) (c : Chan) (k : Calls) :
    (∀ d, d ≠ c → k.sameAt d (k.requestReceiver e c)) ∧ (k.requestReceiver e c).battQ = k.battQ ∧
      (k.requestReceiver e c).groups = k.groups ∧ (k.requestReceiver e c).bridges = k.bridges := by
  unfold Calls.requestReceiver
  split
  · exact ⟨fun d hd => Calls.sameAt_trans (Calls.sameAt_setRx ..) (Calls.sameAt_enter hd _ _ _), rfl, rfl, rfl⟩
  · exact ⟨fun d hd => Calls.sameAt_trans (Calls.sameAt_rxQueue ..) (Calls.sameAt_enter hd _ _ _), rfl, rfl, rfl⟩

/-- The start of dialling changes the station's own record, the receivers and their wait queue alone. -/
theorem Calls.startDialling_frame (e : Env) (c : Chan) (k : Calls) :
    (∀ d, d ≠ c → k.sameAt d (k.startDialling e c)) ∧ (k.startDialling e c).battQ = k.battQ ∧
      (k.startDialling e c).groups = k.groups ∧ (k.startDialling e c).bridges = k.bridges := by
  unfold Calls.startDialling
  split
  · exact ⟨fun d hd => Calls.sameAt_enter hd _ _ _, rfl, rfl, rfl⟩
  · exact Calls.requestReceiver_frame e c k
  · exact Calls.requestReceiver_frame e c k

theorem Calls.startDialling_tone (e : Env) (c : Chan) (k : Calls) (h : (k.ses c).digitMode ≠ .pulse) :
    k.startDialling e c = k.requestReceiver e c := by
  unfold Calls.startDialling
  split
  · next hm => exact absurd hm h
  · rfl
  · rfl

/-- Digit mode PULSE collects without a receiver (R14). -/
theorem Calls.startDialling_pulse (e : Env) (c : Chan) (k : Calls) (h : (k.ses c).digitMode = .pulse) :
    k.samePool (k.startDialling e c) ∧
      (k.startDialling e c).stands c { (k.ses c).moved .collecting with
          receiver := none, timer := some ⟨.firstDigit, e.time Param.firstDigitTime⟩ }
        (.tone .dial) noOutput (look k.notices c) := by
  have hd : k.startDialling e c = k.startCollecting e c none := by simp [Calls.startDialling, h]
  rw [hd]
  exact ⟨⟨rfl, rfl⟩, k.startCollecting_stands e c none⟩

/-- The lowest-numbered FREE receiver is lent (R54). -/
theorem Calls.startDialling_lent (e : Env) (c : Chan) (k : Calls) (h : (k.ses c).digitMode ≠ .pulse) (r : RxIx)
    (hr : (k.rx r).state = .free) (hl : ∀ q < r, (k.rx q).state ≠ .free) :
    (k.startDialling e c).rxQueue = k.rxQueue ∧
      (k.startDialling e c).receivers = put k.receivers r ⟨(k.rx r).service, .quiet, some c, none, none, none⟩ ∧
      (k.startDialling e c).stands c { (k.ses c).moved .collecting with
          receiver := some r, timer := some ⟨.firstDigit, e.time Param.firstDigitTime⟩ }
        (.tone .dial) noOutput (look k.notices c) := by
  rw [k.startDialling_tone e c h]
  simp only [Calls.requestReceiver, Calls.lowestFree_eq_some hr hl, Calls.lend]
  exact ⟨rfl, rfl, Calls.startCollecting_stands e c (some r) (k.setRx r ((k.rx r).lentTo c))⟩

/-- With no receiver FREE the station waits in SEIZED (R54, R55). -/
theorem Calls.startDialling_waits (e : Env) (c : Chan) (k : Calls) (h : (k.ses c).digitMode ≠ .pulse)
    (hr : ∀ r, (k.rx r).state ≠ .free) :
    (k.startDialling e c).receivers = k.receivers ∧ (k.startDialling e c).rxQueue = k.rxQueue ++ [c] ∧
      (k.startDialling e c).stands c
        { (k.ses c).moved .seized with timer := some ⟨.rxWait, e.time Param.rxWaitNotice⟩ }
        .none noOutput (look k.notices c) := by
  rw [k.startDialling_tone e c h]
  simp only [Calls.requestReceiver, Calls.lowestFree_eq_none hr, Calls.waitForReceiver]
  refine ⟨rfl, rfl, ?_⟩
  exact Calls.stands_enter c .seized (fun r => r.startTimer .rxWait (e.time Param.rxWaitNotice))
    { k with rxQueue := k.rxQueue ++ [c] }

end Sys2Proof.Machine
end

