-- ==== Sys2Proof/Laws/Operating.lean ====
section
/-! SUPPORT. START and STOP: what the take-up of START leaves at a channel, and what STOP leaves of the call state. -/

namespace Sys2Proof.Machine

/-! ### START -/

/-- A seizure changes its channel and the receivers only. -/
theorem Calls.seizure_frame (e : Env) (c : Chan) (k : Calls) {d : Chan} (h : d ≠ c) : k.sameAt d (k.seizure e c) :=
  Calls.sameAt_trans (Calls.sameAt_raise h e .seize k) ((Calls.startDialling_frame e c _).1 d h)

/-- A channel outside a list of seizures stands. -/
theorem Calls.seizures_frame (e : Env) (l : List Chan) (k : Calls) {d : Chan} (h : d ∉ l) :
    k.sameAt d (l.foldl (fun k c => k.seizure e c) k) := by
  induction l generalizing k with
  | nil => exact Calls.sameAt_refl d k
  | cons c l ih =>
    simp only [List.mem_cons, not_or] at h
    exact Calls.sameAt_trans (k.seizure_frame e c h.1) (ih _ h.2)

/-- What a seizure leaves at a station of digit mode PULSE. -/
theorem Calls.seizure_pulse (s : State) (e : Env) (he : e.mask = s.params.mask) (hp : e.params = s.params.current)
    (c : Chan) (k : Calls) (hm : (k.ses c).digitMode = .pulse) (hn : look k.notices c = look s.calls.notices c) :
    (k.seizure e c).stands c
      { (k.ses c).moved .collecting with receiver := none, timer := s.timerOf .firstDigit Param.firstDigitTime }
      (.tone .dial) noOutput (s.recorded [.seize] c) := by
  have hd : k.seizure e c = (k.raise e .seize c).startCollecting e c none := by
    unfold Calls.seizure Calls.startDialling
    simp [hm]
  obtain ⟨h1, h2, h3, h4⟩ := (k.raise e .seize c).startCollecting_stands e c none
  rw [hd]
  refine ⟨?_, h2, h3, h4.trans (Calls.notices_raise_self s e he .seize c k hn)⟩
  rw [h1]
  simp [State.timerOf, Env.time, hp]

/-- A list of seizures with no channel twice, at a station of digit mode PULSE in it. -/
theorem Calls.seizures_pulse (s : State) (e : Env) (he : e.mask = s.params.mask) (hp : e.params = s.params.current)
    (l : List Chan) (hl : l.Nodup) (c : Chan) (hc : c ∈ l) (k : Calls) (hm : (k.ses c).digitMode = .pulse)
    (hn : look k.notices c = look s.calls.notices c) :
    (l.foldl (fun k c => k.seizure e c) k).stands c
      { (k.ses c).moved .collecting with receiver := none, timer := s.timerOf .firstDigit Param.firstDigitTime }
      (.tone .dial) noOutput (s.recorded [.seize] c) := by
  induction l generalizing k with
  | nil => cases hc
  | cons a l ih =>
    rw [List.nodup_cons] at hl
    by_cases e' : c = a
    · subst e'
      exact Calls.stands_of_sameAt (Calls.seizures_frame e l _ hl.1) (k.seizure_pulse s e he hp c hm hn)
    · obtain ⟨⟨h1, -, -, h4⟩, -⟩ := k.seizure_frame e a e'
      rw [← h1] at hm ⊢
      exact ih hl.2 (by simpa [e'] using hc) _ hm (h4.trans hn)

/-! ### STOP -/

@[simp] theorem Calls.stopAll_listen (k : Calls) (c : Chan) :
    look k.stopAll.listen c = if (k.ses c).active then .none else look k.listen c := by
  simp only [Calls.stopAll, look_tabulate]

@[simp] theorem Calls.stopAll_levels (k : Calls) (c : Chan) :
    k.stopAll.levels c = if (k.ses c).active then .rest else k.levels c := by
  simp only [Calls.stopAll, Calls.levels, look_tabulate]

@[simp] theorem Calls.stopAll_members (k : Calls) (b : BridgeIx) : k.stopAll.members b = [] := by
  simp [Calls.stopAll, Calls.members]

theorem Session.active_iff (r : Session) : r.active = true ↔ r.state ≠ .idle ∧ r.state ≠ .blocked := by
  simp [Session.active]

end Sys2Proof.Machine
end

