-- ==== Sys2Proof/Laws/Release.lean ====
section
/-! SUPPORT. What the stages of a release leave at each channel. -/

namespace Sys2Proof.Machine

/-- A record that differs in links that RELEASING clears enters RELEASING alike. -/
theorem Session.moved_releasing_of_links {r r' : Session}
    (h : r' = { r with receiver := r'.receiver, peer := r'.peer, holds := r'.holds }) :
    r'.moved .releasing = r.moved .releasing := by
  rw [h]; simp [Session.moved, SState.hasPeer]

/-- The return of a receiver touches the head of the wait queue alone. -/
theorem Calls.sameAt_returnReceiver (e : Env) (r : RxIx) (d : Chan) (k : Calls) (h : d ∉ k.rxQueue) :
    k.sameAt d (k.returnReceiver e r) := by
  unfold Calls.returnReceiver
  split
  · exact Calls.sameAt_setRx ..
  · exact Calls.sameAt_setRx ..
  · split
    · next hq =>
      refine Calls.sameAt_trans (Calls.sameAt_rxQueue ..)
        (Calls.sameAt_trans (Calls.sameAt_setRx ..) (Calls.sameAt_enter ?_ _ _ _))
      rintro rfl; simp [hq] at h
    · exact Calls.sameAt_setRx ..

/-- What giving up a state leaves of the channel's own record: only links that the next state clears change. -/
theorem Calls.giveUp_self (e : Env) (c : Chan) (k : Calls) (hp : (k.ses c).peer ≠ some c)
    (hr : (k.ses c).state = .collecting → c ∉ k.rxQueue)
    (hs : (k.ses c).state ≠ .outring ∧ (k.ses c).state ≠ .ringin) :
    (k.giveUp e c).ses c = { k.ses c with
      receiver := ((k.giveUp e c).ses c).receiver
      peer := ((k.giveUp e c).ses c).peer
      holds := ((k.giveUp e c).ses c).holds } ∧
    look (k.giveUp e c).notices c = look k.notices c := by
  unfold Calls.giveUp
  split
  · exact ⟨rfl, rfl⟩
  · next h =>
    split
    · next r hrx =>
      obtain ⟨⟨h1, -, -, h4⟩, -⟩ :=
        Calls.sameAt_returnReceiver e r c (k.alter c fun x => { x with receiver := none }) (hr h)
      rw [h1, h4]; simp
    · simp
  · next h => exact absurd h hs.1
  · next h => exact absurd h hs.2
  · split
    · next t ht =>
      have : t ≠ c := by rintro rfl; exact hp ht
      simp [Calls.toReleasing, this]
    · simp
  · simp
  · split
    · next t ht =>
      have : t ≠ c := by rintro rfl; exact hp ht
      simp only [Calls.dropPartner]
      split <;> simp [Calls.toReleasing, Calls.toToneout, this]
    · simp
  · simp only [Calls.freeHolder]
    split
    · next x hx => simp only [Calls.ses_alter]; split <;> simp
    · simp
  · simp only [Calls.leaveBridge]
    split
    · simp
    · next b hb =>
      split
      · next x y hxy =>
        have hx : x ∈ [x, y] := by simp
        have hy : y ∈ [x, y] := by simp
        rw [← hxy] at hx hy
        simp at hx hy
        simp [Calls.pair, Calls.toTalk, hx.2, hy.2]
      · simp
  · split
    · next t ht =>
      have : t ≠ c := by rintro rfl; exact hp ht
      simp [Calls.toToneout, this]
    · simp
  all_goals simp

/-- What stands at a channel that enters RELEASING. -/
theorem Calls.toReleasing_stands (e : Env) (c : Chan) (k : Calls) : (k.toReleasing e c).stands c
    { (k.ses c).moved .releasing with
      timer := some ⟨.guard, if (k.ses c).cls = .trunk then e.time Param.guardTrunk else e.time Param.guardStation⟩ }
    .none noOutput (look k.notices c) := by
  refine ⟨?_, ?_, ?_, ?_⟩ <;>
    simp [Calls.toReleasing, Session.startTimer, Session.listen, Session.levels, noOutput, Session.moved]

/-- What stands at a channel that enters TONEOUT. -/
theorem Calls.toToneout_stands (e : Env) (t : ToneOut) (c : Chan) (k : Calls) : (k.toToneout e t c).stands c
    { (k.ses c).moved .toneout with toneKind := t, timer := some ⟨.toneout, e.time Param.toneoutTime⟩ }
    (.tone (match t with | .busy => .busy | .reorder => .reorder)) noOutput (look k.notices c) := by
  refine ⟨?_, ?_, ?_, ?_⟩ <;> cases t <;>
    simp [Calls.toToneout, Session.startTimer, Session.listen, Session.levels, noOutput, Session.moved]

/-- What stands at a party whose partner has gone (R20). -/
theorem Calls.dropPartner_stands (e : Env) (p : Chan) (k : Calls) :
    ((k.ses p).cls = .trunk → (k.dropPartner e p).stands p
      { (k.ses p).moved .releasing with
        timer := some ⟨.guard, if (k.ses p).cls = .trunk then e.time Param.guardTrunk else e.time Param.guardStation⟩ }
      .none noOutput (look k.notices p)) ∧
    ((k.ses p).cls ≠ .trunk → (k.dropPartner e p).stands p
      { (k.ses p).moved .toneout with toneKind := .reorder, timer := some ⟨.toneout, e.time Param.toneoutTime⟩ }
      (.tone .reorder) noOutput (look k.notices p)) := by
  constructor
  · intro h; simp only [Calls.dropPartner]; rw [if_pos h]; exact Calls.toReleasing_stands ..
  · intro h; simp only [Calls.dropPartner]; rw [if_neg h]; exact Calls.toToneout_stands e .reorder p k

/-- Only that party changes. -/
theorem Calls.dropPartner_only (e : Env) {cs : List Chan} {p : Chan} (h : p ∈ cs) (k : Calls) :
    Calls.onlyAt cs k (k.dropPartner e p) := by
  unfold Calls.dropPartner; split
  · exact Calls.onlyAt_enter h ..
  · exact Calls.onlyAt_enter h ..

/-- The release of a party in TALK that holds nobody, in its stages (R16). -/
theorem Calls.release_talk (e : Env) (c p : Chan) (k : Calls) (hs : (k.ses c).state = .talk)
    (hh : (k.ses c).holds = none) (hp : (k.ses c).peer = some p) :
    k.release e c =
      (((k.alter c fun x => { x with peer := none }).dropPartner e p).toReleasing e c).raise e .release c := by
  have hret : k.returning c = [] := by simp [Calls.returning, hs, SState.rings]
  simp [Calls.release, Calls.unwind, Calls.handOnHeld, hh, hret, Calls.idleStages_nil, Calls.giveUp, hs, hp]

/-- Giving up a collection: the receiver is returned, and only the head of the wait queue is touched beside the channel. -/
theorem Calls.giveUp_collecting (e : Env) (c : Chan) (k : Calls) (hs : (k.ses c).state = .collecting)
    (hq : c ∉ k.rxQueue) :
    (∃ rx, (k.giveUp e c).ses c = { k.ses c with receiver := rx }) ∧
    look (k.giveUp e c).notices c = look k.notices c ∧
    (∀ d, d ≠ c → d ∉ k.rxQueue → k.sameAt d (k.giveUp e c)) ∧ (k.giveUp e c).levels c = k.levels c := by
  unfold Calls.giveUp
  rw [hs]
  dsimp only
  split
  · next r hr =>
    obtain ⟨⟨h1, h2, h3, h4⟩, -⟩ :=
      Calls.sameAt_returnReceiver e r c (k.alter c fun x => { x with receiver := none }) hq
    refine ⟨⟨none, by rw [h1, Calls.ses_alter_self]⟩, h4, ?_, by rw [h3]; rfl⟩
    intro d hd hq
    exact Calls.sameAt_trans (Calls.sameAt_alter hd ..) (Calls.sameAt_returnReceiver e r d _ hq)
  · exact ⟨⟨(k.ses c).receiver, rfl⟩, rfl, fun d _ _ => Calls.sameAt_refl d k, rfl⟩

/-- What stands at a station whose collection ends in TONEOUT REORDER. -/
theorem Calls.endReorder_stands (s : State) (c : Chan) (hs : (s.calls.ses c).state = .collecting)
    (hq : c ∉ s.calls.rxQueue) :
    (s.calls.endReorder s.env c).stands c
      { (s.calls.ses c).moved .toneout with toneKind := .reorder, timer := s.timerOf .toneout Param.toneoutTime }
      (.tone .reorder) noOutput (s.noticesAt c) := by
  obtain ⟨⟨rx, h1⟩, h2, -⟩ := Calls.giveUp_collecting s.env c s.calls hs hq
  have := Calls.toToneout_stands s.env .reorder c (s.calls.giveUp s.env c)
  rw [h1, h2] at this
  exact this

/-- A notice raised on a channel whose set stood as the event found it. -/
theorem Calls.stands_raise {k : Calls} {c : Chan} {r l v} (s : State) (n : Notice)
    (h : k.stands c r l v (s.noticesAt c)) :
    (k.raise s.env n c).stands c r l v (s.recorded [n] c) := by
  obtain ⟨h1, h2, h3, h4⟩ := h
  exact ⟨by simpa using h1, by simpa using h2, by simpa using h3, Calls.notices_raise_self s s.env rfl _ _ _ h4⟩

end Sys2Proof.Machine
end

