-- ==== Sys2Proof/Laws/GiveUp.lean ====
section
/-! SUPPORT. Everything that giving up what a state held leaves (R11), in the words of the statements. -/

namespace Sys2Proof.Machine

/-- The channels that giving up what `c` holds may change: the head of the wait queue its receiver goes to, its ringing
set, its partner, its holder, and the members of its bridge (R11). -/
def Calls.linked (k : Calls) (c d : Chan) : Prop :=
  ((k.ses c).state = .collecting ∧ d ∈ k.rxQueue) ∨
  ((k.ses c).state ∈ [SState.outring, .ringin] ∧ k.ringsFor c d) ∨
  ((k.ses c).state ∈ [SState.trunkwait, .talk, .seizing] ∧ (k.ses c).peer = some d) ∨
  ((k.ses c).state = .held ∧ (k.ses c).heldBy = some d) ∨
  ((k.ses c).state = .confer ∧ ∃ b, (k.ses c).bridge = some b ∧ d ∈ k.members b ∧ d ≠ c)

/-- The guard timer, by the environment of an event. -/
theorem State.guardOf_eq (s : State) (c : Chan) : s.guardOf c =
    some ⟨.guard,
      if (s.calls.ses c).cls = .trunk then s.env.time Param.guardTrunk else s.env.time Param.guardStation⟩ := by
  unfold State.guardOf State.timerOf; split <;> simp [State.env_time, *]

/-- A timer of a parameter's length, by the environment of an event. -/
theorem State.timerOf_eq (s : State) (kind : TimerKind) (i : ParamIx) : s.timerOf kind i = some ⟨kind,
  s.env.time i⟩ := by
  simp [State.timerOf]

/-- What the going of a party leaves at its partner (R20). -/
theorem Calls.dropPartner_sentAway (s : State) (p : Chan) (k : Calls) (h1 : k.ses p = s.calls.ses p)
  (h2 : look k.notices p = s.noticesAt p) :
    s.sentAway p (k.dropPartner s.env p) := by
  have := Calls.dropPartner_stands s.env p k
  rw [h1, h2] at this
  unfold State.sentAway
  rw [State.guardOf_eq, State.timerOf_eq]
  exact this

/-- What the return of a receiver leaves (R57, R58). -/
theorem Calls.returnReceiver_back (s : State) (r : RxIx) (cs : List Chan) (k : Calls)
    (hk1 : k.receivers = s.calls.receivers) (hk2 : k.rxQueue = s.calls.rxQueue)
    (hs : ∀ d, d ∉ cs → s.calls.sameAt d k) (hq : ∀ d ∈ s.calls.rxQueue, d ∉ cs) :
    s.receiverBack r cs (k.returnReceiver s.env r) := by
  have hrx : k.rx r = s.calls.rx r := by simp [Calls.rx, hk1]
  refine ⟨?_, ?_, ?_⟩
  · intro h
    have : k.returnReceiver s.env r = k.setRx r .retired := by
      unfold Calls.returnReceiver; rw [hrx]; split <;> simp_all
    rw [this]
    exact ⟨by simp [Calls.setRx, hk1, Receiver.retired], hk2, hs⟩
  · intro h h2
    have : k.returnReceiver s.env r = k.setRx r .freed := by
      unfold Calls.returnReceiver; rw [hrx, h, hk2, h2]
    rw [this]
    exact ⟨by simp [Calls.setRx, hk1, Receiver.freed], hk2.trans h2, hs⟩
  · intro x q h h2
    have hx : x ∉ cs := hq x (by simp [h2])
    have : k.returnReceiver s.env r = Calls.lend s.env r x { k with rxQueue := q } := by
      unfold Calls.returnReceiver; rw [hrx, h, hk2, h2]
    rw [this]
    refine ⟨?_, rfl, ?_, ?_⟩
    · show put k.receivers r ((k.rx r).lentTo x) = _
      rw [hrx, hk1, Receiver.lentTo, h]
    · intro d hd
      simp only [List.mem_cons, not_or] at hd
      exact Calls.sameAt_trans (hs d hd.2) (Calls.sameAt_trans (Calls.sameAt_rxQueue ..) (Calls.sameAt_trans
        (Calls.sameAt_setRx ..) (Calls.sameAt_enter hd.1 _ _ _)))
    · have := Calls.startCollecting_stands s.env x (some r) (Calls.setRx r ((k.rx r).lentTo x) { k with rxQueue := q })
      obtain ⟨⟨e1, -, -, e4⟩, -⟩ := hs x hx
      have f1 : (Calls.setRx r ((k.rx r).lentTo x) { k with rxQueue := q }).ses x = s.calls.ses x := e1
      have f4 : look (Calls.setRx r ((k.rx r).lentTo x) { k with rxQueue := q }).notices x = s.noticesAt x := e4
      rw [f1, f4] at this
      exact this

/-- Giving up what the state of `c` held leaves what R11 and R20 say. -/
theorem Calls.giveUp_gaveUp (s : State) (c : Chan) (k : Calls) (hk : k = s.calls) (hm : s.mayGiveUp c) :
    s.gaveUp c [c] (k.giveUp s.env c) := by
  subst hk
  obtain ⟨hp, hh, hq, -⟩ := hm
  have triv : ∀ d, d ∉ [c] → s.calls.sameAt d s.calls := fun d _ => Calls.sameAt_refl d _
  unfold State.gaveUp
  rcases hst : (s.calls.ses c).state with _ | _ | _ | _ | _ | _ | _ | _ | _ | _ | _ | _ | _ | _ | _ | _ | _
  case seized =>
    simp [Calls.giveUp, hst, State.othersStand]
    exact fun d hd => Calls.sameAt_rxQueue ..
  case collecting =>
    have hq := hq hst
    cases hr : (s.calls.ses c).receiver with
    | none => simp [Calls.giveUp, hst, hr, State.othersStand, Calls.samePool]; exact fun d _ => Calls.sameAt_refl d _
    | some r =>
      have := Calls.returnReceiver_back s r [c] (s.calls.alter c fun x => { x with receiver := none }) rfl rfl
        (fun d hd => Calls.sameAt_alter (by simpa using hd) ..) (by intro d hd; simp; rintro rfl; exact hq hd)
      simp [Calls.giveUp, hst, hr, Calls.samePool]
      refine ⟨?_, ?_, ?_, this⟩ <;> (unfold Calls.returnReceiver; split <;> (try split) <;> rfl)
  case outring =>
    have e : s.calls.giveUp s.env c = s.calls.clearRinging c := by simp [Calls.giveUp, hst]
    have hc : c ∉ s.calls.ringSet c := by rw [Calls.mem_ringSet_iff]; rintro ⟨h, -⟩; simp [hst] at h
    rw [e]
    have only := Calls.foldIdle_only (s.calls.ringSet c) s.calls
    obtain ⟨o1, o2, o3, o4, o5⟩ := only
    refine ⟨o2, fun _ _ => o3, fun _ => o4, fun _ => o5, by simp, by simp, by simp, ?_, by simp, by simp, by simp,
      by simp, by simp, by simp⟩
    intro _
    constructor
    · intro d hd
      have hdc : d ≠ c := by rintro rfl; exact hc ((Calls.mem_ringSet_iff ..).mpr hd)
      exact Calls.stands_of_sameAt (Calls.sameAt_alter hdc ..) (Calls.foldIdle_stands _ s.calls d
        ((Calls.mem_ringSet_iff ..).mpr hd))
    · intro d hd hd2
      exact Calls.sameAt_trans (o1 d (by rw [Calls.mem_ringSet_iff]; exact hd2)) (Calls.sameAt_alter
        (by simpa using hd) ..)
  case ringin =>
    have e : s.calls.giveUp s.env c = s.calls.clearRinging c := by simp [Calls.giveUp, hst]
    have hc : c ∉ s.calls.ringSet c := by rw [Calls.mem_ringSet_iff]; rintro ⟨h, -⟩; simp [hst] at h
    rw [e]
    have only := Calls.foldIdle_only (s.calls.ringSet c) s.calls
    obtain ⟨o1, o2, o3, o4, o5⟩ := only
    refine ⟨o2, fun _ _ => o3, fun _ => o4, fun _ => o5, by simp, by simp, by simp, ?_, by simp, by simp, by simp,
      by simp, by simp, by simp⟩
    intro _
    constructor
    · intro d hd
      have hdc : d ≠ c := by rintro rfl; exact hc ((Calls.mem_ringSet_iff ..).mpr hd)
      exact Calls.stands_of_sameAt (Calls.sameAt_alter hdc ..) (Calls.foldIdle_stands _ s.calls d
        ((Calls.mem_ringSet_iff ..).mpr hd))
    · intro d hd hd2
      exact Calls.sameAt_trans (o1 d (by rw [Calls.mem_ringSet_iff]; exact hd2)) (Calls.sameAt_alter
        (by simpa using hd) ..)
  case trunkwait =>
    refine ⟨?_, ?_, ?_, ?_, by simp, by simp, by simp, by simp, ?_, by simp, by simp, by simp, by simp, by simp⟩
    all_goals try (simp only [Calls.giveUp, hst]; split <;> simp [Calls.samePool, Calls.toReleasing, Calls.alter,
      Calls.setSes, Calls.enter]; done)
    intro t _ ht
    have htc : t ≠ c := by rintro rfl; exact hp ht
    have := Calls.toReleasing_stands s.env t (s.calls.alter c fun x => { x with peer := none })
    simp only [Calls.giveUp, hst, ht]
    have e1 : (s.calls.alter c fun x => { x with peer := none }).ses t = s.calls.ses t := by simp [htc.symm]
    rw [e1] at this
    rw [State.guardOf_eq]
    refine ⟨this, fun d hd => ?_⟩
    simp only [List.mem_cons, not_or] at hd
    exact Calls.sameAt_trans (Calls.sameAt_alter hd.2.1 ..) (Calls.sameAt_enter hd.1 ..)
  case talk =>
    refine ⟨?_, ?_, ?_, ?_, by simp, by simp, by simp, by simp, by simp, by simp, ?_, by simp, by simp, by simp⟩
    all_goals try (simp only [Calls.giveUp, hst]; split <;> simp [Calls.samePool, Calls.dropPartner,
      Calls.toReleasing, Calls.toToneout, Calls.alter, Calls.setSes, Calls.enter] <;> split <;> simp)
    intro t _ ht
    have htc : t ≠ c := by rintro rfl; exact hp ht
    simp only [Calls.giveUp, hst, ht]
    refine ⟨Calls.dropPartner_sentAway s t _ (by simp [htc.symm]) rfl, fun d hd => ?_⟩
    simp only [List.mem_cons, not_or] at hd
    refine Calls.sameAt_trans (l := s.calls.alter c fun x => { x with peer := none }) (Calls.sameAt_alter hd.2.1 ..) ?_
    unfold Calls.dropPartner; split <;> exact Calls.sameAt_enter hd.1 ..
  case seizing =>
    refine ⟨?_, ?_, ?_, ?_, by simp, by simp, by simp, by simp, by simp, by simp, by simp, by simp, by simp, ?_⟩
    all_goals try (simp only [Calls.giveUp, hst]; split <;> simp [Calls.samePool, Calls.toToneout, Calls.alter,
      Calls.setSes, Calls.enter]; done)
    intro t _ ht
    have htc : t ≠ c := by rintro rfl; exact hp ht
    simp only [Calls.giveUp, hst, ht]
    have := Calls.toToneout_stands s.env .reorder t (s.calls.alter c fun x => { x with peer := none })
    have e1 : (s.calls.alter c fun x => { x with peer := none }).ses t = s.calls.ses t := by simp [htc.symm]
    rw [e1] at this
    refine ⟨this, fun d hd => ?_⟩
    simp only [List.mem_cons, not_or] at hd
    exact Calls.sameAt_trans (Calls.sameAt_alter hd.2.1 ..) (Calls.sameAt_enter hd.1 ..)
  case held =>
    refine ⟨?_, ?_, ?_, ?_, by simp, by simp, by simp, by simp, by simp, by simp, by simp, ?_, by simp, by simp⟩
    all_goals try (simp only [Calls.giveUp, hst, Calls.freeHolder]; split <;> simp [Calls.samePool, Calls.alter,
      Calls.setSes]; done)
    intro t _ ht
    have htc : t ≠ c := by rintro rfl; exact hh ht
    simp only [Calls.giveUp, hst, Calls.freeHolder, ht]
    refine ⟨⟨by simp, rfl, rfl, rfl⟩, fun d hd => ?_⟩
    simp only [List.mem_cons, not_or] at hd
    exact Calls.sameAt_alter hd.1 ..
  case queued =>
    refine ⟨by simp [Calls.giveUp, hst, Calls.leaveQueues], ?_, ?_, ?_, by simp, by simp, by simp, by simp, by simp,
      ?_, by simp, by simp, by simp, by simp⟩
    · simp [Calls.giveUp, hst, Calls.samePool, Calls.leaveQueues]
    · simp
    · simp [Calls.giveUp, hst, Calls.leaveQueues]
    · intro _; simp only [Calls.giveUp, hst]
      refine ⟨fun d _ => Calls.sameAt_groups .., fun g => by simp [Calls.leaveQueues, Calls.group]⟩
  case confer =>
    refine ⟨?_, ?_, ?_, ?_, by simp, by simp, by simp, by simp, by simp, by simp, by simp, by simp, ?_, by simp⟩
    · simp only [Calls.giveUp, hst, Calls.leaveBridge]; split <;> (try split) <;> rfl
    · intro _ _; simp only [Calls.giveUp, hst, Calls.leaveBridge]; split <;> (try split) <;> exact ⟨rfl, rfl⟩
    · intro _; simp only [Calls.giveUp, hst, Calls.leaveBridge]; split <;> (try split) <;> rfl
    · simp
    · intro b _ hb
      simp only [Calls.giveUp, hst, Calls.leaveBridge, hb]
      refine ⟨?_, ?_, ?_⟩
      · intro a ha; split <;> simp [Calls.members, Calls.setMembers, Calls.pair, Calls.toTalk, Calls.enter, ha.symm]
      · intro hl
        split
        · next x y h => rw [h] at hl; simp at hl
        · exact ⟨by simp [Calls.members, Calls.setMembers], fun d _ => Calls.sameAt_setMembers ..⟩
      · intro x y h hxy
        rw [h]
        have hx : (Calls.pair x y (s.calls.setMembers b [])).ses x =
            { (s.calls.ses x).moved .talk with peer := some y } := by
          simp [Calls.pair, Calls.toTalk, hxy.symm]
        have hy : (Calls.pair x y (s.calls.setMembers b [])).ses y =
            { (s.calls.ses y).moved .talk with peer := some x } := by
          simp [Calls.pair, Calls.toTalk, hxy]
        refine ⟨by simp [Calls.members, Calls.setMembers, Calls.pair, Calls.toTalk, Calls.enter], ⟨?_, ?_, ?_, ?_⟩,
          ⟨?_, ?_, ?_, ?_⟩, ?_, ?_, ?_⟩
        · rw [hx]
        · simp [Calls.pair, Calls.toTalk, hxy.symm, Session.listen]
        · simp [Calls.pair, Calls.toTalk, hxy.symm, Session.levels]
        · simp [Calls.pair, Calls.toTalk, State.recorded, raisedIn]
        · rw [hy]
        · simp [Calls.pair, Calls.toTalk, hxy, Session.listen]
        · simp [Calls.pair, Calls.toTalk, hxy, Session.levels]
        · simp [Calls.pair, Calls.toTalk, State.recorded, raisedIn]
        · rw [hx]; simp [Session.moved]
        · rw [hy]; simp [Session.moved]
        · intro d hd
          simp only [List.mem_cons, not_or] at hd
          exact Calls.sameAt_trans (Calls.sameAt_setMembers ..) (Calls.sameAt_trans (Calls.sameAt_enter hd.1 ..)
            (Calls.sameAt_enter hd.2.1 ..))
  all_goals simp [Calls.giveUp, hst, State.othersStand, Calls.samePool]; try exact fun d _ => Calls.sameAt_refl d _

/-- What has been given up stands when only channels that it does not concern change after it. -/
theorem State.gaveUp_trans (s : State) (c : Chan) (cs : List Chan) (k l : Calls) (h : s.gaveUp c [c] k)
  (ho : k.onlyAt cs l) (hc : c ∈ cs)
    (hl : ∀ d, s.calls.linked c d → d ∉ cs) : s.gaveUp c cs l := by
  obtain ⟨o1, o2, ⟨o3, o3'⟩, o4, o5⟩ := ho
  have om : ∀ b, l.members b = k.members b := fun b => by simp [Calls.members, o5]
  have og : ∀ g, l.group g = k.group g := fun b => by simp [Calls.group, o4]
  have os : ∀ ds, s.othersStand (ds ++ [c]) k → s.othersStand (ds ++ cs) l := by
    intro ds h d hd
    simp only [List.mem_append, not_or] at hd
    refine Calls.sameAt_trans (h d ?_) (o1 d hd.2)
    simp only [List.mem_append, not_or]; refine ⟨hd.1, ?_⟩; simp; rintro rfl; exact hd.2 hc
  have st : ∀ d, d ∉ cs → ∀ r x v n, k.stands d r x v n →
    l.stands d r x v n := fun d hd r x v n h => Calls.stands_of_sameAt (o1 d hd) h
  obtain ⟨h1, h2, h3, h4, h5, h6, h7, h8, h9, h10, h11, h12, h13, h14⟩ := h
  refine ⟨o2.trans h1, fun a b => ⟨o3.trans (h2 a b).1, o3'.trans (h2 a b).2⟩, fun a => o4.trans (h3 a),
    fun a => o5.trans (h4 a), fun a => os [] (h5 a), ?_, ?_, ?_, ?_, ?_, ?_, ?_, ?_, ?_⟩
  · intro a; obtain ⟨x, y, z⟩ := h6 a; exact ⟨os [] x, o3.trans y, o3'.trans z⟩
  · intro a; obtain ⟨x, y⟩ := h7 a
    refine ⟨fun b => ⟨os [] (x b).1, o3.trans (x b).2.1, o3'.trans (x b).2.2⟩, fun r hr => ?_⟩
    obtain ⟨z1, z2, z3⟩ := y r hr
    refine ⟨fun b => ?_, fun b b' => ?_, fun u q b b' => ?_⟩
    · obtain ⟨w1, w2, w3⟩ := z1 b; exact ⟨o3.trans w1, o3'.trans w2, os [] w3⟩
    · obtain ⟨w1, w2, w3⟩ := z2 b b'; exact ⟨o3.trans w1, o3'.trans w2, os [] w3⟩
    · obtain ⟨w1, w2, w3, w4⟩ := z3 u q b b'
      exact ⟨o3.trans w1, o3'.trans w2, os [u] w3, st u (hl u (Or.inl ⟨a, by simp [b']⟩)) _ _ _ _ w4⟩
  · intro a; obtain ⟨x, y⟩ := h8 a
    refine ⟨fun d hd => st d (hl d (Or.inr (Or.inl ⟨a, hd⟩))) _ _ _ _ (x d hd), fun d hd hd2 => Calls.sameAt_trans
      (y d (by simp; rintro rfl; exact hd hc) hd2) (o1 d hd)⟩
  · intro t a b; obtain ⟨x, y⟩ := h9 t a b
    exact ⟨st t (hl t (Or.inr (Or.inr (Or.inl ⟨by simp [a], b⟩)))) _ _ _ _ x, os [t] y⟩
  · intro a; obtain ⟨x, y⟩ := h10 a; exact ⟨os [] x, fun g => (og g).trans (y g)⟩
  · intro t a b; obtain ⟨⟨x, x'⟩, y⟩ := h11 t a b
    have := hl t (Or.inr (Or.inr (Or.inl ⟨by simp [a], b⟩)))
    exact ⟨⟨fun q => st t this _ _ _ _ (x q), fun q => st t this _ _ _ _ (x' q)⟩, os [t] y⟩
  · intro t a b; obtain ⟨x, y⟩ := h12 t a b
    exact ⟨st t (hl t (Or.inr (Or.inr (Or.inr (Or.inl ⟨a, b⟩))))) _ _ _ _ x, os [t] y⟩
  · intro b a hb; obtain ⟨x, y, z⟩ := h13 b a hb
    refine ⟨fun e he => (om e).trans (x e he), fun e => ⟨(om b).trans (y e).1, os [] (y e).2⟩, fun u v huv hne => ?_⟩
    obtain ⟨w1, w2, w3, w4, w5, w6⟩ := z u v huv hne
    have lu : u ∉ cs := hl u (Or.inr (Or.inr (Or.inr (Or.inr ⟨a, b, hb, by
      have : u ∈ [u, v] := by simp
      rw [← huv] at this; simpa using this⟩))))
    have lv : v ∉ cs := hl v (Or.inr (Or.inr (Or.inr (Or.inr ⟨a, b, hb, by
      have : v ∈ [u, v] := by simp
      rw [← huv] at this; simpa using this⟩))))
    have eu : l.ses u = k.ses u := (o1 u lu).1.1
    have ev : l.ses v = k.ses v := (o1 v lv).1.1
    refine ⟨(om b).trans w1, ?_, ?_, by rw [eu, w4], by rw [ev, w5], os [u, v] w6⟩
    · have := st u lu _ _ _ _ w2; unfold State.talksWith; rw [eu]; exact this
    · have := st v lv _ _ _ _ w3; unfold State.talksWith; rw [ev]; exact this
  · intro t a b; obtain ⟨x, y⟩ := h14 t a b
    exact ⟨st t (hl t (Or.inr (Or.inr (Or.inl ⟨by simp [a], b⟩)))) _ _ _ _ x, os [t] y⟩

/-- The record of `c` itself when it has given up what its state held: only the fields of that state change, and no
notice is raised. -/
theorem Calls.giveUp_own (e : Env) (c : Chan) (k : Calls) (hp : (k.ses c).peer ≠ some c)
    (hr : (k.ses c).state = .collecting → c ∉ k.rxQueue) :
    (k.giveUp e c).ses c = { k.ses c with
      receiver := ((k.giveUp e c).ses c).receiver
      peer := ((k.giveUp e c).ses c).peer
      holds := ((k.giveUp e c).ses c).holds
      ringCount := ((k.giveUp e c).ses c).ringCount
      phaseOn := ((k.giveUp e c).ses c).phaseOn
      cycles := ((k.giveUp e c).ses c).cycles } ∧
    look (k.giveUp e c).notices c = look k.notices c := by
  by_cases hs : (k.ses c).state ≠ .outring ∧ (k.ses c).state ≠ .ringin
  · obtain ⟨h1, h2⟩ := Calls.giveUp_self e c k hp hr hs
    have := congrArg Session.ringCount h1
    have := congrArg Session.phaseOn h1
    have := congrArg Session.cycles h1
    refine ⟨?_, h2⟩
    rw [h1]
  · have hs' : (k.ses c).state = .outring ∨ (k.ses c).state = .ringin := by tauto
    have e1 : k.giveUp e c = k.clearRinging c := by rcases hs' with h | h <;> simp [Calls.giveUp, h]
    have hc : c ∉ k.ringSet c := by
      rw [Calls.mem_ringSet_iff]
      rintro ⟨h, -⟩
      rcases hs' with h' | h' <;> simp [h'] at h
    obtain ⟨⟨a1, a2, a3, a4⟩, -⟩ := (Calls.foldIdle_only (k.ringSet c) k).1 c hc
    rw [e1]
    simp only [Calls.clearRinging]
    refine ⟨?_, a4⟩
    rw [Calls.ses_alter_self, a1]; rfl

end Sys2Proof.Machine
end

