-- ==== Sys2Proof/Laws/Link.lean ====
section
/-! SUPPORT. The scan link: the agreement of the images, the search order of the transmitter, what the completion of a
frame leaves, and what the close of an event picks and leaves in flight. -/

namespace Sys2Proof.Machine

theorem State.agree_iff (s : State) : s.agree = true ↔ ∀ c, s.calls.levels c = look s.link.sent c := by
  simp [State.agree, State.differs, mem_allChans]

/-- The first of a list of places at which a test holds. -/
theorem find_first {n : Nat} (f : Fin n → Chan) (P : Chan → Bool) (i : Fin n) (hi : P (f i) = true)
    (h : ∀ j < i, P (f j) = false) : ((List.finRange n).map f).find? P = some (f i) := by
  have hf : (List.finRange n).find? (P ∘ f) = some i := by
    rw [List.find?_eq_some_iff_getElem]
    refine ⟨hi, i, by simp, by simp, fun j hj => ?_⟩
    have := h ⟨j, by omega⟩ (by simpa [Fin.lt_def] using hj)
    simpa using this
  rw [List.find?_map, hf]
  rfl

/-- The round-robin search finds the channel at the least distance after the transmit position. -/
theorem searchFrom_find (position c : Chan) (P : Chan → Bool) (hc : P c = true)
    (h : ∀ d, P d = true → (c - position - 1).val ≤ (d - position - 1).val) :
    (searchFrom position).find? P = some c := by
  have hi : c - position - 1 + position + 1 = c := by abel
  have := find_first (fun i : Fin 32 => i + position + 1) P (c - position - 1) (by rw [hi]; exact hc) (by
    intro j hj
    by_contra hh
    have h1 := h (j + position + 1) (by simpa using hh)
    have h2 : j + position + 1 - position - 1 = j := by abel
    rw [h2] at h1
    exact absurd hj (Nat.not_lt.mpr h1))
  rw [hi] at this
  exact this

theorem searchFrom_none (position : Chan) (P : Chan → Bool) (h : ∀ d, P d = false) :
    (searchFrom position).find? P = none := by
  rw [List.find?_eq_none]
  intro d _
  simp [h d]

theorem exec_frameCompletion (o : Order) {s : State} (hr : s.resetAsserted = false) (hf : s.link.flight = some o) :
    exec .frameCompletion s = .next (s.completeFrame o) := by
  simp only [exec, execFrameCompletion, awake_on _ hr, hf]

theorem State.completeFrame_sent (o : Order) (s : State) : (s.completeFrame o).link.sent = sentAfter o s.link.sent := by
  rw [State.completeFrame, State.pick_sent]
  unfold State.endStopping
  split <;> rfl

/-- What an event's close leaves of the transmitter: busy, as it was; idle, what it picks for the new records (R34). -/
theorem State.close_link (s : State) (k : Calls) : (s.close k).link =
    if s.link.flight.isSome then s.link else ({ s with calls := k }.pick false).link := by
  have hd : ∀ t u : State, t.calls = u.calls → t.link = u.link → (t.pick false).link = (u.pick false).link := by
    intro t u hc hl
    have hf : t.differs = u.differs := by funext d; simp only [State.differs, hc, hl]
    have ha : t.agree = u.agree := by simp only [State.agree, hf]
    have ho : t.orderFor = u.orderFor := by funext d; simp only [State.orderFor, hc, hl]
    unfold State.pick
    rw [hl, hf, ha, ho]
    (repeat' split) <;> simp [hl]
  unfold State.close State.kick
  split
  · next h => rw [if_pos (by simpa using h)]; rfl
  · next h => rw [if_neg (by simpa using h)]; exact hd _ _ rfl rfl

/-- A line event stays in flight over an event unless it is one of the battery and the event seizes its trunk (R49). -/
theorem Calls.awaits_event (k0 k : Calls) (c : Chan) (ev : LineEvent) : k0.awaits k (.event c ev) = true ↔
    (ev.ofBattery = true → (k.ses c).state = .seizing → (k0.ses c).state = .seizing) := by
  simp only [Calls.awaits, Calls.seizes]
  cases ev.ofBattery <;> simp [imp_iff_not_or]

/-- A digit stays in flight while its channel collects with the receiver that delivered it (R65, R67). -/
theorem Calls.awaits_digit (k0 k : Calls) (r : RxIx) (c : Chan) (d : Digit) : k0.awaits k (.digit r c d) = true ↔
    (k.ses c).state = .collecting ∧ (k.ses c).receiver = some r := by
  simp [Calls.awaits]

end Sys2Proof.Machine
end

