-- ==== Sys2Proof/Laws/Hunt.lean ====
section
/-! SUPPORT. Placement: the order of a CIRCULAR hunt, the record that a hunt in a group marks, and what stands after a
station is rung, a trunk is seized or the busy outcome is taken. -/

namespace Sys2Proof.Machine

/-! ### The order of a hunt -/

/-- The first match of a list, told by places in it. -/
theorem find_firstIdx {α : Type} [DecidableEq α] (l : List α) (p : α → Bool) (m : α) (hm : m ∈ l) (hp : p m = true)
    (hmin : ∀ x ∈ l, p x = true → l.idxOf m ≤ l.idxOf x) : l.find? p = some m := by
  induction l with
  | nil => cases hm
  | cons a l ih =>
    rw [List.find?_cons]
    by_cases ha : a = m
    · subst ha
      simp [hp]
    · cases hpa : p a
      · simp only
        refine ih (by simpa [Ne.symm ha] using hm) fun x hx hpx => ?_
        have hne : a ≠ x := by
          rintro rfl
          simp [hpa] at hpx
        have := hmin x (by simp [hx]) hpx
        rw [List.idxOf_cons_ne _ ha, List.idxOf_cons_ne _ hne] at this
        omega
      · have := hmin a (by simp) hpa
        rw [List.idxOf_cons_ne _ ha] at this
        simp at this

/-- The place of a member in the order that starts at place `st`. -/
theorem idxOf_rotated (l : List Chan) (h : l.Nodup) (st : Nat) (hst : st < l.length) (x : Chan) (hx : x ∈ l) :
    (l.drop st ++ l.take st).idxOf x = (l.idxOf x + l.length - st) % l.length := by
  have hi : l.idxOf x < l.length := List.idxOf_lt_length_of_mem hx
  have hxi : l[l.idxOf x] = x := List.getElem_idxOf hi
  have hnd : (l.drop st ++ l.take st).Nodup := by
    have := List.take_append_drop st l ▸ h
    rw [List.nodup_append] at this ⊢
    exact ⟨this.2.1, this.1, fun a ha b hb e => this.2.2 b hb a ha e.symm⟩
  generalize hn : l.idxOf x = i at *
  by_cases hlt : i < st
  · have h1 : (l.drop st ++ l.take st)[l.length - st + i]'(by simp; omega) = x := by
      rw [List.getElem_append_right (by simp)]
      simp [hxi]
    rw [← h1, hnd.idxOf_getElem, Nat.mod_eq_of_lt (by omega)]
    omega
  · have h1 : (l.drop st ++ l.take st)[i - st]'(by simp; omega) = x := by
      rw [List.getElem_append_left (by simp; omega)]
      simp [show st + (i - st) = i by omega, hxi]
    rw [← h1, hnd.idxOf_getElem, show i + l.length - st = (i - st) + l.length by omega, Nat.add_mod_right,
      Nat.mod_eq_of_lt (by omega)]

/-- The first match of a CIRCULAR hunt, told by the distance from its start. -/
theorem find_rotated (l : List Chan) (h : l.Nodup) (p : Chan → Bool) (st : Nat) (hst : st < l.length) (m : Chan)
    (hm : m ∈ l) (hp : p m = true)
    (hmin : ∀ x ∈ l, p x = true →
      (l.idxOf m + l.length - st) % l.length ≤ (l.idxOf x + l.length - st) % l.length) :
    (l.drop st ++ l.take st).find? p = some m := by
  have hmem : ∀ x, x ∈ l.drop st ++ l.take st ↔ x ∈ l := by
    intro x
    rw [List.mem_append, or_comm, ← List.mem_append, List.take_append_drop]
  refine find_firstIdx _ _ m ((hmem m).mpr hm) hp fun x hx hpx => ?_
  rw [idxOf_rotated l h st hst m hm, idxOf_rotated l h st hst x ((hmem x).mp hx)]
  exact hmin x ((hmem x).mp hx) hpx

theorem Calls.eligible_congr {k l : Calls} (method : Method) (o m : Chan)
    (h : ∀ c, (k.ses c).cls = (l.ses c).cls ∧ (k.ses c).state = (l.ses c).state) :
    k.eligible method o m = l.eligible method o m := by
  simp [Calls.eligible, (h m).1, (h m).2, (h o).1]

theorem Group.mem_searchOrder (g : Group) (x : Chan) : x ∈ g.searchOrder ↔ x ∈ g.members := by
  unfold Group.searchOrder
  split <;> try rfl
  rw [List.mem_append, or_comm, ← List.mem_append, List.take_append_drop]

/-- The records when the first hunt of an attempt has marked its group. -/
theorem Calls.marked_ses (k : Calls) (g : GroupIx) (c d : Chan) :
    ((k.newAttempt c).markGroup g c).ses d =
      if c = d then { k.ses c with tried := BitVec.twoPow 8 g, curGroup := some g } else k.ses d := by
  by_cases h : c = d
  · subst h
    simp [Calls.newAttempt, Calls.markGroup]
  · simp [Calls.newAttempt, Calls.markGroup, h]

/-! ### Placed, or busy -/

/-- A station rung by an originator that rings nobody yet. -/
theorem Calls.ring_first (s : State) (k : Calls) (c m : Chan) (hne : m ≠ c) (hc : (k.ses c).state.rings = false) :
    (k.ring s.env c m).stands c
      { (k.ses c).moved (if (k.ses c).cls = .trunk then .ringin else .outring) with
        ringCount := 1, phaseOn := true, cycles := 0, timer := s.timerOf .cadence Param.ringOnTime }
      (if (k.ses c).cls = .trunk then .none else .tone .ringback) noOutput (look k.notices c) ∧
    (k.ring s.env c m).stands m { (k.ses m).moved .ringing with peer := some c } .none ⟨true, false⟩
      (look k.notices m) ∧
    k.onlyAt [c, m] (k.ring s.env c m) := by
  have hne' : c ≠ m := hne.symm
  refine ⟨?_, ?_, ?_⟩
  · refine ⟨?_, ?_, ?_, ?_⟩ <;> cases h : (k.ses c).cls <;>
      simp [Calls.ring, hc, hne, h, Session.startTimer, State.timerOf, Session.listen, Session.levels, noOutput]
  · refine ⟨?_, ?_, ?_, ?_⟩ <;>
      simp [Calls.ring, hc, hne, hne', Session.startTimer, Session.listen]
  · unfold Calls.ring
    simp only [hc, Bool.false_and, Bool.false_eq_true, if_false]
    exact Calls.onlyAt_trans
      (Calls.onlyAt_trans (Calls.onlyAt_enter (by simp) ..) (Calls.onlyAt_enter (by simp) ..))
      (Calls.onlyAt_setOut (by simp) ..)

/-- The busy outcome of an originator that is no trunk. -/
theorem Calls.busyOutcome_station (s : State) (k : Calls) (c : Chan) (hc : (k.ses c).cls ≠ .trunk)
    (hn : look k.notices c = s.noticesAt c) :
    (k.busyOutcome s.env c).stands c
      { (k.ses c).moved .toneout with toneKind := .busy, timer := s.timerOf .toneout Param.toneoutTime }
      (.tone .busy) noOutput (s.recorded [.busy] c) ∧ k.onlyAt [c] (k.busyOutcome s.env c) := by
  constructor
  · refine ⟨?_, ?_, ?_, ?_⟩
    · simp [Calls.busyOutcome, hc, Calls.toToneout, Session.startTimer, State.timerOf]
    · simp [Calls.busyOutcome, hc, Calls.toToneout, Session.startTimer, Session.listen]
    · simp [Calls.busyOutcome, hc, Calls.toToneout, Session.startTimer, Session.levels, noOutput]
    · simp only [Calls.busyOutcome]
      exact Calls.notices_raise_self s _ rfl _ _ _ (by
        simp only [hc, if_false, Calls.toToneout, Calls.enter_notices]
        exact hn)
  · unfold Calls.busyOutcome
    rw [if_neg hc]
    exact Calls.onlyAt_trans (Calls.onlyAt_enter (by simp) ..) (Calls.onlyAt_raise (by simp) ..)

/-- A hunt that finds nobody joins the queue, goes on to the overflow group or is busy. -/
theorem Calls.choose_none (e : Env) (g : GroupIx) (o : Chan) (k : Calls) (l : List Chan)
    (h : ∀ x ∈ l, k.eligible (k.group g).method o x = false) : k.choose e g o l = none := by
  unfold Calls.choose
  cases hm : (k.group g).method <;> rw [hm] at h
  · simp only [Option.map_eq_none_iff, List.find?_eq_none]
    exact fun x hx => by simp [h x hx]
  · simp only [Option.map_eq_none_iff, List.find?_eq_none]
    exact fun x hx => by simp [h x hx]
  · have : l.filter (k.eligible .all o) = [] := by
      rw [List.filter_eq_nil_iff]
      exact fun x hx => by simp [h x hx]
    simp [this]

end Sys2Proof.Machine
end

