-- ==== Sys2Proof/Laws/Keeps.lean ====
section
/-! SUPPORT. Every way a step can change the state, as the cases a property must pass to be kept by every step. -/

namespace Sys2Proof.Machine

/-- The cases of a property that says nothing of the queue and the mailbox. -/
structure Kept (P : State → Prop) : Prop where
  queue : ∀ s q, P s → P { s with pending := q }
  tick : ∀ s, P s → P s.tick
  reset : ∀ s, P s →
    P { State.reset with pending := s.pending, highway := { Highway.reset with frames := s.highway.frames } }
  resetEnd : ∀ s, P s → P ({ s with resetAsserted := false, tones := toneStart }.pick false)
  event : ∀ s t, State.Event s t → P s → P t
  badFrame : ∀ s, P s → P s.badFrame
  completeFrame : ∀ s o, P s → P (s.completeFrame o)
  highway : ∀ s h, P s → P { s with highway := h }
  toneStep : ∀ s t, P s → P (s.toneStep t)
  mail : ∀ s f, P s → P (s.mail f)
  data : ∀ s a, P s → P (s.recordRead a)
  attn : ∀ s a, a.linkErr = s.attn.linkErr → P s → P { s with attn := a }
  start : ∀ s, s.op = .config → P s → P (startBody () s).state
  stop : ∀ s, s.op = .run → P s → P (stopBody () s).state
  staged : ∀ s a, paramInRange a.1 a.2 = true → P s → P (setParamBody a s).state
  apply : ∀ s, P s → P (applyParamsBody () s).state
  mask : ∀ s p, P s → P (setNoticeMaskBody (readMask p) s).state
  configure : ∀ s a, P s → P (configureBody a s).state
  entry : ∀ s p a, readEntry p = some a → P s → P (writeEntryBody a s).state
  clear : ∀ s i, P s → P { s with plan := put s.plan i none }
  group : ∀ s p a, readGroupArgs p = some a → P s → P (withGroup a.group (Group.written a) s).state
  setMembers : ∀ s p a, readMembers p = some a → P s → P (setMembersBody a s).state
  addMember : ∀ s a, P s → P (addMemberBody a s).state
  dropMember : ∀ s a, P s → P (dropMemberBody a s).state
  notices : ∀ s n, P s → P (takeNoticesBody n s).state

/-- A command row keeps what its body keeps. -/
theorem takeCommand_keeps {P : State → Prop} (hm : ∀ s f, P s → P (s.mail f)) {cmd : Cmd}
    {body : Params → State → Reply} {s t : State} (hs : P s) (hb : ∀ p, P (body p s).state)
    (h : takeCommand cmd body s = .next t) : P t := by
  rcases takeCommand_next h with rfl | ⟨f, -, -, -, rfl⟩
  · exact hs
  · exact hm _ _ (hb _)

/-- A gated effect keeps what the effect keeps. -/
theorem awake_keeps {P : State → Prop} {f : State → State} {s t : State} (hs : P s) (hf : P (f s))
    (h : awake f s = .next t) : P t := by
  unfold awake at h
  injection h with h
  subst h
  split
  · exact hs
  · exact hf

theorem State.expire_keeps {P : State → Prop} (H : Kept P) {s : State} (hs : P s) (kind : TimerKind) (c : Chan)
    (f : Env → Chan → Calls → Calls) (h : ∀ e k, Reach k (f e c k)) : P (s.expire kind c f) :=
  H.event _ _ (s.expire_event kind c f h) hs

/-- Every command keeps a property that passes the cases. -/
theorem exec_keeps {P : State → Prop} (H : Kept P) (i : Instr) {s t : State} (h : exec i s = .next t) (hs : P s) :
    P t := by
  have event : ∀ {u}, State.Event s u → P u := fun e => H.event _ _ e hs
  cases i with
  | hardwareReset =>
    dsimp only [exec, execHardwareReset] at h
    injection h with h; subst h; exact H.reset s hs
  | resetEnd =>
    dsimp only [exec, execResetEnd] at h
    injection h with h; subst h
    split
    · exact H.resetEnd s hs
    · exact hs
  | conditionReport byte0 byte1 stop start x =>
    dsimp only [exec, execConditionReport] at h
    refine awake_keeps hs ?_ h
    split
    · split
      · exact event (s.route_event ..)
      · exact H.badFrame s hs
    · exact hs
  | frameCompletion =>
    dsimp only [exec, execFrameCompletion] at h
    refine awake_keeps hs ?_ h
    split
    · exact H.completeFrame s _ hs
    · exact hs
  | frameSync v x =>
    dsimp only [exec, execFrameSync] at h
    refine awake_keeps hs ?_ h
    obtain ⟨w, e⟩ := s.highwayFrame_same v x
    rw [e]
    exact H.highway s _ hs
  | toneStepEnd x =>
    dsimp only [exec, execToneStepEnd] at h
    refine awake_keeps hs ?_ h
    exact H.toneStep s x hs
  | detectorIndication r ind =>
    dsimp only [exec, execDetectorIndication] at h
    refine awake_keeps hs ?_ h
    exact event (s.indication_event ..)
  | toneOnMinExpiry r x =>
    dsimp only [exec, execToneOnMinExpiry] at h
    refine awake_keeps hs ?_ h
    split
    · next hd => exact event (s.toneOn_event x r hd)
    · exact hs
  | toneGapMinExpiry r =>
    dsimp only [exec, execToneGapMinExpiry] at h
    refine awake_keeps hs ?_ h
    split
    · next hd => exact event (s.setCalls_event _ (Calls.toneGap_reach _ _ hd))
    · exact hs
  | seizeQualExpiry c x =>
    dsimp only [exec, execSeizeQualExpiry] at h
    refine awake_keeps hs ?_ h
    exact event (s.seizeQual_event ..)
  | flashMaxExpiry c x =>
    dsimp only [exec, execFlashMaxExpiry] at h
    refine awake_keeps hs ?_ h
    exact event (s.flashMax_event ..)
  | pulseMakeEndExpiry c x =>
    dsimp only [exec, execPulseMakeEndExpiry] at h
    refine awake_keeps hs ?_ h
    exact event (s.pulseMakeEnd_event ..)
  | burstTimerExpiry c x =>
    dsimp only [exec, execBurstTimerExpiry] at h
    refine awake_keeps hs ?_ h
    exact event (s.burstEnd_event ..)
  | gapTimerExpiry c x =>
    dsimp only [exec, execGapTimerExpiry] at h
    refine awake_keeps hs ?_ h
    exact event (s.gapEnd_event ..)
  | battSeizeQualExpiry c x =>
    dsimp only [exec, execBattSeizeQualExpiry] at h
    refine awake_keeps hs ?_ h
    exact event (s.battOn_event ..)
  | farOpenMinExpiry c x =>
    dsimp only [exec, execFarOpenMinExpiry] at h
    refine awake_keeps hs ?_ h
    exact event (s.farOpen_event ..)
  | firstDigitExpiry c =>
    dsimp only [exec, execFirstDigitExpiry] at h
    refine awake_keeps hs ?_ h
    exact State.expire_keeps H hs _ c _ fun e k => k.endReorder_reach e c
  | interdigitExpiry c =>
    dsimp only [exec, execInterdigitExpiry] at h
    refine awake_keeps hs ?_ h
    exact State.expire_keeps H hs _ c _ fun e k => k.collectionExpiry_reach e c
  | overlapExpiry c =>
    dsimp only [exec, execOverlapExpiry] at h
    refine awake_keeps hs ?_ h
    exact State.expire_keeps H hs _ c _ fun e k => k.collectionExpiry_reach e c
  | rxWaitExpiry c =>
    dsimp only [exec, execRxWaitExpiry] at h
    refine awake_keeps hs ?_ h
    exact State.expire_keeps H hs _ c _ fun e k => k.rxWaitEnd_reach e c
  | cadenceExpiry c =>
    dsimp only [exec, execCadenceExpiry] at h
    refine awake_keeps hs ?_ h
    exact State.expire_keeps H hs _ c _ fun e k => k.cadence_reach e c
  | queueWaitExpiry c =>
    dsimp only [exec, execQueueWaitExpiry] at h
    refine awake_keeps hs ?_ h
    exact State.expire_keeps H hs _ c _ fun e k => k.queueOut_reach e c
  | toneoutExpiry c =>
    dsimp only [exec, execToneoutExpiry] at h
    refine awake_keeps hs ?_ h
    exact State.expire_keeps H hs _ c _ fun _ k => k.toLockout_reach c
  | guardExpiry c =>
    dsimp only [exec, execGuardExpiry] at h
    refine awake_keeps hs ?_ h
    exact State.expire_keeps H hs _ c _ fun e k => k.enterIdle_reach e c
  | seizeWaitExpiry c =>
    dsimp only [exec, execSeizeWaitExpiry] at h
    refine awake_keeps hs ?_ h
    exact State.expire_keeps H hs _ c _ fun e k => k.seizeFailed_reach e c
  | cutThroughExpiry c =>
    dsimp only [exec, execCutThroughExpiry] at h
    refine awake_keeps hs ?_ h
    exact State.expire_keeps H hs _ c _ fun _ k => k.cutThrough_reach c
  | statusRead =>
    dsimp only [exec, execStatusRead] at h
    refine awake_keeps hs ?_ h
    exact H.mail _ _ (H.data _ _ hs)
  | paramWrite k b =>
    dsimp only [exec, execParamWrite] at h
    refine awake_keeps hs ?_ h
    exact H.mail _ _ hs
  | resultRead k =>
    dsimp only [exec, execResultRead] at h
    refine awake_keeps hs ?_ h
    exact H.mail _ _ (H.data _ _ hs)
  | completionRead =>
    dsimp only [exec, execCompletionRead] at h
    refine awake_keeps hs ?_ h
    exact H.mail _ _ (H.data _ _ hs)
  | controlWrite b =>
    dsimp only [exec, execControlWrite] at h
    refine awake_keeps hs ?_ h
    exact H.attn _ _ rfl hs
  | ignoredRegisterWrite a b =>
    dsimp only [exec, execIgnoredRegisterWrite] at h
    refine awake_keeps hs ?_ h
    exact hs
  | unknown code =>
    dsimp only [exec, execUnknown] at h
    refine awake_keeps hs ?_ h
    exact H.mail _ _ hs
  | commandOffer code =>
    dsimp only [exec, execCommandOffer] at h
    refine awake_keeps hs ?_ h
    exact H.mail _ _ hs
  | start =>
    dsimp only [exec, execStart] at h
    exact takeCommand_keeps H.mail hs
      (fun _ => checked_keeps hs fun _ _ ho => H.start s (by simpa [inConfig] using ho) hs) h
  | stop =>
    dsimp only [exec, execStop] at h
    exact takeCommand_keeps H.mail hs
      (fun _ => checked_keeps hs fun _ _ ho => H.stop s (by simpa [inRun] using ho) hs) h
  | setParam =>
    dsimp only [exec, execSetParam] at h
    refine takeCommand_keeps H.mail hs (fun p => checked_keeps hs fun a ha _ => H.staged s a ?_ hs) h
    unfold readParamArgs at ha
    split at ha
    · split at ha
      · next hr => cases ha; exact hr
      · cases ha
    · cases ha
  | applyParams =>
    dsimp only [exec, execApplyParams] at h
    exact takeCommand_keeps H.mail hs (fun _ => checked_keeps hs fun _ _ _ => H.apply s hs) h
  | readParam =>
    dsimp only [exec, execReadParam] at h
    exact takeCommand_keeps H.mail hs (fun _ => checked_keeps hs fun _ _ _ => hs) h
  | setNoticeMask =>
    dsimp only [exec, execSetNoticeMask] at h
    refine takeCommand_keeps H.mail hs (fun p => checked_keeps hs fun a ha _ => ?_) h
    cases ha
    exact H.mask s p hs
  | configureChannel =>
    dsimp only [exec, execConfigureChannel] at h
    exact takeCommand_keeps H.mail hs (fun _ => checked_keeps hs fun a _ _ => H.configure s a hs) h
  | block =>
    dsimp only [exec, execBlock] at h
    exact takeCommand_keeps H.mail hs (fun _ => checked_keeps hs fun c _ _ => event (blockBody_event c s)) h
  | restore =>
    dsimp only [exec, execRestore] at h
    exact takeCommand_keeps H.mail hs (fun _ => checked_keeps hs fun c _ _ => event (restoreBody_event c s)) h
  | readSession =>
    dsimp only [exec, execReadSession] at h
    exact takeCommand_keeps H.mail hs (fun _ => checked_keeps hs fun _ _ _ => hs) h
  | readDigits =>
    dsimp only [exec, execReadDigits] at h
    exact takeCommand_keeps H.mail hs (fun _ => checked_keeps hs fun _ _ _ => hs) h
  | writeEntry =>
    dsimp only [exec, execWriteEntry] at h
    exact takeCommand_keeps H.mail hs (fun p => checked_keeps hs fun a ha _ => H.entry s p a ha hs) h
  | clearEntry =>
    dsimp only [exec, execClearEntry] at h
    exact takeCommand_keeps H.mail hs (fun _ => checked_keeps hs fun i _ _ => H.clear s i hs) h
  | writeGroup =>
    dsimp only [exec, execWriteGroup] at h
    exact takeCommand_keeps H.mail hs (fun p => checked_keeps hs fun a ha _ => H.group s p a ha hs) h
  | setMembers =>
    dsimp only [exec, execSetMembers] at h
    exact takeCommand_keeps H.mail hs (fun p => checked_keeps hs fun a ha _ => H.setMembers s p a ha hs) h
  | addMember =>
    dsimp only [exec, execAddMember] at h
    exact takeCommand_keeps H.mail hs (fun _ => checked_keeps hs fun a _ _ => H.addMember s a hs) h
  | dropMember =>
    dsimp only [exec, execDropMember] at h
    exact takeCommand_keeps H.mail hs (fun _ => checked_keeps hs fun a _ _ => H.dropMember s a hs) h
  | readGroup =>
    dsimp only [exec, execReadGroup] at h
    exact takeCommand_keeps H.mail hs (fun _ => checked_keeps hs fun _ _ _ => hs) h
  | receiverService =>
    dsimp only [exec, execReceiverService] at h
    exact takeCommand_keeps H.mail hs (fun _ => checked_keeps hs fun a _ _ => event (receiverServiceBody_event a s)) h
  | hold =>
    dsimp only [exec, execHold] at h
    exact takeCommand_keeps H.mail hs (fun _ => checked_keeps hs fun c _ _ => event (holdBody_event c s)) h
  | retrieve =>
    dsimp only [exec, execRetrieve] at h
    exact takeCommand_keeps H.mail hs (fun _ => checked_keeps hs fun c _ _ => event (retrieveBody_event c s)) h
  | transfer =>
    dsimp only [exec, execTransfer] at h
    exact takeCommand_keeps H.mail hs (fun _ => checked_keeps hs fun c _ _ => event (transferBody_event c s)) h
  | drop =>
    dsimp only [exec, execDrop] at h
    exact takeCommand_keeps H.mail hs (fun _ => checked_keeps hs fun c _ _ => event (dropBody_event c s)) h
  | place =>
    dsimp only [exec, execPlace] at h
    exact takeCommand_keeps H.mail hs (fun _ => checked_keeps hs fun a _ _ => event (placeBody_event a s)) h
  | connect =>
    dsimp only [exec, execConnect] at h
    exact takeCommand_keeps H.mail hs (fun _ => checked_keeps hs fun a _ _ => event (connectBody_event a s)) h
  | setListen =>
    dsimp only [exec, execSetListen] at h
    exact takeCommand_keeps H.mail hs (fun _ => checked_keeps hs fun a _ _ => event (setListenBody_event a s)) h
  | conference =>
    dsimp only [exec, execConference] at h
    exact takeCommand_keeps H.mail hs (fun _ => checked_keeps hs fun c _ _ => event (conferenceBody_event c s)) h
  | join =>
    dsimp only [exec, execJoin] at h
    exact takeCommand_keeps H.mail hs (fun _ => checked_keeps hs fun a _ _ => event (joinBody_event a s)) h
  | readBridge =>
    dsimp only [exec, execReadBridge] at h
    exact takeCommand_keeps H.mail hs (fun _ => checked_keeps hs fun _ _ _ => hs) h
  | takeNotices =>
    dsimp only [exec, execTakeNotices] at h
    exact takeCommand_keeps H.mail hs (fun _ => checked_keeps hs fun n _ _ => H.notices s n hs) h
  | setWatch =>
    dsimp only [exec, execSetWatch] at h
    refine takeCommand_keeps H.mail hs (fun _ => checked_keeps hs fun a _ _ => ?_) h
    rw [setWatchBody, withWatch_state]
    exact H.attn s _ (by dsimp only) hs
  | armWatch =>
    dsimp only [exec, execArmWatch] at h
    refine takeCommand_keeps H.mail hs (fun _ => checked_keeps hs fun a _ _ => ?_) h
    rw [armWatchBody, withWatch_state]
    exact H.attn s _ (by dsimp only) hs
  | disarmWatch =>
    dsimp only [exec, execDisarmWatch] at h
    refine takeCommand_keeps H.mail hs (fun _ => checked_keeps hs fun a _ _ => ?_) h
    rw [disarmWatchBody, withWatch_state]
    exact H.attn s _ (by dsimp only) hs

/-- Every step keeps a property that passes the cases. -/
theorem step_keeps {P : State → Prop} (H : Kept P) {s t : State} (h : step s = .next t) (hs : P s) : P t := by
  unfold step at h
  split at h
  · injection h with h
    subst h
    unfold State.idleStep
    split
    · exact hs
    · split
      · exact H.event _ _ (s.takeFlying_event ..) hs
      · next c _ _ =>
        obtain ⟨w, e⟩ := s.nextSlot_same c
        rw [e]
        exact H.highway s _ hs
      · split
        · exact H.tick s hs
        · exact H.queue s _ hs
  · exact exec_keeps H _ h (H.queue s _ hs)

end Sys2Proof.Machine
end

