-- ==== Sys2Proof/Laws/Operands.lean ====
section
/-! SUPPORT. The parameter readers: what each reads from the bytes of its arguments, and that it reads nothing exactly
when `Cmd.inRange` says the parameters are out of range. -/

namespace Sys2Proof.Machine

/-! ### One field -/

theorem readFin_isSome (n : Nat) (b : Byte) : (readFin n b).isSome = decide (b.toNat < n) := by
  unfold readFin
  split <;> simp [*]

theorem readOptFin_isSome (n : Nat) (b : Byte) : (readOptFin n b).isSome = optBelow n b := by
  unfold readOptFin optBelow
  split
  · next h => simp [h]
  · next h => rw [Option.isSome_map, readFin_isSome, beq_false_of_ne h, Bool.false_or]

theorem readCode_isSome {α : Type} (l : List α) (b : Byte) : (readCode l b).isSome = decide (b.toNat < l.length) := by
  unfold readCode
  by_cases h : b.toNat < l.length
  · simp [h]
  · simp [h]

theorem allSome_isSome {α : Type} (l : List (Option α)) : (allSome l).isSome = l.all Option.isSome := by
  induction l with
  | nil => rfl
  | cons a l ih => cases a <;> simp [allSome, ih]

/-- A byte that spells a number below `n` or none reads as it. -/
theorem readOptFin_optByte {n : Nat} (hn : n ≤ 255) {b : Byte} {o : Option (Fin n)} (h : b = optByte o) :
    readOptFin n b = some o := by
  subst h
  cases o with
  | none => simp [readOptFin, optByte]
  | some i =>
    have hne : byteOf i ≠ 0xFF := fun h => by
      have := congrArg BitVec.toNat h
      simp [byteOf] at this
      omega
    show readOptFin n (byteOf i) = _
    unfold readOptFin
    rw [if_neg hne, readFin_eq_some (i := i) (by simp [byteOf]; omega)]
    rfl

/-- Bytes that spell the members of a list read as the list. -/
theorem allSome_channels (bs : List Byte) (l : List Chan) (h : bs.map (·.toNat) = l.map fun c => c.val) :
    allSome (bs.map (readFin 32)) = some l := by
  induction bs generalizing l with
  | nil => cases l <;> simp_all [allSome]
  | cons b bs ih =>
    cases l with
    | nil => simp at h
    | cons c l =>
      simp only [List.map_cons, List.cons.injEq] at h
      simp [readFin_eq_some h.1, allSome, ih l h.2]

theorem readMethod_code (b : Byte) (m : Method) (h : b.toNat = m.code) : readMethod b = some m := by
  unfold readMethod readCode
  rw [h]
  cases m <;> rfl

theorem readSym_isSome (n : Nat) : (readSym n).isSome = decide (n < 13) := by
  unfold readSym
  repeat' split
  all_goals simp; omega

theorem readSym_x (n : Nat) (y : PatSym) (h : readSym n = some y) : y = .x ↔ n = 12 := by
  unfold readSym at h
  repeat' split at h
  all_goals first
    | (injection h with h; subst h; simp; omega)
    | (cases h)

/-! ### Whole commands -/

theorem readParamArgs_isSome (p : Params) : (readParamArgs p).isSome = Cmd.inRange .setParam p := by
  unfold readParamArgs Cmd.inRange readFin
  by_cases h : (look p 0).toNat < 23
  · simp only [h, dif_pos, paramInRange, readWord]
    have hif : ∀ (b : Bool) (a : ParamIx × Nat), (if b = true then some a else none).isSome = b := by
      intro b a
      cases b <;> rfl
    exact hif _ _
  · simp [h]

theorem readConfig_isSome (p : Params) : (readConfig p).isSome = Cmd.inRange .configureChannel p := by
  have h2 : (readClass (look p 1)).isSome = decide ((look p 1).toNat < 3) := readCode_isSome _ _
  have h3 : (readDigitMode (look p 2)).isSome = decide ((look p 2).toNat < 3) := readCode_isSome _ _
  have h5 : (readFlashMode (look p 4)).isSome = decide ((look p 4).toNat < 2) := readCode_isSome _ _
  simp only [Cmd.inRange, ← readFin_isSome 32, ← h2, ← h3, ← readFin_isSome 4 (look p 3), ← h5, ← readOptFin_isSome 8]
  unfold readConfig
  cases readFin 32 (look p 0) <;> cases readClass (look p 1) <;> cases readDigitMode (look p 2) <;>
    cases readFin 4 (look p 3) <;> cases readFlashMode (look p 4) <;> cases readOptFin 8 (look p 5) <;> rfl

theorem readGroupArgs_isSome (p : Params) : (readGroupArgs p).isSome = Cmd.inRange .writeGroup p := by
  have h2 : (readMethod (look p 1)).isSome = decide ((look p 1).toNat < 3) := readCode_isSome _ _
  simp only [Cmd.inRange, ← readFin_isSome 8 (look p 0), ← h2, ← readOptFin_isSome 8]
  unfold readGroupArgs
  cases readFin 8 (look p 0) <;> cases readMethod (look p 1) <;> cases readOptFin 8 (look p 2) <;>
    cases readOptFin 8 (look p 3) <;> simp
  split <;> simp_all

theorem readMembers_isSome (p : Params) : (readMembers p).isSome = Cmd.inRange .setMembers p := by
  have hf : (fun b : Byte => decide (b.toNat < 32)) = Option.isSome ∘ readFin 32 := by
    funext b
    simp [readFin_isSome]
  simp only [Cmd.inRange, ← readFin_isSome 8 (look p 0), hf, ← List.all_map, ← allSome_isSome]
  unfold readMembers
  cases readFin 8 (look p 0)
  · rfl
  · simp only [Option.isSome_some, Bool.true_and]
    split <;> simp [*]

/-- The packed symbol bytes of WRITE_ENTRY. -/
def patternBytes (p : Params) : List Byte := [look p 8, look p 9, look p 10, look p 11, look p 12, look p 13]

theorem readPattern_isSome (p : Params) : (readPattern (look p 1).toNat (patternBytes p)).isSome =
    (decide (1 ≤ (look p 1).toNat) && decide ((look p 1).toNat ≤ 12) &&
      (List.range (look p 1).toNat).all fun i => decide (patternSym p i < 13)) := by
  unfold readPattern
  split
  · next h =>
    have hf : (fun i => decide (patternSym p i < 13)) =
        Option.isSome ∘ fun i => readSym (packedAt (patternBytes p) i) := by
      funext i
      simp only [Function.comp_apply, readSym_isSome]
      rfl
    rw [allSome_isSome, List.all_map, hf]
    simp [h]
  · next h =>
    have : (decide (1 ≤ (look p 1).toNat) && decide ((look p 1).toNat ≤ 12)) = false := by simpa using h
    rw [this]
    rfl

theorem readAction_isSome (code arg : Byte) : (readAction code arg).isSome =
    (decide (code.toNat < 5) &&
      (if code = 0 ∨ code = 1 then decide (arg.toNat < 32) else if code = 2 then decide (arg.toNat < 8) else true)) := by
  unfold readAction
  by_cases a0 : code = 0
  · subst a0; simp [readFin_isSome]
  by_cases a1 : code = 1
  · subst a1; simp [readFin_isSome]
  by_cases a2 : code = 2
  · subst a2; simp [readFin_isSome]
  by_cases a3 : code = 3
  · subst a3; simp
  by_cases a4 : code = 4
  · subst a4; simp
  rw [if_neg a0, if_neg a1, if_neg a2, if_neg a3, if_neg a4]
  have h : ¬ code.toNat < 5 := fun h => by
    have h0 : code.toNat ≠ 0 := fun h => a0 (BitVec.eq_of_toNat_eq h)
    have h1 : code.toNat ≠ 1 := fun h => a1 (BitVec.eq_of_toNat_eq h)
    have h2 : code.toNat ≠ 2 := fun h => a2 (BitVec.eq_of_toNat_eq h)
    have h3 : code.toNat ≠ 3 := fun h => a3 (BitVec.eq_of_toNat_eq h)
    have h4 : code.toNat ≠ 4 := fun h => a4 (BitVec.eq_of_toNat_eq h)
    omega
  simp [h]

/-- How many `X` a pattern that reads holds. -/
theorem readPattern_xs (p : Params) (l : List PatSym) (h : readPattern (look p 1).toNat (patternBytes p) = some l) :
    l.count .x = patternXs p := by
  unfold readPattern at h
  split at h
  · unfold patternXs
    generalize List.range (look p 1).toNat = is at h ⊢
    induction is generalizing l with
    | nil => simp [allSome] at h; subst h; rfl
    | cons i is ih =>
      rw [List.map_cons, show packedAt (patternBytes p) i = patternSym p i from rfl] at h
      cases hs : readSym (patternSym p i) with
      | none => rw [hs] at h; cases h
      | some y =>
        rw [hs] at h
        simp only [allSome, Option.map_eq_some_iff] at h
        obtain ⟨q, hq, rfl⟩ := h
        rw [List.count_cons, ih q hq, List.filter_cons]
        have hy := readSym_x _ _ hs
        by_cases hh : patternSym p i = 12
        · simp [hh, hy.mpr hh]
        · have : y ≠ .x := fun e => hh (hy.mp e)
          simp [hh, this]
  · cases h

theorem readEntry_isSome (p : Params) : (readEntry p).isSome = Cmd.inRange .writeEntry p := by
  have h2 := readPattern_isSome p
  have h3 := readAction_isSome (look p 2) (look p 3)
  have hfit : ∀ l a, readPattern (look p 1).toNat (patternBytes p) = some l → readAction (look p 2) (look p 3) = some a →
      actionFits a l = (look p 2 != 1 || patternXs p == 1 || patternXs p == 2) := by
    intro l a hl ha
    rw [← readPattern_xs p l hl]
    unfold readAction at ha
    repeat' split at ha
    · next h => simp at ha; obtain ⟨_, _, rfl⟩ := ha; simp [actionFits, h]
    · next h => simp at ha; obtain ⟨_, _, rfl⟩ := ha; simp [actionFits, h]
    · next h => simp at ha; obtain ⟨_, _, rfl⟩ := ha; simp [actionFits, h]
    · next h => simp at ha; subst ha; simp [actionFits, h]
    · next h => simp at ha; subst ha; simp [actionFits, h]
    · cases ha
  have hr : Cmd.inRange .writeEntry p =
      ((readFin 128 (look p 0)).isSome && (readPattern (look p 1).toNat (patternBytes p)).isSome &&
        (readFin 4 (look p 4)).isSome && (readAction (look p 2) (look p 3)).isSome &&
        (look p 2 != 1 || patternXs p == 1 || patternXs p == 2)) := by
    rw [h2, h3, readFin_isSome, readFin_isSome]
    unfold Cmd.inRange
    have hand : ∀ a b c d e f g h : Bool,
        (a && b && c && d && e && f && g && h) = (a && (b && c && d) && f && (e && g) && h) := by decide
    exact hand ..
  rw [hr]
  unfold readEntry
  rw [show ([look p 8, look p 9, look p 10, look p 11, look p 12, look p 13] : List Byte) = patternBytes p from rfl]
  cases readFin 128 (look p 0)
  · rfl
  cases hl : readPattern (look p 1).toNat (patternBytes p)
  · simp
  cases ha : readAction (look p 2) (look p 3)
  · simp
  cases readFin 4 (look p 4)
  · simp
  rw [← hfit _ _ hl ha]
  simp only [Option.isSome_some, Bool.and_self, Bool.true_and]
  split <;> simp_all

end Sys2Proof.Machine
end

