-- ==== Sys2Proof/Laws/Plan.lean ====
section
/-! SUPPORT. The dial plan's verdicts against the candidates of a digit list (R75, R80, R81, R83). -/

namespace Sys2Proof.Machine

theorem PatSym.agrees_iff (s : PatSym) (d : Digit) : s.agrees d = true ↔ symAgrees s d := by
  cases s <;> cases d <;> simp [PatSym.agrees, symAgrees]

/-- The part of a pattern beyond a list its first symbols agree with. -/
theorem beyond_eq_some (p : List PatSym) (ds : List Digit) (r : List PatSym) :
    beyond p ds = some r ↔ ds.length ≤ p.length ∧ r = p.drop ds.length ∧
      ∀ (j : Nat) (s : PatSym) (d : Digit), p[j]? = some s → ds[j]? = some d → symAgrees s d := by
  induction ds generalizing p with
  | nil => simp [beyond, eq_comm]
  | cons d ds ih =>
    cases p with
    | nil => simp [beyond]
    | cons s p =>
      unfold beyond
      constructor
      · intro h
        split at h
        · next ha =>
          obtain ⟨h1, h2, h3⟩ := (ih p).mp h
          refine ⟨by simpa using h1, by simpa using h2, fun j s' d' hs hd => ?_⟩
          cases j with
          | zero =>
            simp at hs hd
            subst hs hd
            exact (PatSym.agrees_iff ..).mp ha
          | succ j => exact h3 j s' d' (by simpa using hs) (by simpa using hd)
        · cases h
      · rintro ⟨h1, h2, h3⟩
        have ha : s.agrees d = true := (PatSym.agrees_iff ..).mpr (h3 0 s d (by simp) (by simp))
        rw [if_pos ha]
        refine (ih p).mpr ⟨by simpa using h1, by simpa using h2, fun j s' d' hs hd => ?_⟩
        exact h3 (j + 1) s' d' (by simpa using hs) (by simpa using hd)

/-- A slot holds a candidate exactly as long as the list. -/
theorem exactAt_iff (plan : Vector (Option Entry) 128) (ds : List Digit) (i : SlotIx) :
    exactAt plan ds i = true ↔ ∃ en, candidate plan ds i en ∧ en.pattern.length = ds.length := by
  unfold exactAt candidate
  split
  · next en h =>
    rw [beq_iff_eq, beyond_eq_some]
    constructor
    · rintro ⟨h1, h2, h3⟩
      have hl : en.pattern.length ≤ ds.length := by simpa using h2.symm
      exact ⟨en, ⟨h, h1, h3⟩, le_antisymm hl h1⟩
    · rintro ⟨en', ⟨h0, h1, h3⟩, h2⟩
      rw [h] at h0
      cases h0
      exact ⟨h1, by simp [← h2], h3⟩
  · next h =>
    simp [h]

/-- A slot holds a longer candidate. -/
theorem longerAt_iff (plan : Vector (Option Entry) 128) (ds : List Digit) (i : SlotIx) :
    longerAt plan ds i = true ↔ ∃ en, candidate plan ds i en ∧ ds.length < en.pattern.length := by
  unfold longerAt candidate
  split
  · next en h =>
    constructor
    · intro hb
      split at hb
      · next s r hs =>
        obtain ⟨h1, h2, h3⟩ := (beyond_eq_some ..).mp hs
        refine ⟨en, ⟨h, h1, h3⟩, ?_⟩
        have := congrArg List.length h2
        simp at this
        omega
      · cases hb
    · rintro ⟨en', ⟨h0, h1, h3⟩, h2⟩
      rw [h] at h0
      cases h0
      have hb := (beyond_eq_some en.pattern ds _).mpr ⟨h1, rfl, h3⟩
      rw [hb]
      cases hd : en.pattern.drop ds.length with
      | nil => simp at hd; omega
      | cons => rfl
  · next h => simp [h]

theorem lowestExact_eq_some (plan : Vector (Option Entry) 128) (ds : List Digit) (i : SlotIx) :
    lowestExact plan ds = some i ↔ (∃ en, candidate plan ds i en ∧ en.pattern.length = ds.length) ∧
      ∀ j en, candidate plan ds j en → en.pattern.length = ds.length → i ≤ j := by
  unfold lowestExact allSlots
  constructor
  · intro h
    rw [List.find?_eq_some_iff_getElem] at h
    obtain ⟨h1, k, hk, h2, h3⟩ := h
    refine ⟨(exactAt_iff ..).mp h1, fun j en hj hl => ?_⟩
    by_contra hlt
    have hi : i.val = k := by rw [← h2]; simp
    have := h3 j (by rw [← hi]; exact not_le.mp hlt)
    have he : exactAt plan ds j = true := (exactAt_iff ..).mpr ⟨en, hj, hl⟩
    simp [he] at this
  · rintro ⟨h1, h2⟩
    rw [List.find?_eq_some_iff_getElem]
    refine ⟨(exactAt_iff ..).mpr h1, i, by simp, by simp, fun j hj => ?_⟩
    by_contra hc
    have he : exactAt plan ds ⟨j, by omega⟩ = true := by simpa using hc
    obtain ⟨en, hen, hl⟩ := (exactAt_iff ..).mp he
    exact absurd hj (not_lt.mpr (h2 _ en hen hl))

theorem lowestExact_eq_none (plan : Vector (Option Entry) 128) (ds : List Digit) :
    lowestExact plan ds = none ↔ ∀ i en, candidate plan ds i en → en.pattern.length ≠ ds.length := by
  unfold lowestExact allSlots
  rw [List.find?_eq_none]
  constructor
  · intro h i en hc hl
    exact h i (List.mem_finRange i) ((exactAt_iff ..).mpr ⟨en, hc, hl⟩)
  · intro h i _ he
    obtain ⟨en, hc, hl⟩ := (exactAt_iff ..).mp he
    exact h i en hc hl

theorem someLonger_iff (plan : Vector (Option Entry) 128) (ds : List Digit) :
    someLonger plan ds = true ↔ ∃ i en, candidate plan ds i en ∧ ds.length < en.pattern.length := by
  simp [someLonger, allSlots, longerAt_iff]

end Sys2Proof.Machine
end

