-- ==== Sys2Proof/Laws/Port.lean ====
section
/-! SUPPORT. The processor port: what the data bus shows, and that a read records what the bus showed. -/

namespace Sys2Proof.Machine

/-- D0 to D7 are driven in a read and in nothing else (R161). -/
theorem State.dataBus_isSome (p : BusPins) (s : State) : (s.dataBus p).isSome = p.reads := by
  unfold State.dataBus; split <;> simp_all

@[simp] theorem State.dataBus_of_reads {p : BusPins} (s : State) (h : p.reads = true) :
    s.dataBus p = some (s.register p.address) := if_pos h

@[simp] theorem State.dataBus_of_not_reads {p : BusPins} (s : State) (h : p.reads = false) : s.dataBus p = none := by
  simp [State.dataBus, h]

/-- RD and WR both strobed, or neither, is no access (R161). -/
theorem BusPins.row_of_rd_eq_wr {p : BusPins} (h : p.rd = p.wr) : p.row = none := by
  unfold BusPins.row BusPins.reads BusPins.writes
  cases hr : p.rd <;> simp_all

/-- The row of a read access completes and records the byte that the bus showed (R161; log 11). -/
theorem exec_readRow {s : State} {a : Fin 16} {i : Instr} (hs : s.resetAsserted = false) (h : readRow a = some i) :
    ∃ t, exec i s = .next t ∧ t.lastRead = some (s.register a) := by
  unfold readRow at h
  split at h
  · next ha => subst ha; cases h; exact ⟨_, by simp only [exec, execStatusRead, awake, hs]; rfl, rfl⟩
  · split at h
    · next ha =>
      cases h
      refine ⟨_, by simp only [exec, execResultRead, awake, hs]; rfl, ?_⟩
      have : (⟨2 + (a.val - 2), by omega⟩ : Fin 16) = a := Fin.ext (by simp; omega)
      simp [State.mail, State.recordRead, this]
    · split at h
      · next ha => subst ha; cases h; exact ⟨_, by simp only [exec, execCompletionRead, awake, hs]; rfl, rfl⟩
      · cases h

end Sys2Proof.Machine
end

