-- ==== Sys2Proof/WellFormed.lean ====
section
/-! DEFINITION. Which terms of Instr stand for a command of the table: the restrictions on operands that the types of
Syntax.lean do not carry. The meanings are total and need none of them. -/

namespace Sys2Proof

/-- The addresses whose writes are marked ignored (R161). -/
def ignoredAddress (a : Fin 16) : Bool := a == 0 || a == 10 || a == 11 || a == 12 || a == 13 || a == 14

/-- The tone of a generator whose steps end: every one but DIAL (R126). -/
def Tone.steps (t : Tone) : Bool := t != .dial

/-- A well-formed command: COMMAND_OFFER carries a defined code and UNKNOWN an undefined one (R165),
IGNORED_REGISTER_WRITE an address marked ignored (R161), TONE_STEP_END a tone whose steps end (R126), CONDITION_REPORT a
frame that begins with its start bit (R179). -/
def Instr.wf : Instr → Bool
  | .commandOffer code => Machine.definedCode code
  | .unknown code => !Machine.definedCode code
  | .ignoredRegisterWrite a _ => ignoredAddress a
  | .toneStepEnd t => t.steps
  | .conditionReport _ _ _ first _ => first
  | _ => true

end Sys2Proof
end

