-- ==== Sys2Proof/Tests/Slice0.lean ====
section
/-! SUPPORT. Checks of the model's own work: ill-formed terms that `Instr.wf` refuses, numbers the spec works out, and,
for every statement with hypotheses, a state and operands that meet them, clause by clause. -/

namespace Sys2Proof.Tests

open Sys2Proof Sys2Proof.Machine

set_option synthInstance.maxSize 4096

/-! ### States -/

/-- Out of reset, in RUN. -/
def base : State := { State.reset with resetAsserted := false, op := .run }

/-- `base` with these session records. -/
def records (l : List (Chan × Session)) : State :=
  { base with calls := l.foldl (fun k x => k.setSes x.1 x.2) base.calls }

/-- A station in a state. -/
def station (st : SState) : Session := { Session.reset with cls := .station, state := st }

/-- A trunk in a state. -/
def trunk (st : SState) : Session := { Session.reset with cls := .trunk, state := st }

/-- The call state changed. -/
def alter (f : Calls → Calls) (s : State) : State := { s with calls := f s.calls }

/-- Channel 0's loop qualifier. -/
def loop (st : LoopState) (pulses : Nat) (timer : Option (LoopTimer × Nat)) (s : State) : State :=
  { s with loopQ := put s.loopQ 0 ⟨st, pulses, timer, 0, 40, 110, 300⟩ }

/-- Channel 0's ring qualifier. -/
def ring (st : RingState) (burst gap : Option Nat) (check : Bool) (s : State) : State :=
  { s with ringQ := put s.ringQ 0 ⟨st, burst, gap, check⟩ }

/-- Channel 0's battery qualifier. -/
def battery (st : BattState) (timer : Option Nat) (s : State) : State :=
  alter (fun k => { k with battQ := put k.battQ 0 ⟨st, timer⟩ }) s

/-- Receiver 0. -/
def receiver (x : Receiver) (s : State) : State := alter (fun k => k.setRx 0 x) s

/-- A loop output closed. -/
def closed (c : Chan) (s : State) : State := alter (fun k => k.setOut c ⟨false, true⟩) s

/-- A group's record. -/
def group (g : GroupIx) (x : Group) (s : State) : State := alter (fun k => k.alterGroup g fun _ => x) s

/-- A bridge's members. -/
def bridge (b : BridgeIx) (l : List Chan) (s : State) : State := alter (fun k => k.setMembers b l) s

/-- A frame in flight. -/
def sending (o : Order) (s : State) : State := { s with link := { s.link with flight := some o } }

/-- Parameter bytes. -/
def bytes (l : List Byte) : Params := tabulate fun i => l.getD i 0

/-- The command `cmd` in flight. -/
def offered (cmd : Cmd) (l : List Byte) (s : State) : State :=
  { s with mbox := { s.mbox with inFlight := some ⟨cmd.code, bytes l⟩, state := .busy } }

/-- An operating state. -/
def within (o : OpState) (s : State) : State := { s with op := o }

/-- The next state. -/
def next (o : Host.Outcome State Fault Refusal) : State :=
  match o with
  | .next s => s
  | _ => base

/-- Every state built by these is out of reset and in RUN, but where `within` says otherwise: the premises on the RESET
input and the operating state that the theorems below leave unsaid. -/
theorem test_builtStatesRun (l : List (Chan × Session)) :
    ((records l).resetAsserted = false ∧ (records l).op = .run) ∧
      ∀ s : State, s.resetAsserted = false → s.op = .run →
        (∀ f, (alter f s).resetAsserted = false ∧ (alter f s).op = .run) ∧
        (∀ st n t, (loop st n t s).resetAsserted = false ∧ (loop st n t s).op = .run) ∧
        (∀ st b g k, (ring st b g k s).resetAsserted = false ∧ (ring st b g k s).op = .run) ∧
        (∀ st t, (battery st t s).resetAsserted = false ∧ (battery st t s).op = .run) ∧
        (∀ x, (receiver x s).resetAsserted = false ∧ (receiver x s).op = .run) ∧
        (∀ c l, (offered c l s).resetAsserted = false ∧ (offered c l s).op = .run) ∧
        ∀ o, (sending o s).resetAsserted = false ∧ (sending o s).op = .run :=
  ⟨⟨rfl, rfl⟩, fun _ h g => ⟨fun _ => ⟨h, g⟩, fun _ _ _ => ⟨h, g⟩, fun _ _ _ _ => ⟨h, g⟩, fun _ _ => ⟨h, g⟩,
    fun _ => ⟨h, g⟩, fun _ _ => ⟨h, g⟩, fun _ => ⟨h, g⟩⟩⟩

/-! ### Well-formed terms -/

theorem test_offerOfUndefinedCode_illFormed : (Instr.commandOffer 0x00).wf = false := by decide
theorem test_unknownOfDefinedCode_illFormed : (Instr.unknown Cmd.start.code).wf = false := by decide
theorem test_writeToControl_illFormed : (Instr.ignoredRegisterWrite 15 0).wf = false := by decide
theorem test_dialStepEnd_illFormed : (Instr.toneStepEnd .dial).wf = false := by decide

/-- A line at rest is no frame (R179). -/
theorem test_frameWithoutStartBit_illFormed : (Instr.conditionReport 0 0 false false).wf = false := by decide

/-! ### Numbers of the spec -/

/-- 08, section 8.8: "a report for channel 5 of LOOP closed has byte 0 = 2Bh ... gives A6h"; its 18 bits are 1,
00101011, 10100110, 0. -/
theorem test_frameCheck : frameCheck 0x2B = 0xA6 ∧
  goodReport 5 .loop true .now = .conditionReport 0x2B 0xA6 false ∧ frameBits 0x2B 0xA6 false = 0x2574C := by decide

/-- Four digits pack the earlier of two in bits 3 to 0 (R178). -/
theorem test_packDigits : packDigits [.num 1, .num 2, .star, .hash] = [0x21, 0xBA] := by decide

/-- The plan of 04, section 4.7. -/
def plan : Vector (Option Entry) 128 :=
  let n := fun i : Fin 10 => PatSym.digit (.num i)
  [(0, [n 0, n 0], Action.deny, 0), (1, [n 0], .group 0, 1), (2, [n 2, .x], .extension 20, 0),
      (3, [n 3, .x], .extension 30, 0), (4, [n 7], .group 2, 0), (5, [n 7, n 7], .channel 29, 0),
      (6, [.digit .star, n 5], .refer, 0), (7, [n 2, n 1], .channel 31, 0)].foldl
    (fun (v : Vector (Option Entry) 128) (x : SlotIx × List PatSym × Action × Fin 4) =>
      put v x.1 (some ⟨x.2.1, x.2.2.1, x.2.2.2⟩)) (Vector.replicate 128 none)

/-- The verdicts of the table of 04, section 4.7. -/
theorem test_verdicts :
    evaluate plan [.num 0] = .waitShort ∧ evaluate plan [.num 0, .num 0] = .complete 0 ∧
      evaluate plan [.num 2] = .wait ∧ evaluate plan [.num 2, .num 1] = .complete 2 ∧
      evaluate plan [.num 4] = .vacant ∧ evaluate plan [.star, .num 5] = .complete 6 := by
  decide

/-- The verdicts at the expiry of 04, section 4.7. -/
theorem test_verdictsAtExpiry :
    evaluateAtExpiry plan [.num 0] = .complete 1 ∧ evaluateAtExpiry plan [.num 2] = .vacant := by
  decide

/-- The last closed report of the pulse-dialled 3 of 02, section 2.4: 60 ms open, the third break. -/
theorem test_pulseBreak :
    look (next (exec (goodReport 0 .loop true .now) { loop .openTiming 2 (some (.flashMax, 40))
        (records [(0, { station .collecting with digitMode := .pulse })]) with now := 60 })).loopQ 0 =
      ⟨.offhook, 3, some (.pulseMakeEnd, 250), 0, 40, 110, 300⟩ := by
  decide

/-- A report of an off-hook loop starts seizure timing through a step. -/
theorem test_step_report :
    (look (next (step { records [(5, station .idle)] with pending := [goodReport 5 .loop true .now] })).loopQ 5).state =
      .seizeTiming := by
  decide

/-! ### Orders of events -/

/-- R126: the frequencies of the tone bursts. -/
theorem test_toneFrequencies :
    [Tone.dial, .ringback, .busy, .reorder, .hold].map toneFrequencies =
      [[425, 475], [425, 475], [475, 625], [475, 625], [525]] := by
  decide

/-- Channel 0 collects with receiver 0, which is about to qualify a digit, and its INTERDIGIT has run out. -/
def lateDigit : State :=
  { receiver ⟨.inService, .onset, some 0, some (.num 7), some (.num 7), some (.toneOnMin, 0)⟩
      (records [(0, { station .collecting with receiver := some 0, timer := some ⟨.interdigit, 0⟩ })]) with
    deliveries := [] }

/-- R65, the third order: the digit is delivered, the expiry ends the collection, and the digit is dropped. -/
theorem test_digitDroppedAfterExpiry :
    (next (exec (.toneOnMinExpiry 0 .later) lateDigit)).deliveries = [.digit 0 0 (.num 7)] ∧
      ((next (exec (.interdigitExpiry 0) (next (exec (.toneOnMinExpiry 0 .later) lateDigit)))).calls.ses 0).digits =
        [] ∧
      (next (exec (.interdigitExpiry 0) (next (exec (.toneOnMinExpiry 0 .later) lateDigit)))).deliveries = [] := by
  decide

/-- R67: a digit delivered before STOP and not yet taken is dropped. -/
theorem test_digitDroppedByStop :
    (next (exec .stop (next (exec (.toneOnMinExpiry 0 .later)
      { lateDigit with mbox := { base.mbox with
        inFlight := some ⟨Cmd.stop.code, Vector.replicate 16 0⟩, state := .busy } }))
      )).deliveries = [] := by
  decide

/-- R61: an indication for the slot that the receiver listened to before is discarded. -/
theorem test_indicationForAnotherSlot :
    exec (.detectorIndication 0 ⟨4, some (.num 7)⟩) lateDigit = .next lateDigit := by
  rfl

/-- R124: after slot 4 has begun, a source set in the middle of the frame reaches slot 5 of the same frame. -/
theorem test_sourceSetMidFrame :
    (next (exec (.frameSync (Vector.replicate 32 0) ⟨some 4, 31⟩) base)).highway.slot = some 4 ∧
      (next (step (next (exec (.frameSync (Vector.replicate 32 0) ⟨some 4, 31⟩) base)))).highway.slot = some 5 := by
  decide

/-- R124: the clocks stop after slot 5, and no slot is driven until the next FS, an event in slot 4 or none. -/
theorem test_clocksStopMidFrame :
    (next (step (next (exec (.frameSync (Vector.replicate 32 0) ⟨some 4, 5⟩) base)))).highway.slot = some 5 ∧
      (next (step (next (step (next (exec (.frameSync (Vector.replicate 32 0) ⟨some 4, 5⟩) base)))))).highway.slot =
        none := by
  decide

/-- R49: a FAR_OPEN and a BATT_ON in flight for the trunks 1 and 2, of which PLACE seizes trunk 1. -/
theorem test_staleBatteryEventsNeverMeetASeizure :
    (next (exec .place { offered .place [0, 1, 1] (records [(0, station .hostwait), (1, trunk .idle),
        (2, trunk .seizing)]) with
      deliveries := [.event 1 .farOpen, .event 1 .battOn, .event 1 .ringBurst, .event 2 .battOn] })).deliveries =
      [.event 1 .ringBurst, .event 2 .battOn] := by
  decide

/-- R168, log 25: a command in flight is due on an empty queue. -/
theorem test_commandInFlightIsDue : (next (step (offered .stop [] base))).pending = [.stop] := by
  decide

/-! ### Hypotheses met: reset, time and the link -/

theorem test_meets_EmptyQueueRunsTheTimebase :
    (State.reset.pending = [] ∧ State.reset.resetAsserted = true) ∧
      (base.pending = [] ∧ base.resetAsserted = false ∧ base.deliveries = [] ∧ base.highway.slot = none ∧
        base.dueCommands = []) ∧
      ({ base with deliveries := [.event 3 .flash] } : State).deliveries = .event 3 .flash :: [] ∧
      (next (exec (.frameSync (Vector.replicate 32 0) ⟨some 4, 31⟩) base)).highway.slot ≠ none ∧
      (next (exec (.frameSync (Vector.replicate 32 0) ⟨some 4, 31⟩) base)).deliveries = [] ∧
      (sending .clearAll base).dueCommands ≠ [] ∧ (sending .clearAll base).highway.slot = none := by
  decide

/-- Nothing in flight; a digit of receiver 0 in flight before another of it; a collection with another receiver, and one
of digit mode TONE. -/
theorem test_meets_DeliveriesAreTakenNowOrLater :
    lateDigit.freshFor (.digit 0 0 (.num 7)) ∧
      ¬ ({ lateDigit with deliveries := [.digit 0 0 .star] } : State).freshFor (.digit 0 0 (.num 7)) ∧
      (lateDigit.resetAsserted = false ∧ (lateDigit.calls.rx 0).state = .onset ∧
        (lateDigit.calls.rx 0).timer = some (.toneOnMin, 0) ∧ (lateDigit.calls.rx 0).assigned = some 0 ∧
        (lateDigit.calls.rx 0).current = some (.num 7)) ∧
      (within .stopping lateDigit).env.op ≠ .run ∧ (lateDigit.calls.ses 0).receiver ≠ some 1 ∧
      (base.calls.ses 0).state ≠ .collecting ∧ (lateDigit.calls.ses 0).digitMode = .tone := by
  unfold State.freshFor
  decide

theorem test_meets_ResetEndSendsClearAllThenStatusRequest :
    State.reset.resetAsserted = true ∧ Instr.statusRead ≠ .hardwareReset ∧ Instr.statusRead ≠ .resetEnd ∧
      State.reset.link.clearPending = true ∧ base.resetAsserted = false := by
  decide

theorem test_meets_FramesCarryTheirBits :
    base.link.flight = none ∧ (sending (.loopClose 31) base).link.flight = some (.loopClose 31) ∧
      base.resetAsserted = false ∧ readReport (frameBits 0x2B 0xA6 false) = some ⟨5, .loop, true⟩ ∧
      frameBits 0x2B 0xA6 false false = 0x0574C := by
  decide

/-- A stop bit of 1, a wrong check, and the condition code 0 with a right check; an idle and a busy transmitter. -/
theorem test_meets_BadFrameIsDiscarded :
    base.resetAsserted = false ∧ true = true ∧ (0xA7 : Byte) ≠ ~~~ ((0x2B : Byte).rotateLeft 3) ∧
      (0x29 : Byte).toNat / 2 % 4 = 0 ∧ base.link.flight = none ∧ (sending .clearAll base).link.flight.isSome = true ∧
      (next (exec (.conditionReport 0x29 0 true) (sending .clearAll base))).link.errorFlag = true ∧
      (next (exec (.conditionReport 0x29 0 true) (sending .clearAll base))).attn.linkErr = true ∧
      (next (exec (.conditionReport 0x29 0 true) (sending .clearAll base))).link.statusPending =
        true := by
  decide

theorem test_meets_ReportsAreRoutedByClass :
    base.resetAsserted = false ∧ (base.calls.ses 0).cls = .unused ∧
      ((records [(31, station .idle)]).calls.ses 31).cls = .station ∧
      ((records [(31, trunk .idle)]).calls.ses 31).cls = .trunk ∧ Condition.ringv ≠ .loop := by
  decide

theorem test_meets_OpeningStartsOpenTiming :
    ∀ st : LoopState, (loop st 0 none (records [(0, station .idle)])).resetAsserted = false ∧
      ((loop st 0 none (records [(0, station .idle)])).calls.ses 0).cls = .station ∧
      (look (loop st 0 none (records [(0, station .idle)])).loopQ 0).state = st := by
  intro st
  cases st <;> decide

/-- Lengths at both ends of each row of R42: 39, 40, 110, 111, 299 and 300 ms. -/
theorem test_meets_OpenIntervalsAreClassified :
    (∀ len ∈ [39, 40, 110, 111, 299, 300],
      len = ({ loop .openTiming 2 none (records [(0, station .talk)]) with now := len } : State).now -
        (look (loop .openTiming 2 none (records [(0, station .talk)])).loopQ 0).openStart) ∧
      (39 < 40 ∧ 40 ≤ 40 ∧ 110 ≤ 110 ∧ 110 < 111 ∧ 299 < 300 ∧ 300 ≤ 300) ∧
      (look (loop .openTiming 2 none (records [(0, station .talk)])).loopQ 0).hitMax = 40 ∧
      (look (loop .openTiming 2 none (records [(0, station .talk)])).loopQ 0).breakMax = 110 ∧
      (look (loop .openTiming 2 none (records [(0, station .talk)])).loopQ 0).flashMin = 300 ∧
      (station .collecting).state = .collecting ∧ { station .collecting with digitMode := .pulse }.digitMode = .pulse ∧
      ¬ ((station .talk).state = .collecting ∧
        ((station .talk).digitMode = .pulse ∨ (station .talk).digitMode = .either)) := by
  decide

theorem test_meets_LoopQualifierTimersEnd :
    (look (loop .seizeTiming 0 (some (.seizeQual, 0)) base).loopQ 0).timer = some (.seizeQual, 0) ∧
      (look (loop .openTiming 0 (some (.flashMax, 0)) base).loopQ 0).timer = some (.flashMax, 0) ∧
      (∀ n ∈ [0, 1, 9, 10, 11],
        (look (loop .offhook n (some (.pulseMakeEnd, 0)) base).loopQ 0).pulses = n ∧
        (look (loop .offhook n (some (.pulseMakeEnd, 0)) base).loopQ 0).timer = some (.pulseMakeEnd, 0)) ∧
      (look base.loopQ 0).timer ≠ some (.seizeQual, 0) ∧ (look base.loopQ 0).timer ≠ some (.flashMax, 0) ∧
      (look base.loopQ 0).timer ≠ some (.pulseMakeEnd, 0) := by
  decide

theorem test_meets_TrunkQualifiersFollowTheirTables_ring :
    ∀ s ∈ [ring .ringIdle none none false, ring .burstTiming (some 0) none false, ring .inBurst none none false,
        ring .gapTiming none (some 0) false, ring .gapTiming (some 0) (some 0) true],
      (s (records [(0, trunk .idle)])).resetAsserted = false ∧
        ((s (records [(0, trunk .idle)])).calls.ses 0).cls = .trunk ∧
        ((look (s (records [(0, trunk .idle)])).ringQ 0).state = .burstTiming →
          (look (s (records [(0, trunk .idle)])).ringQ 0).burst = some 0) ∧
        ((look (s (records [(0, trunk .idle)])).ringQ 0).state = .gapTiming →
          (look (s (records [(0, trunk .idle)])).ringQ 0).gap = some 0) := by
  decide

theorem test_meets_TrunkQualifiersFollowTheirTables_battery :
    ∀ s ∈ [battery .absent none, battery .timing (some 0), battery .present none, battery .dropTiming (some 0)],
      (s (records [(0, trunk .idle)])).resetAsserted = false ∧
        ((s (records [(0, trunk .idle)])).calls.ses 0).cls = .trunk := by
  decide

/-- An order, a broadcast, images that agree and images that differ. -/
theorem test_meets_FrameCompletionWritesTheSentImage :
    (∀ o ∈ [Order.ringOn 31, .clearAll, .statusRequest],
      (sending o (within .stopping base)).resetAsserted = false ∧
        (sending o (within .stopping base)).link.flight = some o) ∧
      (∀ c, base.calls.levels c = look base.link.sent c) ∧
      (closed 4 (sending .statusRequest base)).calls.levels 4 ≠
        look (closed 4 (sending .statusRequest base)).link.sent 4 := by
  decide

/-- The transmitter after a STATUS_REQUEST, with channels 4 and 7 differing and the transmit position 4. -/
def differing (clear status : Bool) : State :=
  let s := closed 4 (closed 7 (sending .statusRequest base))
  { s with link := { s.link with position := 4, clearPending := clear, statusPending := status } }

/-- The transmitter idle. -/
def idling (s : State) : State := { s with link := { s.link with flight := none } }

theorem test_meets_TransmitterPicksInOrder :
    (∀ clear status : Bool, (differing clear status).resetAsserted = false ∧
      (differing clear status).link.flight = some .statusRequest) ∧
      exec .frameCompletion (differing false true) = .next (next (exec .frameCompletion (differing false true))) ∧
      (∀ d : Chan, (differing false true).calls.levels d ≠
          look (next (exec .frameCompletion (differing false true))).link.sent d →
        ((7 : Chan) - (differing false true).link.position - 1).val ≤
          (d - (differing false true).link.position - 1).val) ∧
      (next (exec .frameCompletion (differing false true))).link.flight = some (.loopClose 7) ∧
      (∀ c, (sending .clearAll base).calls.levels c = look (sending .clearAll base).link.sent c) ∧
      base.link.flight = none ∧ (∀ c, base.calls.levels c = look base.link.sent c) ∧
      ((idling (differing false false)).close (differing false false).calls).link.flight = some (.loopClose 7) := by
  refine ⟨by decide, rfl, by decide, by decide, by decide, by decide, by decide, by decide⟩

/-! ### Hypotheses met: line events and releases -/

theorem test_meets_QualifiedEventsAreIgnored :
    State.reset.op ≠ .run ∧ (within .stopping base).op ≠ .run ∧
      (∀ t ∈ [Taking.now, .later], Instr.farOpenMinExpiry 0 t ∈ [.seizeQualExpiry 0 t, .flashMaxExpiry 0 t,
        .pulseMakeEndExpiry 0 t, .burstTimerExpiry 0 t, .gapTimerExpiry 0 t, .battSeizeQualExpiry 0 t,
        .farOpenMinExpiry 0 t]) ∧
      (within .config base).pending = [] ∧
      ({ within .config base with deliveries := [.event 0 .seize] } : State).deliveries = .event 0 .seize :: [] ∧
      base.env.op = .run ∧ (base.calls.ses 0).cls ≠ .station ∧ (base.calls.ses 0).cls ≠ .trunk ∧
      (∀ st : SState, st ∈ [.seized, .idle, .blocked, .seizing, .ringin, .releasing, .hostwait] →
        ((records [(0, station st)]).calls.ses 0).state = st ∧
          ((records [(0, station st)]).calls.ses 0).cls = .station ∧
        ((records [(0, trunk st)]).calls.ses 0).state = st) ∧
      ((closed 0 (records [(0, trunk .hostwait)])).calls.levels 0).loop = true ∧
      ((records [(0, trunk .hostwait)]).calls.levels 0).loop = false ∧
      ∀ left, ({ trunk .seizing with timer := some ⟨.cutThrough, 0⟩ } : Session).timer ≠ some ⟨.seizeWait, left⟩ := by
  refine ⟨by decide, by decide, by decide, by decide, by decide, by decide, by decide, by decide, ?_, by decide,
    by decide, by simp⟩
  intro st
  cases st <;> decide

/-- An IDLE station whose seizure is due, in each digit mode. -/
def seizing (m : DigitMode) : State :=
  loop .seizeTiming 0 (some (.seizeQual, 0)) (records [(0, { station .idle with digitMode := m })])

/-- No receiver FREE. -/
def noReceiver (s : State) : State :=
  alter (fun k => { k with receivers := Vector.replicate 8 ⟨.out, .offline, none, none, none, none⟩ }) s

theorem test_meets_SeizureBeginsDialling :
    (∀ m ∈ [DigitMode.pulse, .tone, .either], (seizing m).resetAsserted = false ∧ (seizing m).op = .run ∧
      ((seizing m).calls.ses 0).cls = .station ∧ ((seizing m).calls.ses 0).state = .idle ∧
      (look (seizing m).loopQ 0).state = .seizeTiming ∧ (look (seizing m).loopQ 0).timer = some (.seizeQual, 0) ∧
      ((seizing m).calls.ses 0).digitMode = m ∧ (seizing m).freshFor (.event 0 .seize)) ∧
      ((seizing .tone).calls.rx 0).state = .free ∧
      ((receiver ⟨.out, .offline, none, none, none, none⟩ (seizing .tone)).calls.rx 1).state = .free ∧
      (∀ q < (1 : RxIx),
        ((receiver ⟨.out, .offline, none, none, none, none⟩ (seizing .tone)).calls.rx q).state ≠ .free) ∧
      ∀ r, ((noReceiver (seizing .tone)).calls.rx r).state ≠ .free := by
  unfold State.freshFor
  decide

/-- Channels 0 and 2 ring for channel 1. -/
def ringing (o : Session) : State :=
  records [(0, { station .ringing with peer := some 1 }), (1, { o with ringCount := 2, phaseOn := true }),
    (2, { station .ringing with peer := some 1 })]

theorem test_meets_AnswerJoinsTheParties :
    ∀ o ∈ [station .outring, trunk .ringin],
      (loop .seizeTiming 0 (some (.seizeQual, 0)) (ringing o)).resetAsserted = false ∧
      (loop .seizeTiming 0 (some (.seizeQual, 0)) (ringing o)).op = .run ∧
      ((ringing o).calls.ses 0).cls = .station ∧ ((ringing o).calls.ses 0).state = .ringing ∧
      ((ringing o).calls.ses 0).peer = some 1 ∧
      (((ringing o).calls.ses 1).state = .outring ∨ ((ringing o).calls.ses 1).state = .ringin) ∧
      look (loop .seizeTiming 0 (some (.seizeQual, 0)) (ringing o)).loopQ 0 =
        ⟨.seizeTiming, 0, some (.seizeQual, 0), 0, 40, 110, 300⟩ ∧
      (ringing o).freshFor (.event 0 .seize) ∧
      (loop .seizeTiming 0 (some (.seizeQual, 0)) (ringing o)).noQueue ∧ (ringing o).calls.ringsFor 1 2 ∧
      ∀ d, d ≠ 0 → (ringing o).calls.ringsFor 1 d →
        (loop .seizeTiming 0 (some (.seizeQual, 0)) (ringing o)).atRest d := by
  unfold State.noQueue State.atRest Calls.ringsFor State.freshFor
  decide

/-- Channels 0 and 2 ring for channel 1, station 0 answers, and channel 5 heads the camp-on queue of group 3, of which 2
is a member. -/
def answering : State :=
  group 3 ⟨.linear, [2], 0, none, none, 8, 30, [5]⟩
    (alter (fun k => k.setSes 5 { station .queued with curGroup := some 3 })
      (loop .seizeTiming 0 (some (.seizeQual, 0)) (ringing (station .outring))))

/-- Station 2 is found off-hook. -/
def foundOffhook (s : State) : State := { s with loopQ := put s.loopQ 2 { look s.loopQ 2 with state := .offhook } }

/-- The un-rung station is neither at rest nor without a caller for it, and the list of the un-rung is `[2]`. -/
theorem test_meets_AnswerJoinsTheParties_unrung :
    ¬ (foundOffhook answering).atRest 2 ∧ answering.atRest 2 ∧ ¬ answering.noQueue ∧ answering.serves 2 3 ∧
      answering.freshFor (.event 0 .seize) ∧
      (List.finRange 32).filter (fun d => d ≠ 0 ∧ (answering.calls.ses d).state = .ringing ∧
        (answering.calls.ses d).peer = some 1) = [2] := by
  unfold State.noQueue State.atRest State.serves State.freshFor
  decide

/-- Sequence 10.2, case B: the un-rung station is taken as seized if it is found off-hook (R27); at rest it is rung for
the head of the queue (R117). -/
theorem test_answerTakesUpTheUnrung :
    ((next (exec (.seizeQualExpiry 0) (foundOffhook answering))).calls.ses 2).state = .collecting ∧
      (look (next (exec (.seizeQualExpiry 0) (foundOffhook answering))).calls.notices 2).getLsbD 0 = true ∧
      ((next (exec (.seizeQualExpiry 0) answering)).calls.ses 2).state = .ringing ∧
      ((next (exec (.seizeQualExpiry 0) answering)).calls.ses 2).peer = some 5 ∧
      ((next (exec (.seizeQualExpiry 0) answering)).calls.ses 5).state = .outring := by
  decide

/-- The lists of un-rung stations of an originator that leaves, and of a channel that rings nobody. -/
theorem test_meets_LeavingGivesUpWhatTheStateHeld_unrung :
    ∀ x ∈ [(ringing (station .outring), (1 : Chan), [(0 : Chan), 2]), (ringing (station .talk), 1, [])],
      (List.finRange 32).filter (fun d => (x.1.calls.ses x.2.1).state ∈ [.outring, .ringin] ∧
        (x.1.calls.ses d).state = .ringing ∧ (x.1.calls.ses d).peer = some x.2.1) = x.2.2 ∧
      (x.1.calls.ses x.2.1).peer ≠ some x.2.1 ∧ (x.1.calls.ses x.2.1).heldBy ≠ some x.2.1 ∧
      x.2.1 ∉ x.1.calls.rxQueue := by
  decide

/-- Channel 0 hangs up. -/
def hanging (s : State) : State := loop .openTiming 0 (some (.flashMax, 0)) s

/-- Channel 0 is about to leave in the way `x`. -/
def leavingBy (x : Leaving) (s : State) : State :=
  match x with
  | .hangUp => hanging s
  | .farOpen => battery .dropTiming (some 0) s
  | .drop => offered .drop [0] s
  | .transfer => offered .transfer [0] s

/-- A record whose state may be any: partner 1, holder 2, bridge 3, receiver 0. -/
def party (r : Session) : Session :=
  { r with peer := some 1, heldBy := some 2, bridge := some 3, receiver := some 0 }

/-- Every off-hook state of a station, by hang-up and by DROP. -/
theorem test_meets_LeavingGivesUpWhatTheStateHeld_station :
    ∀ st ∈ [SState.seized, .collecting, .hostwait, .outring, .trunkwait, .queued, .talk, .held, .confer, .toneout,
        .lockout],
      (Leaving.hangUp.ready (leavingBy .hangUp (records [(0, party (station st))])) 0 (bytes [0]) ∧
        Leaving.hangUp.leaves (leavingBy .hangUp (records [(0, party (station st))])) 0) ∧
      (Leaving.drop.ready (leavingBy .drop (records [(0, party (station st))])) 0 (bytes [0]) ∧
        Leaving.drop.leaves (leavingBy .drop (records [(0, party (station st))])) 0) ∧
      ((leavingBy .drop (records [(0, party (station st))])).calls.ses 0).holds = none ∧
      (leavingBy .drop (records [(0, party (station st))])).mayGiveUp 0 := by
  simp only [Leaving.ready, Leaving.leaves, State.taking, State.mayGiveUp, State.noQueue, State.atRest, Calls.ringsFor,
    State.freshFor]
  decide

/-- Every state from which a trunk leaves by its far end, and by DROP. -/
theorem test_meets_LeavingGivesUpWhatTheStateHeld_trunk :
    (∀ st ∈ [SState.seizing, .talk, .held, .confer, .hostwait],
      Leaving.farOpen.ready (leavingBy .farOpen (closed 0 (records [(0, party (trunk st))]))) 0 (bytes [0]) ∧
        Leaving.farOpen.leaves (leavingBy .farOpen (closed 0 (records [(0, party (trunk st))]))) 0) ∧
      ∀ st ∈ [SState.ringin, .queued, .hostwait, .seizing, .talk, .held, .confer],
        Leaving.drop.ready (leavingBy .drop (records [(0, party (trunk st))])) 0 (bytes [0]) ∧
          Leaving.drop.leaves (leavingBy .drop (records [(0, party (trunk st))])) 0 ∧
          (leavingBy .drop (records [(0, party (trunk st))])).mayGiveUp 0 := by
  simp only [Leaving.ready, Leaving.leaves, State.taking, State.mayGiveUp, State.noQueue, State.atRest, Calls.ringsFor,
    State.freshFor]
  decide

/-- What the clauses of `gaveUp` tell apart: the receiver's service and the wait queue, a ringing set at rest, a
bridge of three and one of four. -/
theorem test_meets_gaveUp :
    ((base.calls.rx 0).service = .inService ∧ base.calls.rxQueue = [] ∧
      (receiver ⟨.withdrawPending, .quiet, some 0, none, none, none⟩ base).calls.rx 0 =
        ⟨.withdrawPending, .quiet, some 0, none, none, none⟩ ∧
      (alter (fun k => { k with rxQueue := [5, 6] }) base).calls.rxQueue = 5 :: [6]) ∧
      ((records [(0, station .outring), (5, { station .ringing with peer := some 0 })]).calls.ringsFor 0 5 ∧
        (records [(0, station .outring), (5, { station .ringing with peer := some 0 })]).mayGiveUp 0) ∧
      ((bridge 3 [0, 4, 5] base).calls.members 3).filter (· ≠ 0) = [4, 5] ∧
      (((bridge 3 [0, 4, 5, 6] base).calls.members 3).filter (· ≠ 0)).length ≠ 2 := by
  simp only [State.mayGiveUp, State.noQueue, State.atRest, Calls.ringsFor]
  decide

/-- Channel 0 in TALK with channel 1. -/
def talking (a b : SState → Session) : State :=
  records [(0, { a .talk with peer := some 1 }), (1, { b .talk with peer := some 0 })]

theorem test_meets_IncomingCallWaitsOrIsAbandoned :
    ((records [(0, trunk .idle)]).calls.ses 0).answerGroup = none ∧
      (look (ring .burstTiming (some 0) none false (records [(0, trunk .idle)])).ringQ 0).burst = some 0 ∧
      (look (ring .gapTiming none (some 0) false (records [(0, trunk .hostwait)])).ringQ 0).gap = some 0 ∧
      ((records [(0, trunk .hostwait)]).calls.levels 0).loop = false ∧
      ((records [(0, trunk .queued)]).calls.ses 0).state = .queued ∧ base.freshFor (.event 0 .ringBurst) ∧
      base.freshFor (.event 0 .ringGone) ∧
      ((records [(0, trunk .ringin), (1, { station .ringing with peer := some 0 })]).calls.ses 0).state = .ringin ∧
      (records [(0, trunk .ringin), (1, { station .ringing with peer := some 0 })]).mayGiveUp 0 := by
  simp only [State.freshFor, State.mayGiveUp, State.noQueue, State.atRest, Calls.ringsFor]
  decide

/-- Channel 0 with a timer run out. -/
def expired (r : Session) (kind : TimerKind) : State := records [(0, { r with timer := some ⟨kind, 0⟩ })]

theorem test_meets_WaitsAndTonesRunOut :
    ((expired (station .seized) .rxWait).calls.ses 0).timer = some ⟨.rxWait, 0⟩ ∧
      ((expired (station .seized) .rxWait).calls.ses 0).state = .seized ∧
      ((expired (station .toneout) .toneout).calls.ses 0).timer = some ⟨.toneout, 0⟩ ∧
      ((expired (station .toneout) .toneout).calls.ses 0).state = .toneout := by
  decide

theorem test_meets_WaitsAndTonesRunOut_firstDigit :
    (∀ x ∈ [(none : Option RxIx), some 0],
      ((expired { station .collecting with receiver := x } .firstDigit).calls.ses 0).receiver = x ∧
      ((expired { station .collecting with receiver := x } .firstDigit).calls.ses 0).state = .collecting ∧
      0 ∉ (expired { station .collecting with receiver := x } .firstDigit).calls.rxQueue) ∧
      ((receiver ⟨.withdrawPending, .quiet, some 0, none, none, none⟩ base).calls.rx 0).service ≠ .inService ∧
      (base.calls.rx 0).service = .inService ∧ base.calls.rxQueue = [] ∧
      (alter (fun k => { k with rxQueue := [5] }) base).calls.rxQueue = [5] := by
  decide

/-- Group 1 has channel 0 for a member and channel 5 in its queue. -/
def camped : State :=
  group 1 ⟨.circular, [3, 0], 0, none, none, 8, 30, [5]⟩
    (records [(0, { station .releasing with timer := some ⟨.guard, 0⟩ }), (5, station .queued)])

/-- Channel 0 about to enter IDLE, with its line at rest, and no group to use it. -/
theorem test_meets_GuardExpiryReturnsToIdle :
    (within .stopping (expired (station .releasing) .guard)).op ≠ .run ∧
      (expired (station .releasing) .guard).atRest 0 ∧ (∀ f, ¬ (expired (station .releasing) .guard).serves 0 f) ∧
      ((expired (station .releasing) .guard).calls.ses 0).state = .releasing ∧
      ((expired (station .releasing) .guard).calls.ses 0).timer = some ⟨.guard, 0⟩ := by
  unfold State.atRest State.serves
  decide

/-- The line check: an off-hook station of each digit mode, and a ringing trunk with and without an answer group. -/
theorem test_meets_entersIdle_lineCheck :
    (∀ m ∈ [DigitMode.pulse, .tone, .either],
      (look (loop .openTiming 0 none (records [(0, { station .releasing with digitMode := m })])).loopQ 0).state =
        .openTiming ∧
      ((records [(0, { station .releasing with digitMode := m })]).calls.ses 0).digitMode = m ∧
      ((records [(0, { station .releasing with digitMode := m })]).calls.ses 0).cls = .station) ∧
      ∀ g ∈ [none, some (7 : GroupIx)],
        (look (ring .inBurst none none false (records [(0, { trunk .releasing with answerGroup :=
          g })])).ringQ 0).state =
          .inBurst ∧
        ((records [(0, { trunk .releasing with answerGroup := g })]).calls.ses 0).answerGroup = g ∧
        ((records [(0, { trunk .releasing with answerGroup := g })]).calls.ses 0).cls = .trunk := by
  decide

/-- The free path of a station and of a trunk. -/
theorem test_meets_entersIdle_freePath :
    ∀ s ∈ [camped, alter (fun k => k.alter 0 fun r => { r with cls := .trunk }) camped],
      s.op = .run ∧ s.atRest 0 ∧ s.serves 0 1 ∧ (∀ f < (1 : GroupIx), ¬ s.serves 0 f) ∧
        (s.calls.group 1).queue = [5] ∧ (s.calls.ses 5).state = .queued := by
  unfold State.atRest State.serves
  decide

/-! ### Hypotheses met: digits, placement and the highway -/

/-- A collection of channel 0 with a plan and digits. -/
def collected (kind : TimerKind) (ds : List Digit) (cls : Fin 4) : State :=
  { expired { station .collecting with digits := ds, serviceClass := cls } kind with plan := plan }

/-- Receiver 0 has qualified a digit for channel 0, which collects with it. -/
def qualified (d : Digit) (ds : List Digit) : State :=
  { receiver ⟨.inService, .onset, some 0, some d, some d, some (.toneOnMin, 0)⟩
      (records [(0, { station .collecting with receiver := some 0, digits := ds })]) with plan := plan }

/-- Channel 0 has pulsed a 7 and collects by pulses. -/
def pulsed (ds : List Digit) : State :=
  { loop .offhook 7 (some (.pulseMakeEnd, 0))
      (records [(0, { station .collecting with digitMode := .pulse, digits := ds })])
    with plan := plan }

/-- What asks for an evaluation, ready in each case. -/
theorem test_meets_CollectionsGoByTheirVerdict_ready :
    Asking.interdigit.ready (collected .interdigit [.num 0] 0) 0 ∧
      Asking.overlap.ready (collected .overlap [.num 0] 0) 0 ∧
      (Asking.tone 0 .star).ready (qualified .star []) 0 ∧ (Asking.pulse 7).ready (pulsed []) 0 ∧
      (∀ s ∈ [collected .interdigit [.num 0] 0, collected .overlap [.num 0] 0, qualified .star [], pulsed []],
        s.resetAsserted = false ∧ (s.calls.ses 0).cls = .station ∧ (s.calls.ses 0).state = .collecting ∧
          0 ∉ s.calls.rxQueue) := by
  simp only [Asking.ready, State.freshFor]
  decide

/-- Each verdict: WAIT for `2`, WAIT_SHORT for `7` (entry 4 and the longer 5), VACANT for `4`, entry 0 (DENY), entry 1
(GROUP) with a low and a high class, entry 6 (REFER), entry 5 (CHANNEL 29), entry 2 (EXTENSION 20: `2 1` names 21) and
entry 3 (EXTENSION 30: `3 9` names no channel). -/
theorem test_meets_CollectionsGoByTheirVerdict_verdicts :
    (Asking.tone 0 (.num 2)).verdict plan [.num 2] = .wait ∧ (Asking.pulse 7).verdict plan [.num 7] = .waitShort ∧
      (Asking.tone 0 (.num 4)).verdict plan [.num 4] = .vacant ∧
      Asking.interdigit.verdict plan [.num 0, .num 0] = .complete 0 ∧
      look plan 0 = some ⟨[.digit (.num 0), .digit (.num 0)], .deny, 0⟩ ∧
      Asking.overlap.verdict plan [.num 0] = .complete 1 ∧ look plan 1 = some ⟨[.digit (.num 0)], .group 0, 1⟩ ∧
      ((collected .overlap [.num 0] 0).calls.ses 0).serviceClass < 1 ∧
      (1 : Fin 4) ≤ ((collected .overlap [.num 0] 1).calls.ses 0).serviceClass ∧
      (Asking.tone 0 (.num 5)).verdict plan [.star, .num 5] = .complete 6 ∧
      look plan 6 = some ⟨[.digit .star, .digit (.num 5)], .refer, 0⟩ ∧
      (Asking.pulse 7).verdict plan [.num 7, .num 7] = .complete 5 ∧
      look plan 5 = some ⟨[.digit (.num 7), .digit (.num 7)], .channel 29, 0⟩ ∧
      (⟨[.digit (.num 7), .digit (.num 7)], .channel 29, 0⟩ : Entry).names [.num 7, .num 7] 29 ∧
      (Asking.tone 0 (.num 1)).verdict plan [.num 2, .num 1] = .complete 2 ∧
      (⟨[.digit (.num 2), .x], .extension 20, 0⟩ : Entry).names [.num 2, .num 1] 21 ∧
      (Asking.tone 0 (.num 9)).verdict plan [.num 3, .num 9] = .complete 3 ∧
      (⟨[.digit (.num 3), .x], .extension 30, 0⟩ : Entry).names [.num 3, .num 9] 39 := by
  unfold Entry.names
  decide

/-- The destination unused, the station itself, idle, and busy. -/
theorem test_meets_CollectionsGoByTheirVerdict_destinations :
    ((collected .overlap [.num 7, .num 7] 0).calls.ses 29).cls = .unused ∧
      ((records [(0, station .collecting), (29, station .idle)]).calls.ses 29).state = .idle ∧
      ((records [(0, station .collecting), (29, trunk .talk)]).calls.ses 29).state ≠ .idle ∧
      ((records [(0, station .collecting), (29, trunk .talk)]).calls.ses 29).cls ≠ .unused ∧ (29 : Chan) ≠ 0 ∧
      29 ∉ (records [(0, station .collecting), (29, station .idle)]).calls.rxQueue := by
  decide

/-- The candidates of the digits `*5` are those of entry 6 alone. -/
theorem test_meets_candidate : candidate plan [.star, .num 5] 6 ⟨[.digit .star, .digit (.num 5)], .refer, 0⟩ := by
  refine ⟨by decide, by decide, ?_⟩
  intro j s d hs hd
  match j, hs, hd with
  | 0, hs, hd => exact .inl (by simp_all)
  | 1, hs, hd => exact .inl (by simp_all)
  | j + 2, hs, _ => simp at hs

/-- The CADENCE due at channel 1, which rings channels 0 and 2. -/
def cadence (o : Session) (on : Bool) (cycles : Nat) : State :=
  alter (fun k => k.alter 1 fun r => { r with phaseOn := on, cycles := cycles })
    (ringing { o with timer := some ⟨.cadence, 0⟩ })

theorem test_meets_CadenceTurnsThePhase :
    (∀ o ∈ [station .outring, trunk .ringin], ∀ on : Bool, ∀ n ∈ [0, 3, 4, 15],
      ((cadence o on n).calls.ses 1).state = o.state ∧ ((cadence o on n).calls.ses 1).timer = some ⟨.cadence, 0⟩ ∧
        ((cadence o on n).calls.ses 1).phaseOn = on ∧ ((cadence o on n).calls.ses 1).curGroup = none) ∧
      (min (0 + 1) 15 < look base.params.current Param.noAnswerCycles ∧
        look base.params.current Param.noAnswerCycles ≤ min (15 + 1) 15) ∧
      (cadence (station .outring) false 15).noQueue ∧
      (∀ d, (cadence (station .outring) false 15).calls.ringsFor 1 d →
        (cadence (station .outring) false 15).atRest d) ∧
      (cadence (trunk .ringin) false 15).calls.ringsFor 1 0 ∧
      ((cadence { station .outring with curGroup := some 2 } false 15).calls.ses 1).curGroup = some 2 ∧
      ((group 2 ⟨.all, [], 0, none, some 3, 0, 30, []⟩
        (cadence { station .outring with curGroup := some 2, tried := 8 } false 15)).calls.group 2).noAnswer = some 3 ∧
      ((cadence { station .outring with curGroup := some 2, tried := 8 } false 15).calls.ses 1).tried.getLsbD 3 =
        true := by
  unfold State.noQueue State.atRest Calls.ringsFor
  decide

/-- Channel 0 is seized for channel 1. -/
def trunkSeizure (kind : TimerKind) (left : Nat) : State :=
  records [(0, { trunk .seizing with peer := some 1, timer := some ⟨kind, left⟩ }),
    (1, { station .trunkwait with peer := some 0 })]

theorem test_meets_TrunkSeizureSucceedsOrFails :
    (∀ kind ∈ [TimerKind.seizeWait, .cutThrough], ((trunkSeizure kind 0).calls.ses 0).state = .seizing ∧
      ((trunkSeizure kind 0).calls.ses 0).peer = some 1 ∧ (1 : Chan) ≠ 0 ∧
      ((trunkSeizure kind 0).calls.ses 0).timer = some ⟨kind, 0⟩) ∧
      (battery .timing (some 0) (trunkSeizure .seizeWait 5)).op = .run ∧
      (battery .timing (some 0) (trunkSeizure .seizeWait 5)).calls.batt 0 = ⟨.timing, some 0⟩ ∧
      ((battery .timing (some 0) (trunkSeizure .seizeWait 5)).calls.ses 0).timer = some ⟨.seizeWait, 5⟩ ∧
      (battery .timing (some 0) (trunkSeizure .seizeWait 5)).freshFor (.event 0 .battOn) ∧
      ((trunkSeizure .seizeWait 0).calls.ses 1).curGroup = none ∧
      ((trunkSeizure .seizeWait 0).calls.ses 1).ringCount = 0 := by
  unfold State.freshFor
  decide

/-- The hunt that found trunk 0 in a group of 9, 0 and 3: by LINEAR only 3 is examined after it, by CIRCULAR and ALL
every member. -/
def afterFailure (method : Method) : State :=
  group 1 ⟨method, [9, 0, 3], 0, none, none, 8, 30, []⟩
    (records [(0, trunk .blocked), (1, { station .trunkwait with peer := some 0, curGroup := some 1 }),
      (3, station .idle), (9, station .idle)])

theorem test_meets_TrunkSeizureSucceedsOrFails_hunt :
    ((afterFailure .linear).calls.group 1).members.Nodup ∧
      ((afterFailure .linear).calls.ses 1).curGroup = some 1 ∧ 0 ∈ ((afterFailure .linear).calls.group 1).members ∧
      (afterFailure .linear).calls.firstEligible 1 1
        (fun m => ((afterFailure .linear).calls.group 1).members.idxOf 0 <
          ((afterFailure .linear).calls.group 1).members.idxOf m) 3 ∧
      (afterFailure .circular).calls.firstEligible 1 1 (fun _ => True) 3 ∧
      ((afterFailure .all).calls.group 1).members.filter ((afterFailure .all).calls.eligible .all 1) = [9, 3] := by
  unfold Calls.firstEligible
  decide

theorem test_meets_ReceiversFollowTheirTables :
    (∀ st ∈ [RxState.free, .offline, .quiet, .onset, .digit, .gap],
      ((receiver ⟨.inService, st, some 0, some .hash, some .star, some (.toneGapMin, 0)⟩ base).calls.rx 0).state = st) ∧
      (some (Digit.num 9) ≠ some .star ∧ some Digit.hash ≠ some .star ∧ some Digit.star ≠ none) := by
  decide

theorem test_meets_ReceiverServiceFollowsItsTable :
    (∀ b ∈ [(0 : Byte), 1], (offered .receiverService [0, b] base).taking .receiverService (bytes [0, b]) ∧
      (look (bytes [0, b]) 0).toNat = (0 : RxIx) ∧ look (bytes [0, b]) 1 = b) ∧
      (offered .receiverService [7, 1] base).taking .receiverService (bytes [7, 1]) ∧ base.op ≠ .stopping ∧
      (base.calls.rx 0).state = .free ∧ RxState.quiet ∉ [.free, .offline] ∧ base.calls.rxQueue = [] ∧
      (alter (fun k => { k with rxQueue := [5, 6] }) base).calls.rxQueue = [5, 6] := by
  unfold State.taking
  decide

/-- Channel 0 in HOSTWAIT; group 1 of channels 2, 3, 4, in which 2 is busy. -/
def waiting (method : Method) (overflow : Option GroupIx) (limit : Nat) : State :=
  group 1 ⟨method, [2, 3, 4], 2, overflow, none, limit, 30, []⟩
    (records [(0, station .hostwait), (2, station .talk), (3, station .idle), (4, station .idle), (9, trunk .idle)])

/-- The same with every member busy. -/
def allBusy (limit : Nat) : State :=
  alter (fun k => (k.setSes 3 (station .talk)).setSes 4 (station .talk)) (waiting .all none limit)

theorem test_meets_HuntsChooseByMethod :
    ((waiting .linear none 8).calls.group 1).members.Nodup ∧ ((waiting .linear none 8).calls.ses 0).ringCount = 0 ∧
      (waiting .linear none 8).calls.firstEligible 1 0 (fun _ => True) 3 ∧
      (waiting .circular none 8).calls.firstEligible 1 0 (fun _ => True) 3 ∧
      ((waiting .all none 8).calls.group 1).members.filter ((waiting .all none 8).calls.eligible .all 0) = [3, 4] ∧
      (∀ n ∈ [0, 8], ∀ m ∈ ((allBusy n).calls.group 1).members, (allBusy n).calls.eligible .all 0 m = false) ∧
      ((allBusy 8).calls.group 1).queue.length < ((allBusy 8).calls.group 1).queueLimit ∧
      ((allBusy 0).calls.group 1).queueLimit ≤ ((allBusy 0).calls.group 1).queue.length ∧
      ((waiting .linear (some 7) 0).calls.group 1).overflow = some 7 ∧
      ((waiting .linear (some 7) 0).calls.ses 0).tried.getLsbD 7 = false ∧
      ((waiting .linear none 0).calls.group 1).overflow = none := by
  unfold Calls.firstEligible
  decide

theorem test_meets_PlacementsStartHuntsOrGoDirect_place :
    (offered .place [0, 0, 1] (waiting .linear none 8)).taking .place (bytes [0, 0, 1]) ∧
      (waiting .linear none 8).op = .run ∧ ((waiting .linear none 8).calls.ses 0).state = .hostwait ∧
      ¬ (((waiting .linear none 8).calls.ses 0).cls = .trunk ∧ ((waiting .linear none 8).calls.levels 0).loop = true) ∧
      ((closed 0 (records [(0, trunk .hostwait)])).calls.levels 0).loop = true ∧
      (base.calls.ses 0).state ≠ .hostwait ∧
      look (bytes [0, 0, 1]) 1 = 0 ∧ (look (bytes [0, 0, 1]) 2).toNat = (1 : GroupIx) ∧
      look (bytes [0, 1, 9]) 1 = 1 ∧ (look (bytes [0, 1, 9]) 2).toNat = (9 : Chan) ∧
      ((waiting .linear none 8).calls.ses 9).cls = .trunk ∧ ((waiting .linear none 8).calls.ses 9).state = .idle ∧
      ((waiting .linear none 8).calls.ses 0).cls ≠ .trunk ∧ ((waiting .linear none 8).calls.ses 3).cls = .station ∧
      ((waiting .linear none 8).calls.ses 2).state ≠ .idle ∧ ((waiting .linear none 8).calls.ses 2).state ≠ .blocked ∧
      ((waiting .linear none 8).calls.ses 2).cls ≠ .unused ∧ ((waiting .linear none 8).calls.ses 31).cls = .unused := by
  unfold State.taking
  decide

/-- The three expiries and events that start or go on with a hunt. -/
theorem test_meets_PlacementsStartHuntsOrGoDirect_others :
    ((ring .burstTiming (some 0) none false (records [(0, { trunk .idle with answerGroup := some 7 })])).calls.ses
        0).answerGroup = some 7 ∧
      (ring .burstTiming (some 0) none false (records [(0, { trunk .idle with answerGroup := some 7 })])).freshFor
        (.event 0 .ringBurst) ∧
      (∀ o ∈ [station .outring, trunk .ringin],
        ((cadence { o with curGroup := some 2 } false 15).calls.ses 1).curGroup = some 2 ∧
        ((cadence { o with curGroup := some 2 } false 15).calls.ses 1).tried.getLsbD 3 = false) ∧
      (∀ r ∈ [station .queued, trunk .queued], ((expired { r with curGroup := some 1 } .queueWait).calls.ses 0).state =
          .queued ∧ ((expired { r with curGroup := some 1 } .queueWait).calls.ses 0).timer = some ⟨.queueWait, 0⟩ ∧
        ((expired { r with curGroup := some 1 } .queueWait).calls.ses 0).curGroup = some 1 ∧
        ((expired { r with curGroup := some 1 } .queueWait).calls.ses 0).ringCount = 0) := by
  unfold State.freshFor
  decide

theorem test_meets_HighwayFramesAndToneSteps :
    (base.calls.ses 0).cls = .unused ∧ look base.calls.listen 0 = .none ∧
      look (alter (fun k => k.setListen 5 (.slot 4)) base).calls.listen 5 = .slot 4 ∧
      look (alter (fun k => k.setListen 5 (.tone .busy)) base).calls.listen 5 = .tone .busy ∧
      look (alter (fun k => k.setListen 5 (.bridge 3)) base).calls.listen 5 = .bridge 3 ∧
      ((records [(5, station .confer)]).calls.ses 5).cls ≠ .unused ∧
      (look (put base.tones (toneIx .busy) ⟨1, some 500⟩) (toneIx .busy)).step = 1 ∧
      look ({ base with tones := put base.tones (toneIx .hold) ⟨3, some 0⟩ } : State).tones (toneIx .hold) =
        ⟨3, some 0⟩ ∧
      (look base.tones (toneIx .dial)).left ≠ some 0 ∧
      (∀ c ∈ [(0 : Chan), 30, 31],
        (next (exec (.frameSync (Vector.replicate 32 0) ⟨some c, 31⟩) base)).highway.slot = some c ∧
        (next (exec (.frameSync (Vector.replicate 32 0) ⟨some c, 31⟩) base)).pending = [] ∧
        (next (exec (.frameSync (Vector.replicate 32 0) ⟨some c, 31⟩) base)).deliveries = []) ∧
      (∀ x ∈ [(⟨none, 0⟩ : Clocking), ⟨none, 31⟩, ⟨some 5, 4⟩],
        (next (exec (.frameSync (Vector.replicate 32 0) x) base)).highway.slot = none) := by
  decide

/-! ### Hypotheses met: commands -/

/-- Channel 0 in TALK with channel 1, holding channel 2. -/
def consulting : State :=
  records [(0, { station .talk with peer := some 1, holds := some 2 }), (1, { station .talk with peer := some 0 }),
    (2, { trunk .held with heldBy := some 0 })]

theorem test_meets_ConferencesFormAndGrow_conference :
    (offered .conference [0] consulting).taking .conference (bytes [0]) ∧ consulting.op = .run ∧
      (look (bytes [0]) 0).toNat = (0 : Chan) ∧ (consulting.calls.ses 0).state = .talk ∧
      (consulting.calls.ses 0).holds = some 2 ∧ (consulting.calls.ses 0).peer = some 1 ∧
      (consulting.calls.ses 1).holds = none ∧ consulting.calls.members 0 = [] ∧
      (bridge 0 [5, 6, 7] consulting).calls.members 1 = [] ∧
      (∀ a < (1 : BridgeIx), (bridge 0 [5, 6, 7] consulting).calls.members a ≠ []) ∧
      (∀ b, (bridge 0 [5, 6, 7] (bridge 1 [5, 6, 7] (bridge 2 [5, 6, 7] (bridge 3 [5, 6, 7]
        consulting)))).calls.members b
        ≠ []) ∧
      (base.calls.ses 0).state ≠ .talk := by
  unfold State.taking
  decide

theorem test_meets_ConferencesFormAndGrow_join :
    (offered .join [3, 9] (bridge 3 [5, 6, 7] (records [(9, station .hostwait)]))).taking .join (bytes [3, 9]) ∧
      (look (bytes [3, 9]) 0).toNat = (3 : BridgeIx) ∧ (look (bytes [3, 9]) 1).toNat = (9 : Chan) ∧
      ((bridge 3 [5, 6, 7] (records [(9, station .hostwait)])).calls.members 3).length = 3 ∧
      4 ≤ ((bridge 3 [5, 6, 7, 8] base).calls.members 3).length ∧ base.calls.members 3 = [] ∧
      ((records [(9, station .hostwait)]).calls.ses 9).state = .hostwait ∧
      ((records [(9, station .hostwait)]).calls.ses 9).holds = none ∧
      ((records [(9, { trunk .held with heldBy := some 4 })]).calls.ses 9).heldBy = some 4 ∧ (4 : Chan) ≠ 9 := by
  unfold State.taking
  decide

/-- Channel 0 has flashed: its open interval ends in the range of a flash. -/
def flashing (s : State) : State := { loop .openTiming 0 (some (.flashMax, 200)) s with now := 500 }

theorem test_meets_ConsultationsStart :
    (Request.command.ready (offered .hold [0] (talking station trunk)) .hold 0 (bytes [0]) ∧
      Request.flash.ready (flashing (talking station trunk)) .hold 0 (bytes [0])) ∧
      ((talking station trunk).calls.ses 0).cls = .station ∧ ((talking station trunk).calls.ses 0).state = .talk ∧
      ((talking station trunk).calls.ses 0).holds = none ∧ ((talking station trunk).calls.ses 0).peer = some 1 ∧
      ((talking station trunk).calls.ses 1).holds = none ∧ (1 : Chan) ≠ 0 ∧
      ((talking station trunk).calls.ses 0).flashMode = .notice ∧
      ((talking (fun st => { station st with flashMode := .consult }) trunk).calls.ses 0).flashMode = .consult ∧
      ((talking station trunk).calls.ses 0).digitMode ≠ .pulse ∧ ((talking station trunk).calls.rx 0).state = .free ∧
      (∀ r, ((noReceiver (talking station trunk)).calls.rx r).state ≠ .free) ∧
      ((talking (fun st => { station st with digitMode := .pulse }) trunk).calls.ses 0).digitMode = .pulse ∧
      ((talking trunk station).calls.ses 0).cls ≠ .station := by
  simp only [Request.ready, State.taking, State.freshFor]
  decide

/-- Channel 0 in a state, with channel 1 for its partner, holding channel 2. -/
def holding (b : SState → Session) (st : SState) : State :=
  records [(0, { station st with holds := some 2, peer := some 1, flashMode := .consult }),
    (2, { b .held with heldBy := some 0 })]

/-- Channel 0 QUEUED in group 1, holding channel 2. -/
def holdingQueued (b : SState → Session) : State :=
  group 1 ⟨.linear, [], 0, none, none, 8, 30, [0]⟩
    (records [(0, { station .queued with holds := some 2, curGroup := some 1 }),
      (2, { b .held with heldBy := some 0 })])

theorem test_meets_HoldersReturnToTheHeldParty :
    (∀ st ∈ [SState.seized, .collecting, .hostwait, .outring, .trunkwait, .queued, .talk, .toneout, .lockout],
      Request.command.ready (offered .retrieve [0] (holding station st)) .retrieve 0 (bytes [0]) ∧
        Request.flash.ready (flashing (holding station st)) .retrieve 0 (bytes [0]) ∧
        ((holding station st).calls.ses 0).holds = some 2 ∧ ((holding station st).calls.ses 0).state = st ∧
        ((holding station st).calls.ses 2).state = .held ∧ 2 ∉ (holding station st).calls.rxQueue ∧
        ((holding station st).calls.ses 0).peer ≠ some 2 ∧ (holding station st).mayGiveUp 0 ∧
        ((holding station st).calls.ses 0).flashMode = .consult) ∧
      (2 : Chan) ≠ 0 ∧ (base.calls.ses 0).holds = none := by
  simp only [Request.ready, State.taking, State.freshFor, State.mayGiveUp, State.noQueue, State.atRest, Calls.ringsFor]
  decide

/-- A station held and a trunk held, by each way and from each state of a holder. -/
theorem test_meets_HeldPartiesAreHandedOn :
    ∀ b ∈ [station, trunk],
      ∀ st ∈ [SState.seized, .collecting, .hostwait, .outring, .trunkwait, .queued, .talk, .toneout, .lockout],
      (Leaving.hangUp.ready (leavingBy .hangUp (holding b st)) 0 (bytes [0]) ∧
        Leaving.drop.ready (leavingBy .drop (holding b st)) 0 (bytes [0]) ∧
        Leaving.transfer.ready (leavingBy .transfer (holding b st)) 0 (bytes [0])) ∧
      (Leaving.hangUp.leaves (leavingBy .hangUp (holding b st)) 0 ∧
        Leaving.drop.leaves (leavingBy .drop (holding b st)) 0 ∧
        Leaving.transfer.leaves (leavingBy .transfer (holding b st)) 0) ∧
      ((holding b st).calls.ses 0).cls = .station ∧ ((holding b st).calls.ses 0).holds = some 2 ∧
      ((holding b st).calls.ses 2).state = .held ∧ ((holding b st).calls.ses 0).peer = some 1 ∧
      0 ∉ (holding b st).calls.rxQueue ∧ 2 ∉ (holding b st).calls.rxQueue ∧
      (holding b st).mayGiveUp 0 ∧
      ((holdingQueued b).calls.ses 0).state = .queued := by
  simp only [Leaving.ready, Leaving.leaves, State.taking, State.mayGiveUp, State.noQueue, State.atRest, Calls.ringsFor,
    State.freshFor]
  decide

/-- The camp-on queues stand as R115 says: without a QUEUED channel, and with one. -/
theorem test_meets_HeldPartiesAreHandedOn_queues :
    (∀ st ∈ [SState.seized, .outring, .trunkwait, .talk], (holding trunk st).calls.queuesLaw) ∧
      (holdingQueued trunk).calls.queuesLaw ∧ (holdingQueued station).calls.queuesLaw := by
  unfold Calls.queuesLaw
  decide

/-- Station 0 is the last to ring for channel 1, whose current group names the untried no-answer group 7. -/
def lastRinging : State :=
  group 1 ⟨.linear, [0], 0, none, some 7, 0, 30, []⟩
    (records [(0, { station .ringing with peer := some 1 }),
      (1, { station .outring with ringCount := 1, curGroup := some 1, tried := 2 })])

theorem test_meets_DropOfARingingStation_noAnswerGroup :
    (offered .drop [0] lastRinging).taking .drop (bytes [0]) ∧ lastRinging.atRest 0 ∧ lastRinging.noQueue ∧
      (lastRinging.calls.ses 0).peer = some 1 ∧ (lastRinging.calls.ses 1).ringCount = 1 ∧
      (∀ d, d ≠ 0 → ¬ lastRinging.calls.ringsFor 1 d) ∧ (lastRinging.calls.ses 1).curGroup = some 1 ∧
      (lastRinging.calls.group 1).noAnswer = some 7 ∧ (lastRinging.calls.ses 1).tried.getLsbD 7 = false := by
  unfold State.taking State.atRest State.noQueue Calls.ringsFor
  decide

theorem test_meets_DropOfARingingStation :
    (offered .transfer [0] base).taking .transfer (bytes [0]) ∧ (base.calls.ses 0).holds = none ∧
      (offered .transfer [0] (holding trunk .talk)).taking .transfer (bytes [0]) ∧
      ((holding trunk .talk).calls.ses 0).holds = some 2 ∧ ((holding trunk .talk).calls.ses 0).peer = some 1 ∧
      ((holding trunk .talk).calls.ses 0).state = .talk ∧ ((holding trunk .talk).calls.ses 2).state = .held ∧
      (offered .drop [0] base).taking .drop (bytes [0]) ∧ (base.calls.ses 0).state = .idle ∧
      ((ringing (station .outring)).calls.ses 0).state = .ringing ∧
      ((ringing (station .outring)).calls.ses 0).peer = some 1 ∧
        1 < ((ringing (station .outring)).calls.ses 1).ringCount ∧
      (ringing (station .outring)).atRest 0 ∧ (ringing (station .outring)).noQueue ∧
      (∀ o ∈ [station .outring, trunk .ringin],
        ((records [(0, { station .ringing with peer := some 1 }), (1, { o with
          ringCount := 1 })]).calls.ses 1).ringCount =
          1 ∧ ∀ d, d ≠ 0 →
          ¬ (records [(0, { station .ringing with peer := some 1 }), (1, { o with
            ringCount := 1 })]).calls.ringsFor 1 d) := by
  unfold State.taking State.atRest State.noQueue Calls.ringsFor
  decide

theorem test_meets_HostwaitChannelsAreConnectedOrGivenATone :
    (offered .connect [0, 31] (records [(0, station .hostwait), (31, trunk .hostwait)])).taking .connect
        (bytes [0, 31]) ∧
      (look (bytes [0, 31]) 1).toNat = (31 : Chan) ∧ (0 : Chan) ≠ 31 ∧
      ((records [(0, station .hostwait), (31, trunk .hostwait)]).calls.ses 31).state = .hostwait ∧
      (base.calls.ses 0).state ≠ .hostwait ∧
      (offered .setListen [31, 1, 4] (closed 31 (records [(31, trunk .hostwait)]))).taking .setListen
        (bytes [31, 1, 4]) ∧
      (look (bytes [31, 1, 4]) 2).toNat = toneIx .hold ∧ look (bytes [31, 0]) 1 = 0 ∧
      ((closed 31 (records [(31, trunk .hostwait)])).calls.levels 31).loop = true ∧
      ((records [(31, trunk .hostwait)]).calls.levels 31).loop = false := by
  unfold State.taking
  decide

/-- CONFIGURE_CHANNEL 31 as a trunk of answer group 7. -/
def configureBytes : List Byte := [31, 2, 2, 3, 1, 7]

theorem test_meets_ChannelsAreConfiguredBlockedAndRestored :
    (offered .configureChannel configureBytes base).taking .configureChannel (bytes configureBytes) ∧
      (look (bytes configureBytes) 0).toNat = (31 : Chan) ∧
        (look (bytes configureBytes) 1).toNat = ChanClass.trunk.code ∧
      (look (bytes configureBytes) 2).toNat = DigitMode.either.code ∧
        (look (bytes configureBytes) 3).toNat = (3 : Fin 4) ∧
      (look (bytes configureBytes) 4).toNat = FlashMode.consult.code ∧
      look (bytes configureBytes) 5 = optByte (some (7 : GroupIx)) ∧ base.op ≠ .stopping ∧
      (base.calls.ses 31).state = .idle ∧ ChanClass.trunk ≠ (base.calls.ses 31).cls ∧
      ChanClass.unused = (base.calls.ses 31).cls ∧ (sending .clearAll base).link.flight.isSome = true ∧
      base.link.flight = none ∧
        ({ base with link := { base.link with clearPending := false } } : State).link.clearPending = false ∧
      ((records [(31, station .talk)]).calls.ses 31).state ≠ .idle ∧
      (offered .block [31] base).taking .block (bytes [31]) ∧
        (offered .restore [31] base).taking .restore (bytes [31]) ∧
      ((records [(31, station .blocked)]).calls.ses 31).state = .blocked ∧
        (records [(31, station .blocked)]).atRest 31 ∧
      (records [(31, station .blocked)]).noQueue := by
  unfold State.taking State.atRest State.noQueue
  decide

/-- Every reading command, at the highest number it takes, in STOPPING. -/
theorem test_meets_ReadingCommandsChangeNothing :
    ∀ x ∈ [(Cmd.readSession, (31 : Byte)), (.readDigits, 31), (.readGroup, 7), (.readBridge, 3), (.readParam, 22)],
      (offered x.1 [x.2] (within .stopping base)).taking x.1 (bytes [x.2]) ∧ look (bytes [x.2]) 0 = x.2 := by
  unfold State.taking
  decide

/-- The clauses of the session record: each class, a place in each queue, and a digit list of two. -/
theorem test_meets_sessionRecord :
    (∀ r ∈ [station .seized, trunk .queued, Session.reset], ((records [(31, r)]).calls.ses 31).cls = r.cls) ∧
      31 ∈ (alter (fun k => { k with rxQueue := [5, 31] }) (records [(31, station .seized)])).calls.rxQueue ∧
      ((records [(31, { trunk .queued with curGroup := some 7 })]).calls.ses 31).curGroup = some 7 ∧
      31 ∈ ((group 7 ⟨.all, [], 0, none, none, 8, 30, [31]⟩ base).calls.group 7).queue ∧
      ({ station .idle with digits := [.num 0, .hash] } : Session).digits[1]? = some .hash := by
  decide

theorem test_meets_PortAccessesAndOffers :
    base.resetAsserted = false ∧ base.mbox.state ≠ .busy ∧ definedCode 0x00 = false ∧
      (offered .start [] base).mbox.state = .busy := by
  decide

/-- Strobes of each kind, with CS high and low, at the addresses where the rows change (R161). -/
theorem test_busStrobes :
    (∀ a : Fin 16, base.dataBus ⟨false, true, false, a, 0⟩ = none ∧ base.dataBus ⟨true, false, true, a, 0⟩ = none ∧
      base.dataBus ⟨true, true, true, a, 0⟩ = none ∧ base.dataBus ⟨true, true, false, a, 0⟩ = some (base.register a)) ∧
    ([0, 1, 2, 9, 10, 11, 15].map fun a => (⟨true, true, false, a, 0⟩ : BusPins).row) =
      [some .statusRead, none, some (.resultRead 0), some (.resultRead 7), some .completionRead, none, none] ∧
    ([0, 1, 2, 9, 10, 14, 15].map fun a => (⟨true, false, true, a, 0x43⟩ : BusPins).row) =
      [some (.ignoredRegisterWrite 0 0x43), some (.commandOffer 0x43), some (.paramWrite 0 0x43),
        some (.paramWrite 7 0x43), some (.ignoredRegisterWrite 10 0x43), some (.ignoredRegisterWrite 14 0x43),
        some (.controlWrite 0x43)] ∧
    (⟨true, false, true, 1, 0⟩ : BusPins).row = some (.unknown 0) ∧
    (⟨true, true, true, 0, 0⟩ : BusPins).row = none ∧ (⟨false, true, false, 0, 0⟩ : BusPins).row = none := by
  decide

/-- The code 00h is undefined (R165). -/
theorem test_meets_undefinedCode : ∀ cmd : Cmd, cmd.code ≠ 0x00 := by
  intro cmd
  cases cmd <;> decide

theorem test_meets_WritesWhileBusyCollide :
    (offered .start [] base).resetAsserted = false ∧ (offered .start [] base).mbox.state = .busy ∧
      ({ offered .start [] base with mbox := { (offered .start [] base).mbox with
        collision := true } } : State).mbox.collision = true := by
  decide

theorem test_meets_RefusalsFollowTheOrderOfChecks :
    (offered .place [0, 2] base).taking .place (bytes [0, 2]) ∧ Cmd.inRange .place (bytes [0, 2]) = false ∧
      (offered .place [31, 0, 7] (within .config base)).taking .place (bytes [31, 0, 7]) ∧
      Cmd.inRange .place (bytes [31, 0, 7]) = true ∧ Cmd.accepted .place .config = false ∧
      base.mbox.inFlight = none := by
  unfold State.taking
  decide

/-- START with the stations 0, 1 and 2 off-hook, of which 0 dials by pulses, and with these trunks in a burst of
ringing. -/
def starting (trunks : List (Chan × Session)) (s : State) : State :=
  let s1 : State := { s with
    op := .config
    calls := (([(0, { station .idle with digitMode := .pulse }), (1, station .idle), (2, station .idle)] :
      List (Chan × Session)) ++ trunks).foldl
      (fun k (x : Chan × Session) => k.setSes x.1 x.2) s.calls
    loopQ := [(0 : Chan), 1, 2].foldl (fun v c => put v c { look v c with state := .offhook }) s.loopQ
    ringQ := trunks.foldl (fun v (x : Chan × Session) => put v x.1 { look v x.1 with state := .inBurst }) s.ringQ }
  offered .start [] s1

theorem test_meets_StartEntersRun :
    (starting [] base).taking .start (bytes []) ∧ (starting [] base).op = .config ∧
      (List.finRange 32).filter (fun c => ((starting [] base).calls.ses c).cls = .station ∧
        ((starting [] base).calls.ses c).state = .idle ∧ ((look (starting [] base).loopQ c).state = .offhook ∨
          (look (starting [] base).loopQ c).state = .openTiming)) = [0, 1, 2] ∧
      [(0 : Chan), 1, 2].filter (fun c => ((starting [] base).calls.ses c).digitMode ≠ .pulse) = [1, 2] ∧
      (List.finRange 8).filter (fun r => ((starting [] (noReceiver base)).calls.rx r).state = .free) = [] ∧
      ((List.finRange 8).filter (fun r => ((starting [] base).calls.rx r).state = .free))[1]? = some 1 ∧
      (∀ x ∈ [(none : Option GroupIx), some 7],
        (List.finRange 32).filter (fun c => ((starting [(31, { trunk .idle with answerGroup := x })] base).calls.ses
            c).cls = .trunk ∧ ((starting [(31, { trunk .idle with answerGroup := x })] base).calls.ses c).state =
              .idle ∧
          (look (starting [(31, { trunk .idle with answerGroup := x })] base).ringQ c).state = .inBurst) = [31]) := by
  unfold State.taking
  decide

theorem test_meets_StopClearsTheCalls :
    (offered .stop [] (records [(5, station .talk)])).taking .stop (bytes []) ∧
      ((records [(5, station .talk)]).calls.ses 5).state ≠ .idle ∧
      ((records [(5, station .talk)]).calls.ses 5).state ≠ .blocked ∧ (base.calls.ses 6).state = .idle ∧
      (base.calls.rx 0).state = .free ∧ RxState.digit ∉ [.free, .offline] ∧
      RxService.withdrawPending ≠ .inService ∧
      (∀ c, (next (exec .stop (offered .stop [] base))).calls.levels c = look base.link.sent c) ∧
      look (put base.link.sent 3 ⟨false, true⟩) 3 ≠ (next (exec .stop (offered .stop [] base))).calls.levels 3 ∧
      lateDigit.calls.rx 0 ≠ base.calls.rx 0 := by
  unfold State.taking
  decide

/-- HIT_MAX at both ends of its range; the default set passes each relation, and a set that fails each in turn. -/
theorem test_meets_ParametersAreStagedAndApplied :
    (∀ v ∈ [look paramLow 0, look paramHigh 0],
      (offered .setParam [0, byteOf v, byteOf (v / 256)] base).taking .setParam
        (bytes [0, byteOf v, byteOf (v / 256)]) ∧
        (look (bytes [0, byteOf v, byteOf (v / 256)]) 1).toNat +
          256 * (look (bytes [0, byteOf v, byteOf (v / 256)]) 2).toNat = v ∧ look paramLow 0 ≤ v ∧
            v ≤ look paramHigh 0) ∧
      (offered .applyParams [] base).taking .applyParams (bytes []) ∧ failedRelation paramDefault = 0 ∧
      failedRelation (put paramDefault Param.hitMax (look paramDefault Param.pulseBreakMax)) = 1 ∧
      failedRelation (put paramDefault Param.flashMin (look paramDefault Param.pulseBreakMax)) = 2 ∧
      failedRelation (put paramDefault Param.flashMax (look paramDefault Param.flashMin)) = 3 ∧
      failedRelation (put paramDefault Param.overlapTime (look paramDefault Param.interdigitTime + 1)) = 4 ∧
      (offered .setNoticeMask [0xFF, 0xFF] base).taking .setNoticeMask (bytes [0xFF, 0xFF]) := by
  unfold State.taking
  decide

/-- WRITE_ENTRY of `2X` with EXTENSION 20 into slot 2, and into slot 9 of the plan of 04, section 4.7. -/
def entryBytes (slot : Byte) : List Byte := [slot, 2, 1, 20, 0, 0, 0, 0, 0xC2]

theorem test_meets_DialPlanEntriesAreWrittenAndCleared :
    (offered .writeEntry (entryBytes 2) base).taking .writeEntry (bytes (entryBytes 2)) ∧
      (look (bytes (entryBytes 2)) 0).toNat = (2 : SlotIx) ∧ (look (bytes (entryBytes 2)) 1).toNat = 2 ∧
      (look (bytes (entryBytes 2)) 8).toNat / 16 ^ (0 % 2) % 16 = 2 ∧
      (look (bytes (entryBytes 2)) 8).toNat / 16 ^ (1 % 2) % 16 = 12 ∧
      (look (bytes (entryBytes 2)) 2 = 1 ∧ (look (bytes (entryBytes 2)) 3).toNat = (20 : Chan) ∧
        [PatSym.digit (.num 2), .x].count .x = 1) ∧
      (look (bytes (entryBytes 2)) 4).toNat = (0 : Fin 4) ∧
      (∀ i, look base.plan i = none) ∧ look plan 2 = some ⟨[.digit (.num 2), .x], .extension 20, 0⟩ ∧
      (2 : SlotIx) ≠ 9 ∧ (look (bytes (entryBytes 9)) 0).toNat = (9 : SlotIx) ∧
      (∀ j < (2 : SlotIx), (look plan j).map (·.pattern) ≠ some [.digit (.num 2), .x]) ∧
      (offered .clearEntry [127] base).taking .clearEntry (bytes [127]) ∧
      (look (bytes [127]) 0).toNat = (127 : SlotIx) := by
  unfold State.taking
  decide

theorem test_meets_GroupCommandsChangeTheirGroup :
    (offered .writeGroup [7, 2, 0xFF, 0, 8, 255] base).taking .writeGroup (bytes [7, 2, 0xFF, 0, 8, 255]) ∧
      readGroupArgs (bytes [7, 2, 0xFF, 0, 8, 255]) = some ⟨7, .all, none, some 0, 8, 255⟩ ∧
      (offered .setMembers [7, 6, 0, 1, 2, 3, 4, 31] base).taking .setMembers (bytes [7, 6, 0, 1, 2, 3, 4, 31]) ∧
      [(0 : Chan), 1, 2, 3, 4, 31].Nodup ∧ ¬ [(0 : Chan), 1, 0].Nodup ∧
      (offered .addMember [7, 31] base).taking .addMember (bytes [7, 31]) ∧ 31 ∉ (base.calls.group 7).members ∧
      16 ≤ ((group 7 ⟨.linear, [0, 1, 2, 3, 4, 5, 6, 7, 8, 9, 10, 11, 12, 13, 14, 15], 0, none, none, 0, 30,
        []⟩ base).calls.group
        7).members.length ∧
      (offered .dropMember [1, 3] camped).taking .dropMember (bytes [1, 3]) ∧ 3 ∈ (camped.calls.group 1).members ∧
      (camped.calls.group 1).members.idxOf 3 = 0 ∧ (camped.calls.group 1).position = 0 ∧
      (camped.calls.group 1).position < (camped.calls.group 1).members.idxOf 0 ∧
      ((waiting .linear none 0).calls.group 1).members.idxOf 4 = ((waiting .linear none 0).calls.group 1).position ∧
      ((waiting .linear none 0).calls.group 1).members.idxOf 3 < ((waiting .linear none 0).calls.group 1).position := by
  unfold State.taking
  decide

theorem test_meets_NoticesAreTakenAndWatchesSet_take :
    ∀ n ∈ [(0 : Byte), 31, 32, 33], (offered .takeNotices [n] base).taking .takeNotices (bytes [n]) ∧
      look (bytes [n]) 0 = n := by
  unfold State.taking
  decide

/-- Watch 1 on channel 31 in HELD (state code 10), ANY; its condition true and false. -/
theorem test_meets_NoticesAreTakenAndWatchesSet_watch :
    (offered .setWatch [1, 0, 0, 0, 0, 0x80, 0, 0x04] base).taking .setWatch (bytes [1, 0, 0, 0, 0, 0x80, 0, 0x04]) ∧
      (look (bytes [1, 0, 0, 0, 0, 0x80, 0, 0x04]) 0).toNat = (1 : WatchIx) ∧
      (offered .armWatch [1] base).taking .armWatch (bytes [1]) ∧
      (offered .disarmWatch [1] base).taking .disarmWatch (bytes [1]) ∧
      (⟨0x80000000, 0x400, .any, false, false⟩ : Watch).condition (records [(31, station .held)]).calls = true ∧
      (⟨0x80000000, 0x400, .any, false, false⟩ : Watch).condition base.calls = false := by
  unfold State.taking
  decide

/-- An armed watch that fires, by ANY and by ALL, and one that does not. -/
theorem test_meets_FiredWatchesAndRequestLines :
    (∀ m ∈ [WatchMode.any, .all],
      (⟨0x80000000, 0x400, m, true, false⟩ : Watch).condition (records [(31, station .held)]).calls = true ∧
      (⟨0x80000000, 0x400, m, true, false⟩ : Watch).selects 31 = true) ∧
      (base.calls.ses 31).state ≠ ((records [(31, station .held)]).calls.ses 31).state ∧
      (look base.attn.watches 0).armed ≠ true ∧ (sending .clearAll base).link.flight.isSome = true := by
  decide

/-! ### Hypotheses met: the invariants -/

/-- A state reached from reset by one step, from which a step goes on; `ResetStateIsLawful` is about the laws there. -/
theorem test_meets_everyStep :
    step { State.reset with pending := [.hardwareReset, .resetEnd] } =
      .next { State.reset with pending := [.resetEnd], highway := { State.reset.highway with frames := 0 } } := rfl

theorem test_meets_quietOutsideRun : State.reset.op ≠ .run ∧ (∀ c, (State.reset.calls.ses c).state = .idle) ∧
    State.reset.calls.rxQueue = [] := by
  decide

end Sys2Proof.Tests
end

section
/-! The output image (R10, R33): every move of the call state keeps each channel's desired levels to its state, so every
step does. -/

namespace Sys2Proof.Machine

/-- The desired levels that R8 and R9 give for a state fit it, from whatever stood before them. -/
theorem Session.levels_fit (r : Session) (was : Levels) (h : was.loop = true → r.state = .hostwait → r.cls = .trunk) :
    levelsFit r (r.levels was) := by
  refine ⟨fun hr => (nomatch hr), fun hl => ?_⟩
  cases hs : r.state <;> simp_all [Session.levels]

/-- Levels that are off and open fit every record. -/
theorem levelsFit_rest (r : Session) : levelsFit r .rest := by simp [levelsFit, Levels.rest]

/-- What the levels must fit is the state and the class of a record alone. -/
theorem levelsFit_congr {r r' : Session} {v : Levels} (hs : r'.state = r.state) (hc : r'.cls = r.cls)
    (h : levelsFit r v) : levelsFit r' v := by
  unfold levelsFit at h ⊢
  rwa [hs, hc]

/-- Every channel's desired levels fit its record. -/
def Calls.levelsLaw (k : Calls) : Prop := ∀ c, levelsFit (k.ses c) (k.levels c)

/-- A change of one record that keeps its state and class keeps the levels lawful. -/
theorem Calls.levelsLaw_alter {k : Calls} {c : Chan} {f : Session → Session} (hs : (f (k.ses c)).state = (k.ses c).state)
    (hc : (f (k.ses c)).cls = (k.ses c).cls) (h : k.levelsLaw) : (k.alter c f).levelsLaw := by
  intro d
  rw [Calls.levels_alter, Calls.ses_alter]
  split
  · next e => subst e; exact levelsFit_congr hs hc (h c)
  · exact h d

theorem Calls.levelsLaw_enter {k : Calls} {c : Chan} {st : SState} {f : Session → Session} (h : k.levelsLaw)
    (hc : (f ((k.ses c).moved st)).cls = (k.ses c).cls) : (k.enter c st f).levelsLaw := by
  intro d
  by_cases e : c = d
  · subst e
    rw [Calls.ses_enter_self, Calls.levels_enter_self]
    exact Session.levels_fit _ _ fun hl _ => hc.trans ((h c).2 hl).1
  · rw [Calls.ses_enter_ne _ _ _ _ _ e, Calls.levels_enter_ne _ _ _ _ _ e]
    exact h d

theorem Calls.levelsLaw_setOut {k : Calls} {c : Chan} {v : Levels} (hv : levelsFit (k.ses c) v) (h : k.levelsLaw) :
    (k.setOut c v).levelsLaw := by
  intro d
  rw [Calls.ses_setOut, Calls.levels_setOut]
  split
  · next e => subst e; exact hv
  · exact h d

/-- Every move keeps the levels lawful: only a change of state, of a ring output and of an answered party's loop output
touch them. -/
theorem Move.keeps_levelsLaw {k l : Calls} (hm : Move k l) (h : k.levelsLaw) : l.levelsLaw := by
  cases hm with
  | enter c st f ha => exact Calls.levelsLaw_enter h ha.cls
  | fields c f ha => exact Calls.levelsLaw_alter ha.state ha.cls h
  | append c d => exact Calls.levelsLaw_alter rfl rfl h
  | ringOutput c on hr => exact Calls.levelsLaw_setOut ⟨fun _ => hr, fun hl => (nomatch hl)⟩ h
  | answered c hw =>
    exact Calls.levelsLaw_setOut ⟨fun hr => (nomatch hr), fun hl => ⟨by simpa using hl, by simp [hw]⟩⟩ h
  | raise e n c => intro d; simpa using h d
  | _ => exact h

theorem State.Event.keeps_levelsLaw {s t : State} (he : State.Event s t) (h : s.levelsLaw) : t.levelsLaw :=
  Reach.keeps (P := Calls.levelsLaw) (fun _ _ => Move.keeps_levelsLaw) he.moves h

theorem Calls.stopAll_levelsLaw {k : Calls} (h : k.levelsLaw) : k.stopAll.levelsLaw := by
  intro c
  rw [Calls.stopAll_levels, Calls.stopAll_ses]
  split
  · exact levelsFit_rest _
  · exact h c

/-- CONFIGURE_CHANNEL: a channel that keeps its class keeps its levels, and one that changes it has both off and open. -/
theorem State.configure_levelsLaw {a : ConfigArgs} {s : State} (h : s.levelsLaw) : (s.configure a).levelsLaw := by
  unfold State.configure
  dsimp only
  split
  · next hc => exact Calls.levelsLaw_alter (k := s.calls) rfl hc h
  · intro c
    simp only [State.reclassed, State.kick_calls, Calls.levels_setOut]
    split
    · exact levelsFit_rest _
    · next hne =>
      have hs : (s.calls.alter a.chan (Session.configured a)).ses c = s.calls.ses c := by simp [hne]
      exact levelsFit_congr (congrArg _ hs) (congrArg _ hs) (h c)

/-- The law reads the records and the output image alone. -/
theorem State.levelsLaw_congr {s t : State} (hs : t.calls.sessions = s.calls.sessions)
    (ho : t.calls.out = s.calls.out) (h : s.levelsLaw) : t.levelsLaw := by
  intro c
  simp only [Calls.ses, Calls.levels, hs, ho]
  exact h c

theorem levelsLaw_kept : Kept State.levelsLaw where
  queue _ _ h := State.levelsLaw_congr rfl rfl h
  tick s h c := by
    have hl : s.tick.calls.levels c = s.calls.levels c := by rw [Calls.levels, Calls.levels, State.tick_out]
    rw [State.tick_ses, hl]
    exact levelsFit_congr (r := s.calls.ses c) rfl rfl (h c)
  reset _ _ c := by simp [State.reset, Calls.reset, Calls.levels, levelsFit_rest]
  resetEnd s h := by exact State.levelsLaw_congr (by simp) (by simp) h
  event _ _ he h := he.keeps_levelsLaw h
  badFrame s h := by exact State.levelsLaw_congr (by simp) (by simp) h
  completeFrame s o h := by exact State.levelsLaw_congr (by simp) (by simp) h
  highway _ _ h := State.levelsLaw_congr rfl rfl h
  toneStep s x h := by unfold State.toneStep; dsimp only; split <;> exact h
  mail _ _ h := State.levelsLaw_congr rfl rfl h
  data _ _ h := State.levelsLaw_congr rfl rfl h
  attn _ _ _ h := State.levelsLaw_congr rfl rfl h
  start s _ h := by
    intro c
    rw [startBody_calls]
    exact Reach.keeps (P := Calls.levelsLaw) (fun _ _ => Move.keeps_levelsLaw) (Calls.takeUp_reach _ s.calls) h c
  stop s _ h := by intro c; rw [stopBody_calls]; exact Calls.stopAll_levelsLaw h c
  staged _ _ _ h := State.levelsLaw_congr rfl rfl h
  apply s h := by unfold applyParamsBody; split <;> exact State.levelsLaw_congr rfl rfl h
  mask _ _ h := State.levelsLaw_congr rfl rfl h
  configure s a h := by
    unfold configureBody
    split
    · exact h
    · exact State.configure_levelsLaw h
  entry s _ a _ h := by unfold writeEntryBody; split <;> exact State.levelsLaw_congr rfl rfl h
  clear _ _ h := State.levelsLaw_congr rfl rfl h
  group _ _ _ _ h := State.levelsLaw_congr rfl rfl h
  setMembers s _ a _ h := by unfold setMembersBody; split <;> exact State.levelsLaw_congr rfl rfl h
  addMember s a h := by
    unfold addMemberBody
    dsimp only
    split
    · exact h
    · split <;> exact State.levelsLaw_congr rfl rfl h
  dropMember s a h := by unfold dropMemberBody; split <;> exact State.levelsLaw_congr rfl rfl h
  notices s n h := by unfold takeNoticesBody; split <;> exact State.levelsLaw_congr rfl rfl h

/-- Settles O54: the levels of every channel fit its state after each move of the call state. -/
theorem everyStepKeepsTheOutputImageLawful : Obligations.EveryStepKeepsTheOutputImageLawful := by
  unfold Obligations.EveryStepKeepsTheOutputImageLawful
  intro s t h hs
  exact step_keeps levelsLaw_kept h hs

end Sys2Proof.Machine
end

section
/-! Reset, the front of the queue, and what a record keeps when it leaves its state. -/

namespace Sys2Proof.Machine

/-- Settles O1: `step` on a queue that is not empty, by its definition. -/
theorem stepTakesTheFrontCommand : Obligations.StepTakesTheFrontCommand := by
  unfold Obligations.StepTakesTheFrontCommand
  intro c rest s
  rfl

/-! ### Reset -/

@[simp] theorem Calls.reset_ses (c : Chan) : Calls.reset.ses c = Session.reset := look_replicate ..
@[simp] theorem Calls.reset_listen (c : Chan) : look Calls.reset.listen c = .none := look_replicate ..
@[simp] theorem Calls.reset_levels (c : Chan) : Calls.reset.levels c = Levels.rest := look_replicate ..
@[simp] theorem Calls.reset_rx (r : RxIx) : Calls.reset.rx r = Receiver.reset := look_replicate ..
@[simp] theorem Calls.reset_group (g : GroupIx) : Calls.reset.group g = Group.reset := look_replicate ..
@[simp] theorem Calls.reset_members (b : BridgeIx) : Calls.reset.members b = [] := look_replicate ..
@[simp] theorem Calls.reset_notices (c : Chan) : look Calls.reset.notices c = 0 := look_replicate ..
@[simp] theorem Calls.reset_rxQueue : Calls.reset.rxQueue = [] := rfl
@[simp] theorem State.reset_calls : State.reset.calls = Calls.reset := rfl

/-- Settles O5: the records of the reset state, channel by channel. -/
theorem hardwareResetClearsTheRecords : Obligations.HardwareResetClearsTheRecords := by
  unfold Obligations.HardwareResetClearsTheRecords
  intro s
  refine ⟨_, rfl, fun c => ⟨?_, ?_, ?_⟩⟩
  · exact Calls.reset_ses c
  · exact Calls.reset_listen c
  · exact Calls.reset_levels c

theorem Session.reset_fits : Session.reset.fits := by simp [Session.fits, Session.reset, ChanClass.states]

theorem Calls.reset_partnersLaw : Calls.reset.partnersLaw := by
  intro c
  simp [Session.reset]

theorem Calls.reset_poolLaw : Calls.reset.poolLaw := by
  simp [Calls.poolLaw, Session.reset, Receiver.reset]

theorem Calls.reset_queuesLaw : Calls.reset.queuesLaw := by
  simp [Calls.queuesLaw, Session.reset, Group.reset]

theorem Calls.reset_bridgesLaw : Calls.reset.bridgesLaw := by
  simp [Calls.bridgesLaw, Session.reset]

theorem State.reset_recordsLaw : State.reset.recordsLaw :=
  ⟨fun c => by rw [State.reset_calls, Calls.reset_ses]; exact Session.reset_fits, Calls.reset_partnersLaw,
    Calls.reset_poolLaw, Calls.reset_queuesLaw, Calls.reset_bridgesLaw⟩

theorem State.reset_quietLaw : State.reset.quietLaw := by
  intro _
  simp [Session.reset, Group.reset, Receiver.reset, RxState.assigned]

theorem State.reset_paramsLaw : State.reset.paramsLaw := by
  refine ⟨?_, ?_⟩
  · decide
  · decide

theorem State.reset_planLaw : State.reset.planLaw := by
  have hp : ∀ i, look State.reset.plan i = none := fun i => look_replicate ..
  simp [State.planLaw, hp]

/-- Settles O60: each law at the reset state, by the records that stand there. -/
theorem resetStateIsLawful : Obligations.ResetStateIsLawful := by
  unfold Obligations.ResetStateIsLawful
  refine ⟨State.reset_paramsLaw, State.reset_planLaw, ?groups, ?mailbox, State.reset_quietLaw, ?levels, ?receivers, ?link,
    ?notices, State.reset_recordsLaw, ?flight, ?digits⟩
  case groups => intro g; simp [Group.reset]
  case mailbox => simp [State.mailboxLaw, State.reset, Mailbox.reset]
  case levels => intro c; simp [levelsFit, Levels.rest]
  case receivers => intro r; simp [Receiver.fits, Receiver.reset, RxState.assigned]
  case link => rfl
  case notices => refine ⟨by decide, fun c => ?_⟩; simp
  case flight => intro r c d h; cases h
  case digits => intro c; simp [Session.reset]

/-! ### Leaving a state -/

/-- Settles O17: the fields of `Session.moved`, the sets of states as R3 lists them. -/
theorem leavingAStateResetsItsFields : Obligations.LeavingAStateResetsItsFields := by
  unfold Obligations.LeavingAStateResetsItsFields
  intro r st
  refine ⟨rfl, rfl, rfl, rfl, rfl, rfl, rfl, rfl, ?_⟩
  cases st <;> simp [Session.moved, SState.hasPeer, SState.rings, SState.placing]

end Sys2Proof.Machine
end

section
/-! The links between channels, apart from the records: what ties one channel to others in each session state, the laws of
R12, R53, R115 and R128 as laws of those ties, and the ways in which a tie is made and undone. -/

namespace Sys2Proof.Machine

/-- The three roles in a link of two partners: a party in TALK, a seizing trunk, and the originator that waits for it. -/
inductive Role where
  | talks
  | seizes
  | awaits
  deriving DecidableEq

/-- The role of the other partner (R12). -/
def Role.other : Role → Role
  | .talks => .talks
  | .seizes => .awaits
  | .awaits => .seizes

@[simp] theorem Role.other_other (m : Role) : m.other.other = m := by cases m <;> rfl

/-- What the state of a record ties it to: nothing; a partner, in a role; a ringing set of `n` stations; the originator it
is rung for; its holder; the receiver wait queue; its receiver, if it has one; a camp-on queue; a bridge. `broken` is a
state whose own field is missing. -/
inductive Bond where
  | free
  | mate (m : Role) (p : Chan)
  | rings (n : Nat)
  | rungBy (o : Chan)
  | heldBy (h : Chan)
  | waits
  | collects (r : Option RxIx)
  | camps (g : GroupIx)
  | confers (b : BridgeIx)
  | broken
  deriving DecidableEq

/-- The kinds of ties, one for each law. -/
inductive Kind where
  | mate
  | ring
  | hold
  | wait
  | collect
  | camp
  | confer
  | broken
  deriving DecidableEq

/-- The kind of a tie. -/
def Bond.kind : Bond → Option Kind
  | .free => none
  | .mate _ _ => some .mate
  | .rings _ => some .ring
  | .rungBy _ => some .ring
  | .heldBy _ => some .hold
  | .waits => some .wait
  | .collects _ => some .collect
  | .camps _ => some .camp
  | .confers _ => some .confer
  | .broken => some .broken

/-- What the ties are checked against: whom each channel holds, the receiver wait queue, the receivers, the camp-on queues
and the bridges. -/
structure Tables where
  holds : Chan → Option Chan
  queue : List Chan
  rx : RxIx → Receiver
  camp : GroupIx → List Chan
  bridge : BridgeIx → List Chan

/-- How many stations are tied to the originator `o` as rung for it. -/
def rungCount (B : Chan → Bond) (o : Chan) : Nat := (Finset.univ.filter fun d => B d = .rungBy o).card

/-- The law of one kind of ties (R12, R53, R115, R128). -/
def Kind.law (κ : Kind) (B : Chan → Bond) (T : Tables) : Prop :=
  match κ with
  | .mate => ∀ c m p, B c = .mate m p → p ≠ c ∧ B p = .mate m.other c
  | .ring => (∀ d o, B d = .rungBy o → ∃ n, B o = .rings n) ∧ ∀ o n, B o = .rings n → 1 ≤ n ∧ n = rungCount B o
  | .hold => ∀ c h, T.holds c = some h ↔ B h = .heldBy c
  | .wait => T.queue.Nodup ∧ (∀ c, c ∈ T.queue ↔ B c = .waits) ∧ (T.queue ≠ [] → ∀ r, (T.rx r).state ≠ .free)
  | .collect => ∀ r c, (T.rx r).assigned = some c ↔ B c = .collects (some r)
  | .camp => ∀ g, (T.camp g).Nodup ∧ (T.camp g).length ≤ 8 ∧ ∀ c, c ∈ T.camp g ↔ B c = .camps g
  | .confer => ∀ b, (T.bridge b).Nodup ∧
      ((T.bridge b).length = 0 ∨ (T.bridge b).length = 3 ∨ (T.bridge b).length = 4) ∧ ∀ c, c ∈ T.bridge b ↔ B c = .confers b
  | .broken => ∀ c, B c ≠ .broken

/-- What the law of a kind reads of the tables, the rest blank. -/
def Kind.view (κ : Kind) (T : Tables) : Tables :=
  let blank : Tables := ⟨fun _ => none, [], fun _ => .reset, fun _ => [], fun _ => []⟩
  match κ with
  | .hold => { blank with holds := T.holds }
  | .wait => { blank with queue := T.queue, rx := T.rx }
  | .collect => { blank with rx := T.rx }
  | .camp => { blank with camp := T.camp }
  | .confer => { blank with bridge := T.bridge }
  | .mate | .ring | .broken => blank

theorem Kind.law_view (κ : Kind) (B : Chan → Bond) (T : Tables) : κ.law B (κ.view T) ↔ κ.law B T := by
  cases κ <;> rfl

/-- Every law holds of the ties. -/
def Web (B : Chan → Bond) (T : Tables) : Prop := ∀ κ : Kind, κ.law B T

/-- The ties of one kind are the same in both. -/
def Kind.same (κ : Kind) (B B' : Chan → Bond) : Prop := ∀ c, B' c = B c ∨ (B' c).kind ≠ some κ ∧ (B c).kind ≠ some κ

theorem Kind.same_eq {κ : Kind} {B B' : Chan → Bond} (h : κ.same B B') {c : Chan} {x : Bond} (hx : x.kind = some κ) :
    B' c = x ↔ B c = x := by
  rcases h c with h | ⟨h1, h2⟩
  · rw [h]
  · constructor <;> (rintro rfl; contradiction)

/-- The law of a kind reads the ties of that kind and its own tables alone. -/
theorem Kind.law_congr {κ : Kind} {B B' : Chan → Bond} {T T' : Tables} (h : κ.same B B')
    (hl : κ.law B T) (ht : κ.view T' = κ.view T) : κ.law B' T' := by
  rw [← κ.law_view, ht, κ.law_view]
  have e : ∀ c x, Bond.kind x = some κ → (B' c = x ↔ B c = x) := fun c x hx => Kind.same_eq h hx
  cases κ with
  | mate =>
    intro c m p hp
    rw [e _ _ rfl] at hp
    rw [e _ _ rfl]
    exact hl c m p hp
  | ring =>
    have hc : ∀ o, rungCount B' o = rungCount B o := fun o => by
      unfold rungCount
      congr 1
      ext d
      simp [e d (.rungBy o) rfl]
    refine ⟨fun d o hd => ?_, fun o n ho => ?_⟩
    · obtain ⟨n, hn⟩ := hl.1 d o ((e _ _ rfl).mp hd)
      exact ⟨n, (e _ _ rfl).mpr hn⟩
    · rw [hc]
      exact hl.2 o n ((e _ _ rfl).mp ho)
  | hold => exact fun c x => (hl c x).trans (e _ _ rfl).symm
  | wait => exact ⟨hl.1, fun c => (hl.2.1 c).trans (e _ _ rfl).symm, hl.2.2⟩
  | collect => exact fun r c => (hl r c).trans (e _ _ rfl).symm
  | camp => exact fun g => ⟨(hl g).1, (hl g).2.1, fun c => ((hl g).2.2 c).trans (e _ _ rfl).symm⟩
  | confer => exact fun b => ⟨(hl b).1, (hl b).2.1, fun c => ((hl b).2.2 c).trans (e _ _ rfl).symm⟩
  | broken => exact fun c hc => hl c ((e _ _ rfl).mp hc)

open Function (update)

theorem Kind.same_refl (κ : Kind) (B : Chan → Bond) : κ.same B B := fun _ => .inl rfl

/-- A tie of another kind changed to one of another kind. -/
theorem Kind.same.update {κ : Kind} {B B' : Chan → Bond} {a : Chan} {x : Bond} (h : κ.same B B') (ha : (B a).kind ≠ some κ)
    (hx : x.kind ≠ some κ) : κ.same B (update B' a x) := by
  intro c
  by_cases e : c = a
  · subst e; simp [ha, hx]
  · simpa [e] using h c

/-- A change at a channel that is not, and does not become, rung for `o`. -/
theorem rungCount_update {B : Chan → Bond} {a o : Chan} {x : Bond} (ha : B a ≠ .rungBy o) (hx : x ≠ .rungBy o) :
    rungCount (update B a x) o = rungCount B o := by
  unfold rungCount
  congr 1
  ext d
  by_cases h : d = a
  · subst h; simp [ha, hx]
  · simp [h]

/-- One more station is rung for `o`. -/
theorem rungCount_add {B : Chan → Bond} {a o : Chan} (ha : B a ≠ .rungBy o) :
    rungCount (update B a (.rungBy o)) o = rungCount B o + 1 := by
  unfold rungCount
  rw [← Finset.card_insert_of_notMem (a := a) (by simpa using ha)]
  congr 1
  ext d
  by_cases h : d = a
  · subst h; simp
  · simp [h]

/-- One station less is rung for `o`. -/
theorem rungCount_sub {B : Chan → Bond} {a o : Chan} {x : Bond} (ha : B a = .rungBy o) (hx : x ≠ .rungBy o) :
    rungCount (update B a x) o + 1 = rungCount B o := by
  have h := rungCount_add (B := update B a x) (a := a) (o := o) (by simpa using hx)
  rw [Function.update_idem, ← ha, Function.update_eq_self] at h
  exact h.symm

theorem rungCount_eq_zero {B : Chan → Bond} {o : Chan} : rungCount B o = 0 ↔ ∀ d, B d ≠ .rungBy o := by
  simp [rungCount, Finset.filter_eq_empty_iff]

variable {B : Chan → Bond} {T : Tables}


/-- Ties of other kinds changed at two places. -/
theorem Kind.same_two {κ : Kind} {a b : Chan} {x y : Bond} (ha : (B a).kind ≠ some κ) (hx : x.kind ≠ some κ)
    (hb : (B b).kind ≠ some κ) (hy : y.kind ≠ some κ) : κ.same B (update (update B a x) b y) :=
  ((κ.same_refl B).update ha hx).update hb hy

/-! ### Partners -/

/-- Two partners part. -/
theorem Web.part (w : Web B T) {a b : Chan} {m : Role} (h : B a = .mate m b) :
    Web (update (update B a .free) b .free) T := by
  obtain ⟨hne, hb⟩ := w .mate a m b h
  intro κ
  cases κ with
  | mate =>
    intro c m' p hp
    grind [w .mate c m' p, Function.update_apply]
  | _ => exact Kind.law_congr (Kind.same_two (by simp [h, Bond.kind]) nofun (by simp [hb, Bond.kind]) nofun) (w _) rfl

/-- Two free channels become partners. -/
theorem Web.partner (w : Web B T) {a b : Chan} (m : Role) (ha : B a = .free) (hb : B b = .free) (hne : a ≠ b) :
    Web (update (update B a (.mate m b)) b (.mate m.other a)) T := by
  intro κ
  cases κ with
  | mate =>
    intro c m' p hp
    grind [w .mate c m' p, Function.update_apply, Role.other_other]
  | _ =>
    exact Kind.law_congr (Kind.same_two (by simp [ha, Bond.kind]) (by simp [Bond.kind]) (by simp [hb, Bond.kind])
      (by simp [Bond.kind])) (w _) rfl

/-! ### Ringing sets -/

/-- An originator has the ringing set that is tied to it, at least one station (R12). -/
theorem Web.rings_pos (w : Web B T) {o : Chan} {n : Nat} (h : B o = .rings n) : 1 ≤ n ∧ n = rungCount B o :=
  (w .ring).2 o n h

/-- A free channel is rung by nobody, and nobody is rung for it. -/
theorem Web.not_rungBy (w : Web B T) {o : Chan} (h : ∀ n, B o ≠ .rings n) (d : Chan) : B d ≠ .rungBy o := by
  intro hd
  obtain ⟨n, hn⟩ := (w .ring).1 d o hd
  exact h n hn

/-- A station rung by an originator that rings nobody yet (R104). -/
theorem Web.ringFirst (w : Web B T) {o d : Chan} (ho : B o = .free) (hd : B d = .free) (hne : o ≠ d) :
    Web (update (update B o (.rings 1)) d (.rungBy o)) T := by
  intro κ
  cases κ with
  | ring =>
    have none : ∀ x, B x ≠ .rungBy o := w.not_rungBy (by simp [ho])
    have zero : rungCount B o = 0 := rungCount_eq_zero.mpr none
    refine ⟨fun x y hx => ?_, fun x n hx => ?_⟩
    · have := (w .ring).1 x y
      grind [Function.update_apply]
    · by_cases e : x = o
      · subst e
        rw [rungCount_add (by simp [Ne.symm hne, hd]), rungCount_update (by simp [ho]) (by simp), zero]
        simp [hne] at hx
        omega
      · rw [rungCount_update (by simp [Ne.symm hne, hd]) (by simpa using Ne.symm e),
          rungCount_update (by simp [ho]) (by simp)]
        exact (w .ring).2 x n (by grind [Function.update_apply])
  | _ =>
    exact Kind.law_congr (Kind.same_two (by simp [ho, Bond.kind]) (by simp [Bond.kind]) (by simp [hd, Bond.kind])
      (by simp [Bond.kind])) (w _) rfl

/-- A further station rung (R104). -/
theorem Web.ringMore (w : Web B T) {o d : Chan} {n : Nat} (ho : B o = .rings n) (hd : B d = .free) :
    Web (update (update B o (.rings (n + 1))) d (.rungBy o)) T := by
  have hne : o ≠ d := by rintro rfl; simp [ho] at hd
  intro κ
  cases κ with
  | ring =>
    refine ⟨fun x y hx => ?_, fun x m hx => ?_⟩
    · have := (w .ring).1 x y
      grind [Function.update_apply]
    · by_cases e : x = o
      · subst e
        rw [rungCount_add (by simp [Ne.symm hne, hd]), rungCount_update (by simp [ho]) (by simp),
          ← (w.rings_pos ho).2]
        simp [hne] at hx
        omega
      · rw [rungCount_update (by simp [Ne.symm hne, hd]) (by simpa using Ne.symm e),
          rungCount_update (by simp [ho]) (by simp)]
        exact (w .ring).2 x m (by grind [Function.update_apply])
  | _ =>
    exact Kind.law_congr (Kind.same_two (by simp [ho, Bond.kind]) (by simp [Bond.kind]) (by simp [hd, Bond.kind])
      (by simp [Bond.kind])) (w _) rfl

/-- One of several rung stations is rung no more (R12). -/
theorem Web.ringLess (w : Web B T) {o d : Chan} {n : Nat} (ho : B o = .rings n) (hd : B d = .rungBy o) (hn : 1 < n) :
    Web (update (update B o (.rings (n - 1))) d .free) T := by
  have hne : o ≠ d := by rintro rfl; simp [ho] at hd
  intro κ
  cases κ with
  | ring =>
    refine ⟨fun x y hx => ?_, fun x m hx => ?_⟩
    · have := (w .ring).1 x y
      grind [Function.update_apply]
    · by_cases e : x = o
      · subst e
        have h1 := rungCount_sub (B := update B x (.rings (n - 1))) (a := d) (x := .free) (by simpa [Ne.symm hne] using hd)
          (by simp)
        rw [rungCount_update (B := B) (by simp [ho]) (by simp), ← (w.rings_pos ho).2] at h1
        simp [hne] at hx
        omega
      · rw [rungCount_update (by simp [Ne.symm hne, hd, Ne.symm e]) (by simp), rungCount_update (by simp [ho]) (by simp)]
        exact (w .ring).2 x m (by grind [Function.update_apply])
  | _ =>
    exact Kind.law_congr (Kind.same_two (by simp [ho, Bond.kind]) (by simp [Bond.kind]) (by simp [hd, Bond.kind])
      (by simp [Bond.kind])) (w _) rfl

/-- The ties when `o` rings nobody any more: it and its ringing set are free. -/
def unrung (B : Chan → Bond) (o : Chan) : Chan → Bond := fun d => if d = o ∨ B d = .rungBy o then .free else B d

/-- A ringing set is given up (R11). -/
theorem Web.ringEnd (w : Web B T) {o : Chan} {n : Nat} (ho : B o = .rings n) : Web (unrung B o) T := by
  intro κ
  cases κ with
  | ring =>
    refine ⟨fun x y hx => ?_, fun x m hx => ?_⟩
    · have := (w .ring).1 x y
      grind [unrung]
    · have hne : x ≠ o := by rintro rfl; simp [unrung] at hx
      have hc : rungCount (unrung B o) x = rungCount B x := by
        unfold rungCount
        congr 1
        ext d
        simp only [Finset.mem_filter]
        grind [unrung]
      rw [hc]
      exact (w .ring).2 x m (by grind [unrung])
  | _ =>
    refine Kind.law_congr (fun c => ?_) (w _) rfl
    grind [unrung, Bond.kind]

/-- The ties when the ringing set of `c` has passed to `h`. -/
def passedOn (B : Chan → Bond) (c h : Chan) (n : Nat) : Chan → Bond := fun d =>
  if d = c then .free else if d = h then .rings n else if B d = .rungBy c then .rungBy h else B d

/-- A ringing set passes whole to a free channel (R145). -/
theorem Web.ringPass (w : Web B T) {c h : Chan} {n : Nat} (hc : B c = .rings n) (hh : B h = .free) (hne : c ≠ h) :
    Web (passedOn B c h n) T := by
  intro κ
  cases κ with
  | ring =>
    have none : ∀ x, B x ≠ .rungBy h := w.not_rungBy (by simp [hh])
    refine ⟨fun x y hx => ?_, fun x m hx => ?_⟩
    · have := (w .ring).1 x y
      grind [passedOn]
    · by_cases e : x = h
      · subst e
        have hr : rungCount (passedOn B c x n) x = rungCount B c := by
          unfold rungCount
          congr 1
          ext d
          simp only [Finset.mem_filter]
          grind [passedOn]
        rw [hr, ← (w.rings_pos hc).2]
        have := (w.rings_pos hc).1
        grind [passedOn]
      · have hr : rungCount (passedOn B c h n) x = rungCount B x := by
          unfold rungCount
          congr 1
          ext d
          simp only [Finset.mem_filter]
          grind [passedOn]
        rw [hr]
        exact (w .ring).2 x m (by grind [passedOn])
  | _ =>
    refine Kind.law_congr (fun c => ?_) (w _) rfl
    grind [passedOn, Bond.kind]

/-! ### Holders -/

/-- Nobody holds a channel that is not tied to a holder. -/
theorem Web.not_held (w : Web B T) {p : Chan} (h : ∀ c, B p ≠ .heldBy c) (c : Chan) : T.holds c ≠ some p := by
  intro hc
  exact h c (((w .hold) c p).mp hc)

/-- A free channel is held by one that holds nobody (R140). -/
theorem Web.hold (w : Web B T) {c p : Chan} (hp : B p = .free) (hc : T.holds c = none) :
    Web (update B p (.heldBy c)) { T with holds := update T.holds c (some p) } := by
  intro κ
  cases κ with
  | hold =>
    intro x y
    have := w .hold x y
    have := w .hold c y
    have := w.not_held (p := p) (by simp [hp]) x
    grind [Function.update_apply]
  | _ => exact Kind.law_congr ((Kind.same_refl _ B).update (by simp [hp, Bond.kind]) (by simp [Bond.kind])) (w _) rfl

/-- A holder holds its party no more (R141). -/
theorem Web.unhold (w : Web B T) {c h : Chan} (hc : T.holds c = some h) :
    Web (update B h .free) { T with holds := update T.holds c none } := by
  have hh : B h = .heldBy c := ((w .hold) c h).mp hc
  intro κ
  cases κ with
  | hold =>
    intro x y
    have := w .hold x y
    have := w .hold c y
    grind [Function.update_apply]
  | _ => exact Kind.law_congr ((Kind.same_refl _ B).update (by simp [hh, Bond.kind]) nofun) (w _) rfl

/-! ### Receivers and their wait queue -/

/-- A free channel joins the tail of the wait queue while no receiver is FREE (R54). -/
theorem Web.wait (w : Web B T) {c : Chan} (hc : B c = .free) (hf : ∀ r, (T.rx r).state ≠ .free) :
    Web (update B c .waits) { T with queue := T.queue ++ [c] } := by
  obtain ⟨hn, hm, -⟩ := w .wait
  have hcq : c ∉ T.queue := by simp [hm, hc]
  intro κ
  cases κ with
  | wait =>
    refine ⟨?_, fun x => ?_, fun _ => hf⟩
    · exact List.Nodup.append hn (List.nodup_singleton c) (by simpa using hcq)
    · have := hm x
      simp only [List.mem_append, List.mem_singleton]
      grind [Function.update_apply]
  | _ => exact Kind.law_congr ((Kind.same_refl _ B).update (by simp [hc, Bond.kind]) (by simp [Bond.kind])) (w _) rfl

/-- A channel leaves the wait queue. -/
theorem Web.unwait (w : Web B T) {c : Chan} (hc : B c = .waits) :
    Web (update B c .free) { T with queue := T.queue.filter (· ≠ c) } := by
  obtain ⟨hn, hm, hb⟩ := w .wait
  intro κ
  cases κ with
  | wait =>
    refine ⟨hn.filter _, fun x => ?_, fun hq => hb ?_⟩
    · have := hm x
      simp only [List.mem_filter]
      grind [Function.update_apply]
    · intro he
      simp [he] at hq
  | _ => exact Kind.law_congr ((Kind.same_refl _ B).update (by simp [hc, Bond.kind]) nofun) (w _) rfl

/-- The head of the wait queue leaves it. -/
theorem Web.unwaitHead (w : Web B T) {c : Chan} {q : List Chan} (hq : T.queue = c :: q) :
    Web (update B c .free) { T with queue := q } := by
  obtain ⟨hn, hm, -⟩ := w .wait
  rw [hq, List.nodup_cons] at hn
  have hc : B c = .waits := (hm c).mp (by simp [hq])
  have := w.unwait hc
  rwa [hq, List.filter_cons_of_neg (by simp), List.filter_eq_self.mpr] at this
  intro x hx
  simpa using ne_of_mem_of_not_mem hx hn.1

/-- The receivers change, but not whom they are assigned to, and none becomes FREE while a channel waits. -/
theorem Web.rx (w : Web B T) {f : RxIx → Receiver} (ha : ∀ r, (f r).assigned = (T.rx r).assigned)
    (hf : T.queue ≠ [] → ∀ r, (f r).state ≠ .free) : Web B { T with rx := f } := by
  obtain ⟨hn, hm, -⟩ := w .wait
  intro κ
  cases κ with
  | wait => exact ⟨hn, hm, hf⟩
  | collect => exact fun r c => by rw [ha r]; exact w .collect r c
  | _ => exact Kind.law_congr (Kind.same_refl _ B) (w _) rfl

/-- A free channel collects with a receiver that is nobody's (R54, R58). -/
theorem Web.lend (w : Web B T) {c : Chan} {r : RxIx} {x : Receiver} (hc : B c = .free) (hr : (T.rx r).assigned = none)
    (hx : x.assigned = some c) (hf : x.state ≠ .free) :
    Web (update B c (.collects (some r))) { T with rx := update T.rx r x } := by
  obtain ⟨hn, hm, hb⟩ := w .wait
  intro κ
  cases κ with
  | wait =>
    refine ⟨hn, fun y => ?_, fun hq y => ?_⟩
    · have := hm y
      grind [Function.update_apply]
    · have := hb hq y
      grind [Function.update_apply]
  | collect =>
    intro q y
    have := w .collect q y
    have := w .collect r y
    grind [Function.update_apply]
  | _ => exact Kind.law_congr ((Kind.same_refl _ B).update (by simp [hc, Bond.kind]) (by simp [Bond.kind])) (w _) rfl

/-- The receiver of a collection is given back; while a channel waits it does not become FREE (R57). -/
theorem Web.unlend (w : Web B T) {c : Chan} {r : RxIx} {x : Receiver} (hc : B c = .collects (some r))
    (hx : x.assigned = none) (hf : T.queue ≠ [] → x.state ≠ .free) :
    Web (update B c .free) { T with rx := update T.rx r x } := by
  obtain ⟨hn, hm, hb⟩ := w .wait
  intro κ
  cases κ with
  | wait =>
    refine ⟨hn, fun y => ?_, fun hq y => ?_⟩
    · have := hm y
      grind [Function.update_apply]
    · have := hb hq y
      grind [Function.update_apply]
  | collect =>
    intro q y
    have := w .collect q y
    have := w .collect r y
    have := w .collect r c
    grind [Function.update_apply]
  | _ => exact Kind.law_congr ((Kind.same_refl _ B).update (by simp [hc, Bond.kind]) nofun) (w _) rfl

/-- A collection without a receiver begins or ends. -/
theorem Web.collectAlone (w : Web B T) {c : Chan} {x : Bond} (hc : B c = .free ∨ B c = .collects none)
    (hx : x = .free ∨ x = .collects none) : Web (update B c x) T := by
  intro κ
  cases κ with
  | collect =>
    intro r y
    have := w .collect r y
    grind [Function.update_apply]
  | _ =>
    exact Kind.law_congr ((Kind.same_refl _ B).update (by rcases hc with h | h <;> simp [h, Bond.kind])
      (by rcases hx with h | h <;> simp [h, Bond.kind])) (w _) rfl

/-! ### Camp-on queues -/

/-- A free channel joins the tail of a camp-on queue (R116). -/
theorem Web.camp (w : Web B T) {c : Chan} {g : GroupIx} (hc : B c = .free) (hl : (T.camp g).length < 8) :
    Web (update B c (.camps g)) { T with camp := update T.camp g (T.camp g ++ [c]) } := by
  intro κ
  cases κ with
  | camp =>
    intro f
    obtain ⟨hn, hlen, hm⟩ := w .camp f
    have hcf : c ∉ T.camp f := by simp [hm, hc]
    by_cases e : f = g
    · subst e
      simp only [Function.update_self, List.length_append, List.length_singleton, List.mem_append, List.mem_singleton]
      refine ⟨List.Nodup.append hn (List.nodup_singleton c) (by simpa using hcf), by omega, fun x => ?_⟩
      have := hm x
      grind [Function.update_apply]
    · simp only [Function.update_of_ne e]
      refine ⟨hn, hlen, fun x => ?_⟩
      have := hm x
      grind [Function.update_apply]
  | _ => exact Kind.law_congr ((Kind.same_refl _ B).update (by simp [hc, Bond.kind]) (by simp [Bond.kind])) (w _) rfl

/-- A channel leaves the camp-on queues (R115). -/
theorem Web.uncamp (w : Web B T) {c : Chan} {g : GroupIx} (hc : B c = .camps g) :
    Web (update B c .free) { T with camp := fun f => (T.camp f).filter (· ≠ c) } := by
  intro κ
  cases κ with
  | camp =>
    intro f
    obtain ⟨hn, hlen, hm⟩ := w .camp f
    refine ⟨hn.filter _, (List.length_filter_le ..).trans hlen, fun x => ?_⟩
    have := hm x
    simp only [List.mem_filter]
    grind [Function.update_apply]
  | _ => exact Kind.law_congr ((Kind.same_refl _ B).update (by simp [hc, Bond.kind]) nofun) (w _) rfl

/-- The head of a camp-on queue leaves it (R117). -/
theorem Web.uncampHead (w : Web B T) {c : Chan} {g : GroupIx} {q : List Chan} (hq : T.camp g = c :: q) :
    Web (update B c .free) { T with camp := update T.camp g q } := by
  obtain ⟨hn, -, hm⟩ := w .camp g
  have hc : B c = .camps g := (hm c).mp (by simp [hq])
  have he : (fun f => (T.camp f).filter (· ≠ c)) = update T.camp g q := by
    funext f
    by_cases e : f = g
    · subst e
      rw [hq, List.nodup_cons] at hn
      rw [Function.update_self, hq, List.filter_cons_of_neg (by simp), List.filter_eq_self]
      exact fun x hx => by simpa using ne_of_mem_of_not_mem hx hn.1
    · rw [Function.update_of_ne e, List.filter_eq_self]
      intro x hx
      have hx' := ((w .camp f).2.2 x).mp hx
      have : x ≠ c := by rintro rfl; rw [hc] at hx'; exact e (by simpa using hx'.symm)
      simpa using this
  rw [← he]
  exact w.uncamp hc

/-- A place in a camp-on queue passes to a free channel (R145). -/
theorem Web.passCamp (w : Web B T) {c h : Chan} {g : GroupIx} (hc : B c = .camps g) (hh : B h = .free) :
    Web (update (update B c .free) h (.camps g))
      { T with camp := fun f => (T.camp f).map fun x => if x = c then h else x } := by
  have hne : c ≠ h := by rintro rfl; simp [hc] at hh
  intro κ
  cases κ with
  | camp =>
    intro f
    obtain ⟨hn, hlen, hm⟩ := w .camp f
    have hhf : h ∉ T.camp f := by simp [hm, hh]
    refine ⟨?_, by simpa using hlen, fun x => ?_⟩
    · refine List.Nodup.map_on (fun x hx y hy hxy => ?_) hn
      grind
    · simp only [List.mem_map]
      have h1 := hm x
      have h2 := hm c
      constructor
      · rintro ⟨y, hy, rfl⟩
        have := hm y
        grind [Function.update_apply]
      · intro hx
        by_cases e : x = h
        · exact ⟨c, by grind [Function.update_apply], by simp [e]⟩
        · exact ⟨x, by grind [Function.update_apply], by grind [Function.update_apply]⟩
  | _ =>
    exact Kind.law_congr (Kind.same_two (by simp [hc, Bond.kind]) nofun (by simp [hh, Bond.kind])
      (by simp [Bond.kind])) (w _) rfl

/-! ### Bridges -/

/-- Three free channels form a free bridge (R131). -/
theorem Web.form (w : Web B T) {a b c : Chan} {i : BridgeIx} (ha : B a = .free) (hb : B b = .free) (hc : B c = .free)
    (hab : a ≠ b) (hac : a ≠ c) (hbc : b ≠ c) (hi : T.bridge i = []) :
    Web (update (update (update B a (.confers i)) b (.confers i)) c (.confers i))
      { T with bridge := update T.bridge i [a, b, c] } := by
  intro κ
  cases κ with
  | confer =>
    intro j
    obtain ⟨hn, hlen, hm⟩ := w .confer j
    by_cases e : j = i
    · subst e
      rw [hi] at hm
      refine ⟨by simp [hab, hac, hbc], by simp, fun x => ?_⟩
      have := hm x
      grind [Function.update_apply]
    · simp only [Function.update_of_ne e]
      refine ⟨hn, hlen, fun x => ?_⟩
      have := hm x
      grind [Function.update_apply]
  | _ =>
    exact Kind.law_congr ((Kind.same_two (by simp [ha, Bond.kind]) (by simp [Bond.kind]) (by simp [hb, Bond.kind])
      (by simp [Bond.kind])).update (by simp [hc, Bond.kind]) (by simp [Bond.kind])) (w _) rfl

/-- A free channel joins a bridge of three (R133). -/
theorem Web.joinBridge (w : Web B T) {c : Chan} {i : BridgeIx} (hc : B c = .free) (hi : (T.bridge i).length = 3) :
    Web (update B c (.confers i)) { T with bridge := update T.bridge i (T.bridge i ++ [c]) } := by
  intro κ
  cases κ with
  | confer =>
    intro j
    obtain ⟨hn, hlen, hm⟩ := w .confer j
    have hcj : c ∉ T.bridge j := by simp [hm, hc]
    by_cases e : j = i
    · subst e
      simp only [Function.update_self, List.length_append, List.length_singleton, List.mem_append, List.mem_singleton]
      refine ⟨List.Nodup.append hn (List.nodup_singleton c) (by simpa using hcj), by omega, fun x => ?_⟩
      have := hm x
      grind [Function.update_apply]
    · simp only [Function.update_of_ne e]
      refine ⟨hn, hlen, fun x => ?_⟩
      have := hm x
      grind [Function.update_apply]
  | _ => exact Kind.law_congr ((Kind.same_refl _ B).update (by simp [hc, Bond.kind]) (by simp [Bond.kind])) (w _) rfl

/-- A member leaves a bridge that does not dissolve (R134). -/
theorem Web.leaveBridge (w : Web B T) {c : Chan} {i : BridgeIx} (hc : B c = .confers i)
    (hl : ((T.bridge i).filter (· ≠ c)).length ≠ 2) :
    Web (update B c .free) { T with bridge := update T.bridge i ((T.bridge i).filter (· ≠ c)) } := by
  intro κ
  cases κ with
  | confer =>
    intro j
    obtain ⟨hn, hlen, hm⟩ := w .confer j
    by_cases e : j = i
    · subst e
      simp only [Function.update_self]
      have hin : c ∈ T.bridge j := (hm c).mpr hc
      have hcard : ((T.bridge j).filter (· ≠ c)).length + 1 = (T.bridge j).length := by
        have he : (T.bridge j).filter (· ≠ c) = (T.bridge j).erase c := by
          rw [hn.erase_eq_filter]
          congr 1
          funext x
          by_cases h : x = c <;> simp [h]
        have := List.length_pos_of_mem hin
        rw [he, List.length_erase_of_mem hin]
        omega
      refine ⟨hn.filter _, by omega, fun x => ?_⟩
      have := hm x
      simp only [List.mem_filter]
      grind [Function.update_apply]
    · simp only [Function.update_of_ne e]
      refine ⟨hn, hlen, fun x => ?_⟩
      have := hm x
      grind [Function.update_apply]
  | _ => exact Kind.law_congr ((Kind.same_refl _ B).update (by simp [hc, Bond.kind]) nofun) (w _) rfl

/-- A bridge dissolves when a member leaves the last two (R135). -/
theorem Web.dissolve (w : Web B T) {c x y : Chan} {i : BridgeIx} (hc : B c = .confers i)
    (hl : (T.bridge i).filter (· ≠ c) = [x, y]) :
    Web (update (update (update B c .free) x .free) y .free) { T with bridge := update T.bridge i [] } := by
  have hmem : ∀ z, (B z = .confers i ∧ z ≠ c) ↔ z = x ∨ z = y := fun z => by
    have : z ∈ (T.bridge i).filter (· ≠ c) ↔ z ∈ [x, y] := by rw [hl]
    simpa [((w .confer) i).2.2 z] using this
  have hx := ((hmem x).mpr (.inl rfl)).1
  have hy := ((hmem y).mpr (.inr rfl)).1
  intro κ
  cases κ with
  | confer =>
    intro j
    obtain ⟨hn, hlen, hm⟩ := w .confer j
    by_cases e : j = i
    · subst e
      refine ⟨by simp, by simp, fun z => ?_⟩
      have := hmem z
      grind [Function.update_apply]
    · simp only [Function.update_of_ne e]
      refine ⟨hn, hlen, fun z => ?_⟩
      have := hm z
      grind [Function.update_apply]
  | _ =>
    exact Kind.law_congr ((Kind.same_two (by simp [hc, Bond.kind]) (by simp [Bond.kind])
      (by simp [hx, Bond.kind]) (by simp [Bond.kind])).update (by simp [hy, Bond.kind]) (by simp [Bond.kind])) (w _) rfl

end Sys2Proof.Machine
end

section
/-! The records tied as their states say: a call state is bound when every record outside a list of channels in transition
fits its class and state and has the tie that the web of ties gives it. An event takes a channel into transition, moves
ties, and lets the channel enter a state that has its tie. -/

namespace Sys2Proof.Machine

open Function (update)

/-! ### The tie of a record -/

/-- A tie named by a field; broken when the field is not set. -/
def Bond.named {α : Type} (f : α → Bond) : Option α → Bond
  | some a => f a
  | none => .broken

@[simp] theorem Bond.named_some {α : Type} (f : α → Bond) (a : α) : Bond.named f (some a) = f a := rfl
@[simp] theorem Bond.named_none {α : Type} (f : α → Bond) : Bond.named f none = .broken := rfl

/-- What the state of a record ties it to. -/
def Session.bond (r : Session) : Bond :=
  match r.state with
  | .talk => .named (.mate .talks) r.peer
  | .seizing => .named (.mate .seizes) r.peer
  | .trunkwait => .named (.mate .awaits) r.peer
  | .outring | .ringin => .rings r.ringCount
  | .ringing => .named .rungBy r.peer
  | .held => .named .heldBy r.heldBy
  | .seized => .waits
  | .collecting => .collects r.receiver
  | .queued => .named .camps r.curGroup
  | .confer => .named .confers r.bridge
  | .idle | .blocked | .hostwait | .toneout | .lockout | .releasing => .free

/-- The state of a partner in a role. -/
def Role.state : Role → SState
  | .talks => .talk
  | .seizes => .seizing
  | .awaits => .trunkwait

/-- The states that tie a record to nothing. -/
def SState.plain : SState → Bool
  | .idle | .blocked | .hostwait | .toneout | .lockout | .releasing => true
  | _ => false

theorem Bond.named_eq {α : Type} {f : α → Bond} {o : Option α} {x : Bond} (hx : x ≠ .broken) :
    Bond.named f o = x ↔ ∃ a, o = some a ∧ f a = x := by
  cases o with
  | none => simp [Ne.symm hx]
  | some a => simp

section

variable {r : Session}

theorem Session.bond_eq_free : r.bond = .free ↔ r.state.plain = true := by
  unfold Session.bond
  cases r.state <;> simp [SState.plain, Bond.named_eq]

theorem Session.bond_eq_mate {m : Role} {p : Chan} : r.bond = .mate m p ↔ r.state = m.state ∧ r.peer = some p := by
  unfold Session.bond
  cases r.state <;> cases m <;> simp [Role.state, Bond.named_eq]

theorem Session.bond_eq_rings {n : Nat} : r.bond = .rings n ↔ r.state.rings = true ∧ r.ringCount = n := by
  unfold Session.bond
  cases r.state <;> simp [SState.rings, Bond.named_eq]

theorem Session.bond_eq_rungBy {o : Chan} : r.bond = .rungBy o ↔ r.state = .ringing ∧ r.peer = some o := by
  unfold Session.bond
  cases r.state <;> simp [Bond.named_eq]

theorem Session.bond_eq_heldBy {h : Chan} : r.bond = .heldBy h ↔ r.state = .held ∧ r.heldBy = some h := by
  unfold Session.bond
  cases r.state <;> simp [Bond.named_eq]

theorem Session.bond_eq_waits : r.bond = .waits ↔ r.state = .seized := by
  unfold Session.bond
  cases r.state <;> simp [Bond.named_eq]

theorem Session.bond_eq_collects {x : Option RxIx} : r.bond = .collects x ↔ r.state = .collecting ∧ r.receiver = x := by
  unfold Session.bond
  cases r.state <;> simp [Bond.named_eq]

theorem Session.bond_eq_camps {g : GroupIx} : r.bond = .camps g ↔ r.state = .queued ∧ r.curGroup = some g := by
  unfold Session.bond
  cases r.state <;> simp [Bond.named_eq]

theorem Session.bond_eq_confers {b : BridgeIx} : r.bond = .confers b ↔ r.state = .confer ∧ r.bridge = some b := by
  unfold Session.bond
  cases r.state <;> simp [Bond.named_eq]

theorem Bond.named_eq_broken {α : Type} {f : α → Bond} {o : Option α} (hf : ∀ a, f a ≠ .broken) :
    Bond.named f o = .broken ↔ o = none := by
  cases o with
  | none => simp
  | some a => simp [hf]

/-- A record's own field is missing. -/
theorem Session.bond_eq_broken : r.bond = .broken ↔
    (r.state ∈ [SState.talk, .seizing, .trunkwait, .ringing] ∧ r.peer = none) ∨ (r.state = .held ∧ r.heldBy = none) ∨
      (r.state = .queued ∧ r.curGroup = none) ∨ (r.state = .confer ∧ r.bridge = none) := by
  unfold Session.bond
  cases r.state <;> simp [Bond.named_eq_broken]

end

/-! ### Bound records -/

/-- What the ties of the records are checked against. -/
def Calls.tables (k : Calls) : Tables where
  holds c := (k.ses c).holds
  queue := k.rxQueue
  rx := k.rx
  camp g := (k.group g).queue
  bridge := k.members

/-- Every record outside the channels `cs` in transition fits its class and state and has the tie `B` gives it; the ties
keep the laws; an unassigned receiver is nobody's; and the groups' settings are in range. -/
structure Calls.Bound (k : Calls) (cs : List Chan) (B : Chan → Bond) : Prop where
  fits : ∀ d, d ∉ cs → (k.ses d).fits ∧ (k.ses d).bond = B d
  holder : ∀ d, (k.ses d).holds ≠ none → (k.ses d).cls = .station
  web : Web B k.tables
  spare : ∀ r, (k.rx r).state.assigned = false → (k.rx r).assigned = none
  settings : ∀ g, (k.group g).members.Nodup ∧ (k.group g).queueLimit ≤ 8

/-- No channel is in transition. -/
def Calls.Lawful (k : Calls) : Prop := ∃ B, k.Bound [] B

/-- Channel `c` alone is in transition, nothing is tied to it but the party it holds, and it keeps no ringing count. -/
structure Calls.Loose (c : Chan) (k : Calls) : Prop where
  bound : ∃ B, k.Bound [c] B ∧ B c = .free
  quiet : (k.ses c).state.rings = true → (k.ses c).ringCount = 0

section

variable {k : Calls} {cs : List Chan} {B B' : Chan → Bond}

/-- More channels may be taken into transition. -/
theorem Calls.Bound.loosen (h : k.Bound cs B) {ds : List Chan} (hs : ∀ c ∈ cs, c ∈ ds) : k.Bound ds B :=
  ⟨fun d hd => h.fits d fun hc => hd (hs d hc), h.holder, h.web, h.spare, h.settings⟩

/-- Ties of channels in transition may be moved. -/
theorem Calls.Bound.relink (h : k.Bound cs B) (w : Web B' k.tables) (hB : ∀ d, d ∉ cs → B' d = B d) : k.Bound cs B' :=
  ⟨fun d hd => ⟨(h.fits d hd).1, (h.fits d hd).2.trans (hB d hd).symm⟩, h.holder, w, h.spare, h.settings⟩

theorem Calls.tables_eq {l : Calls} (hs : ∀ d, (l.ses d).holds = (k.ses d).holds) (hq : l.rxQueue = k.rxQueue)
    (hr : l.receivers = k.receivers) (hg : l.groups = k.groups) (hb : l.bridges = k.bridges) : l.tables = k.tables := by
  simp only [Calls.tables, hs, hq, Tables.mk.injEq, true_and]
  exact ⟨by funext r; simp [Calls.rx, hr], by funext g; simp [Calls.group, hg], by funext b; simp [Calls.members, hb]⟩

/-- The record of a channel in transition is written, with its tie when the channel leaves the transition. -/
theorem Calls.Bound.write {c : Chan} (h : k.Bound (c :: cs) B) {l : Calls} {x : Session}
    (hl : ∀ d, l.ses d = if c = d then x else k.ses d) (hq : l.rxQueue = k.rxQueue) (hr : l.receivers = k.receivers)
    (hg : l.groups = k.groups) (hb : l.bridges = k.bridges) (hx : c ∉ cs → x.fits ∧ x.bond = B c)
    (hs : x.holds ≠ none → x.cls = .station) (hh : x.holds = (k.ses c).holds) : l.Bound cs B := by
  have er : ∀ r, l.rx r = k.rx r := fun r => by simp [Calls.rx, hr]
  have eg : ∀ g, l.group g = k.group g := fun g => by simp [Calls.group, hg]
  have ht : l.tables = k.tables := by
    refine Calls.tables_eq (fun d => ?_) hq hr hg hb
    rw [hl]
    split
    · next e => subst e; exact hh
    · rfl
  refine ⟨fun d hd => ?_, fun d hd => ?_, by rw [ht]; exact h.web, fun r => er r ▸ h.spare r, fun g => eg g ▸ h.settings g⟩
  · rw [hl]
    split
    · next e => subst e; exact hx hd
    · next e => exact h.fits d (by simp [hd, Ne.symm e])
  · rw [hl] at hd ⊢
    split at hd
    · next e => rw [if_pos e]; exact hs hd
    · next e => rw [if_neg e]; exact h.holder d hd

/-- A record that fits its class is a station's when it holds a party. -/
theorem Session.fits.holder {r : Session} (h : r.fits) (hh : r.holds ≠ none) : r.cls = .station := by
  obtain ⟨-, -, -, holds, -⟩ := h
  exact (holds hh).1

/-- A channel in transition enters a state that has its tie. -/
theorem Calls.Bound.enter {c : Chan} (h : k.Bound (c :: cs) B) {st : SState} {f : Session → Session}
    (hf : (f ((k.ses c).moved st)).fits) (hb : (f ((k.ses c).moved st)).bond = B c)
    (hh : (f ((k.ses c).moved st)).holds = (k.ses c).holds) : (k.enter c st f).Bound cs B := by
  refine h.write (fun d => ?_) rfl rfl rfl rfl (fun _ => ⟨hf, hb⟩) hf.holder hh
  rw [Calls.ses_enter]
  split
  · next e => rw [e]
  · rfl

/-- The record of a channel in transition is given its tie without a change of state. -/
theorem Calls.Bound.settle {c : Chan} (h : k.Bound (c :: cs) B) {f : Session → Session} (hf : (f (k.ses c)).fits)
    (hb : (f (k.ses c)).bond = B c) (hh : (f (k.ses c)).holds = (k.ses c).holds) : (k.alter c f).Bound cs B := by
  refine h.write (fun d => ?_) rfl rfl rfl rfl (fun _ => ⟨hf, hb⟩) hf.holder hh
  rw [Calls.ses_alter]
  split
  · next e => rw [e]
  · rfl

/-- A record changes in nothing that its tie and its holder read. -/
theorem Calls.Bound.alter (h : k.Bound cs B) {c : Chan} {f : Session → Session}
    (hf : c ∉ cs → (f (k.ses c)).fits ∧ (f (k.ses c)).bond = (k.ses c).bond)
    (hc : (f (k.ses c)).cls = (k.ses c).cls) (hh : (f (k.ses c)).holds = (k.ses c).holds) : (k.alter c f).Bound cs B := by
  refine (h.loosen (ds := c :: cs) (by simp +contextual)).write (c := c) (x := f (k.ses c)) (fun d => ?_) rfl rfl rfl rfl
    (fun hd => ⟨(hf hd).1, (hf hd).2.trans (h.fits c hd).2⟩) (fun hd => hc ▸ h.holder c (hh ▸ hd)) hh
  rw [Calls.ses_alter]
  split
  · next e => rw [e]
  · rfl

/-- Whom a channel in transition holds changes with the ties. -/
theorem Calls.Bound.setHolds (h : k.Bound cs B) {c : Chan} (hc : c ∈ cs) (x : Option Chan)
    (hx : x ≠ none → (k.ses c).cls = .station) (w : Web B' { k.tables with holds := update k.tables.holds c x })
    (hB : ∀ d, d ∉ cs → B' d = B d) : (k.alter c fun r => { r with holds := x }).Bound cs B' := by
  have ht : (k.alter c fun r => { r with holds := x }).tables = { k.tables with holds := update k.tables.holds c x } := by
    simp only [Calls.tables, Tables.mk.injEq]
    refine ⟨?_, rfl, rfl, rfl, rfl⟩
    funext d
    rw [Calls.ses_alter, Function.update_apply]
    by_cases e : c = d <;> simp [e, eq_comm]
  refine ⟨fun d hd => ?_, fun d hd => ?_, by rw [ht]; exact w, fun r => h.spare r, fun g => h.settings g⟩
  · have e : c ≠ d := by rintro rfl; exact hd hc
    rw [Calls.ses_alter_ne _ _ _ _ e, hB d hd]
    exact h.fits d hd
  · by_cases e : c = d
    · subst e; simp at hd ⊢; exact hx hd
    · rw [Calls.ses_alter_ne _ _ _ _ e] at hd ⊢; exact h.holder d hd

/-- Nothing the ties read changes. -/
theorem Calls.Bound.congr (h : k.Bound cs B) {l : Calls} (hs : l.sessions = k.sessions) (hr : l.receivers = k.receivers)
    (hq : l.rxQueue = k.rxQueue) (hg : l.groups = k.groups) (hb : l.bridges = k.bridges) : l.Bound cs B := by
  have es : ∀ d, l.ses d = k.ses d := fun d => by simp [Calls.ses, hs]
  have er : ∀ r, l.rx r = k.rx r := fun r => by simp [Calls.rx, hr]
  have eg : ∀ g, l.group g = k.group g := fun g => by simp [Calls.group, hg]
  refine ⟨fun d => es d ▸ h.fits d, fun d => es d ▸ h.holder d, ?_, fun r => er r ▸ h.spare r, fun g => eg g ▸ h.settings g⟩
  rw [Calls.tables_eq (fun d => by rw [es]) hq hr hg hb]
  exact h.web

theorem Calls.Bound.setBatt (h : k.Bound cs B) (c : Chan) (q : BattQual) : (k.setBatt c q).Bound cs B :=
  h.congr rfl rfl rfl rfl rfl

/-- The wait queue changes with the ties. -/
theorem Calls.Bound.setQueue (h : k.Bound cs B) (q : List Chan) (w : Web B' { k.tables with queue := q })
    (hB : ∀ d, d ∉ cs → B' d = B d) : Calls.Bound { k with rxQueue := q } cs B' :=
  ⟨fun d hd => ⟨(h.fits d hd).1, (h.fits d hd).2.trans (hB d hd).symm⟩, h.holder, w, h.spare, h.settings⟩

/-- A receiver changes with the ties. -/
theorem Calls.Bound.setRx (h : k.Bound cs B) (r : RxIx) (x : Receiver) (hx : x.state.assigned = false → x.assigned = none)
    (w : Web B' { k.tables with rx := update k.tables.rx r x }) (hB : ∀ d, d ∉ cs → B' d = B d) :
    (k.setRx r x).Bound cs B' := by
  have ht : (k.setRx r x).tables = { k.tables with rx := update k.tables.rx r x } := by
    simp only [Calls.tables, Tables.mk.injEq]
    refine ⟨rfl, rfl, ?_, rfl, rfl⟩
    funext q
    rw [Calls.rx_setRx, Function.update_apply]
    by_cases e : r = q <;> simp [e, eq_comm]
  refine ⟨fun d hd => ⟨(h.fits d hd).1, (h.fits d hd).2.trans (hB d hd).symm⟩, h.holder, by rw [ht]; exact w,
    fun q => ?_, h.settings⟩
  rw [Calls.rx_setRx]
  split
  · exact hx
  · exact h.spare q

/-- The camp-on queues change with the ties; positions may change with them. -/
theorem Calls.Bound.setGroups (h : k.Bound cs B) (v : Vector Group 8) (hv : ∀ g, Group.Alike (k.group g) (look v g))
    (w : Web B' { k.tables with camp := fun g => (look v g).queue }) (hB : ∀ d, d ∉ cs → B' d = B d) :
    Calls.Bound { k with groups := v } cs B' :=
  ⟨fun d hd => ⟨(h.fits d hd).1, (h.fits d hd).2.trans (hB d hd).symm⟩, h.holder, w, h.spare, fun g => by
    show (look v g).members.Nodup ∧ (look v g).queueLimit ≤ 8
    rw [(hv g).members, (hv g).queueLimit]
    exact h.settings g⟩

/-- The members of a bridge change with the ties. -/
theorem Calls.Bound.setMembers (h : k.Bound cs B) (b : BridgeIx) (l : List Chan)
    (w : Web B' { k.tables with bridge := update k.tables.bridge b l }) (hB : ∀ d, d ∉ cs → B' d = B d) :
    (k.setMembers b l).Bound cs B' := by
  have ht : (k.setMembers b l).tables = { k.tables with bridge := update k.tables.bridge b l } := by
    simp only [Calls.tables, Tables.mk.injEq]
    refine ⟨rfl, rfl, rfl, rfl, ?_⟩
    funext q
    rw [Calls.members_setMembers, Function.update_apply]
    by_cases e : b = q <;> simp [e, eq_comm]
  exact ⟨fun d hd => ⟨(h.fits d hd).1, (h.fits d hd).2.trans (hB d hd).symm⟩, h.holder, by rw [ht]; exact w, h.spare,
    h.settings⟩

end

end Sys2Proof.Machine
end

section
/-! Bound records and the laws of the spec: with no channel in transition the one says what the others say. -/

namespace Sys2Proof.Machine

open Function (update)

/-- The ties that the records have. -/
def Calls.bonds (k : Calls) (c : Chan) : Bond := (k.ses c).bond

theorem Calls.Bound.eq_bonds {k : Calls} {B : Chan → Bond} (h : k.Bound [] B) : B = k.bonds :=
  funext fun c => (h.fits c (by simp)).2.symm

/-- The ringing set as the tie counts it. -/
theorem Calls.rungCount_bonds (k : Calls) (o : Chan) (l : List Chan) (hl : l.Nodup) (hm : ∀ d, d ∈ l ↔ k.ringsFor o d) :
    rungCount k.bonds o = l.length := by
  rw [← List.toFinset_card_of_nodup hl]
  unfold rungCount
  congr 1
  ext d
  simp [hm, Calls.bonds, Session.bond_eq_rungBy, Calls.ringsFor]

theorem Calls.ringSet_nodup (k : Calls) (o : Chan) : (k.ringSet o).Nodup := (List.nodup_finRange 32).filter _

theorem SState.rings_iff (st : SState) : st.rings = true ↔ st ∈ [SState.outring, .ringin] := by cases st <;> simp [SState.rings]

/-- Records that keep the laws of the spec keep the laws of their ties. -/
theorem Calls.lawful_of_records {k : Calls} (hf : ∀ c, (k.ses c).fits) (hp : k.partnersLaw) (hq : k.poolLaw)
    (hg : k.queuesLaw) (hb : k.bridgesLaw) (hs : ∀ r, (k.rx r).state.assigned = false → (k.rx r).assigned = none)
    (ht : ∀ g, (k.group g).members.Nodup ∧ (k.group g).queueLimit ≤ 8) : k.Bound [] k.bonds := by
  refine ⟨fun d _ => ⟨hf d, rfl⟩, fun d hd => ?_, fun κ => ?_, hs, ht⟩
  · obtain ⟨-, -, -, holds, -⟩ := hf d
    exact (holds hd).1
  cases κ with
  | mate =>
    intro c m p h
    obtain ⟨hst, hpe⟩ := Session.bond_eq_mate.mp h
    obtain ⟨talk, seizing, waiting, -⟩ := hp c
    cases m with
    | talks =>
      obtain ⟨q, hne, hq, h1, h2⟩ := talk hst
      cases hpe.symm.trans hq
      exact ⟨hne, Session.bond_eq_mate.mpr ⟨h1, h2⟩⟩
    | seizes =>
      obtain ⟨q, hq, h1, h2⟩ := seizing hst
      cases hpe.symm.trans hq
      exact ⟨(by rintro rfl; cases hst.symm.trans h1), (Session.bond_eq_mate (m := .awaits)).mpr ⟨h1, h2⟩⟩
    | awaits =>
      obtain ⟨q, hq, h1, h2⟩ := waiting hst
      cases hpe.symm.trans hq
      exact ⟨(by rintro rfl; cases hst.symm.trans h1), (Session.bond_eq_mate (m := .seizes)).mpr ⟨h1, h2⟩⟩
  | ring =>
    refine ⟨fun d o h => ?_, fun o n h => ?_⟩
    · obtain ⟨hst, hpe⟩ := Session.bond_eq_rungBy.mp h
      obtain ⟨-, -, -, -, -, ringing, -⟩ := hp d
      obtain ⟨q, hq, h1⟩ := ringing hst
      cases hpe.symm.trans hq
      exact ⟨_, Session.bond_eq_rings.mpr ⟨(SState.rings_iff _).mpr h1, rfl⟩⟩
    · obtain ⟨hst, rfl⟩ := Session.bond_eq_rings.mp h
      obtain ⟨-, -, -, -, -, -, count⟩ := hp o
      obtain ⟨h1, l, hl, hlen, hm⟩ := count ((SState.rings_iff _).mp hst)
      exact ⟨h1, by rw [k.rungCount_bonds o l hl hm, hlen]⟩
  | hold =>
    intro c h
    obtain ⟨-, -, -, -, holds, -⟩ := hp c
    obtain ⟨-, -, -, held, -⟩ := hp h
    constructor
    · exact fun hc => Session.bond_eq_heldBy.mpr (holds h hc)
    · intro hc
      obtain ⟨hst, hby⟩ := Session.bond_eq_heldBy.mp hc
      obtain ⟨q, hq, h1⟩ := held hst
      cases hby.symm.trans hq
      exact h1
  | wait =>
    obtain ⟨hn, hm, hfree, -⟩ := hq
    exact ⟨hn, fun c => (hm c).trans Session.bond_eq_waits.symm, hfree⟩
  | collect =>
    intro r c
    refine (hq.2.2.2 r c).trans ⟨fun h => Session.bond_eq_collects.mpr ⟨?_, h⟩, fun h => (Session.bond_eq_collects.mp h).2⟩
    obtain ⟨-, -, -, -, -, receiver, -⟩ := hf c
    exact receiver (by simp [h])
  | camp => exact fun g => ⟨(hg.2 g).1, (hg.2 g).2.1, fun c => ((hg.2 g).2.2 c).trans Session.bond_eq_camps.symm⟩
  | confer => exact fun b => ⟨(hb.2 b).1, (hb.2 b).2.1, fun c => ((hb.2 b).2.2 c).trans Session.bond_eq_confers.symm⟩
  | broken =>
    intro c h
    obtain ⟨talk, seizing, waiting, held, -, ringing, -⟩ := hp c
    rcases Session.bond_eq_broken.mp h with ⟨hst, hn⟩ | ⟨hst, hn⟩ | ⟨hst, hn⟩ | ⟨hst, hn⟩
    · simp only [List.mem_cons, List.not_mem_nil, or_false] at hst
      rcases hst with hst | hst | hst | hst
      · obtain ⟨q, -, hq, -⟩ := talk hst; simp [hn] at hq
      · obtain ⟨q, hq, -⟩ := seizing hst; simp [hn] at hq
      · obtain ⟨q, hq, -⟩ := waiting hst; simp [hn] at hq
      · obtain ⟨q, hq, -⟩ := ringing hst; simp [hn] at hq
    · obtain ⟨q, hq, -⟩ := held hst; simp [hn] at hq
    · exact hg.1 c hst hn
    · exact hb.1 c hst hn

section

variable {k : Calls}

theorem Calls.Lawful.bound (h : k.Lawful) : k.Bound [] k.bonds := by
  obtain ⟨B, hB⟩ := h
  rwa [hB.eq_bonds] at hB

theorem Calls.Lawful.fits (h : k.Lawful) (c : Chan) : (k.ses c).fits := (h.bound.fits c (by simp)).1

theorem Calls.Lawful.web (h : k.Lawful) : Web k.bonds k.tables := h.bound.web

/-- A record's own field is set. -/
theorem Calls.Lawful.peer_of (h : k.Lawful) {c : Chan}
    (hs : (k.ses c).state ∈ [SState.talk, .seizing, .trunkwait, .ringing]) : ∃ p, (k.ses c).peer = some p := by
  refine Option.ne_none_iff_exists'.mp fun hn => ?_
  exact h.web .broken c (Session.bond_eq_broken.mpr (.inl ⟨hs, hn⟩))

/-- The partners of R12. -/
theorem Calls.Lawful.mate (h : k.Lawful) {c p : Chan} {m : Role} (hs : (k.ses c).state = m.state)
    (hp : (k.ses c).peer = some p) : p ≠ c ∧ (k.ses p).state = m.other.state ∧ (k.ses p).peer = some c := by
  obtain ⟨hne, hb⟩ := h.web .mate c m p (Session.bond_eq_mate.mpr ⟨hs, hp⟩)
  exact ⟨hne, Session.bond_eq_mate.mp hb⟩

/-- A party is held by the channel that holds it, and by no other. -/
theorem Calls.Lawful.holds_iff (h : k.Lawful) {c p : Chan} :
    (k.ses c).holds = some p ↔ (k.ses p).state = .held ∧ (k.ses p).heldBy = some c :=
  (h.web .hold c p).trans Session.bond_eq_heldBy

theorem Calls.Lawful.partnersLaw (h : k.Lawful) : k.partnersLaw := by
  intro c
  refine ⟨fun hs => ?_, fun hs => ?_, fun hs => ?_, fun hs => ?_, fun p hp => h.holds_iff.mp hp, fun hs => ?_, fun hs => ?_⟩
  · obtain ⟨p, hp⟩ := h.peer_of (c := c) (by simp [hs])
    obtain ⟨hne, h1, h2⟩ := h.mate (m := .talks) hs hp
    exact ⟨p, hne, hp, h1, h2⟩
  · obtain ⟨p, hp⟩ := h.peer_of (c := c) (by simp [hs])
    obtain ⟨-, h1, h2⟩ := h.mate (m := .seizes) hs hp
    exact ⟨p, hp, h1, h2⟩
  · obtain ⟨p, hp⟩ := h.peer_of (c := c) (by simp [hs])
    obtain ⟨-, h1, h2⟩ := h.mate (m := .awaits) hs hp
    exact ⟨p, hp, h1, h2⟩
  · have hn : (k.ses c).heldBy ≠ none := fun hn =>
      h.web .broken c (Session.bond_eq_broken.mpr (.inr (.inl ⟨hs, hn⟩)))
    obtain ⟨p, hp⟩ := Option.ne_none_iff_exists'.mp hn
    exact ⟨p, hp, h.holds_iff.mpr ⟨hs, hp⟩⟩
  · obtain ⟨o, ho⟩ := h.peer_of (c := c) (by simp [hs])
    obtain ⟨n, hn⟩ := (h.web .ring).1 c o (Session.bond_eq_rungBy.mpr ⟨hs, ho⟩)
    exact ⟨o, ho, (SState.rings_iff _).mp (Session.bond_eq_rings.mp hn).1⟩
  · obtain ⟨h1, h2⟩ := (h.web .ring).2 c _ (Session.bond_eq_rings.mpr ⟨(SState.rings_iff _).mpr hs, rfl⟩)
    refine ⟨h1, k.ringSet c, k.ringSet_nodup c, ?_, k.mem_ringSet_iff c⟩
    rw [h2, k.rungCount_bonds c _ (k.ringSet_nodup c) (k.mem_ringSet_iff c)]

theorem Calls.Lawful.poolLaw (h : k.Lawful) : k.poolLaw := by
  obtain ⟨hn, hm, hfree⟩ := h.web .wait
  refine ⟨hn, fun c => (hm c).trans Session.bond_eq_waits, hfree, fun r c => (h.web .collect r c).trans ?_⟩
  refine Session.bond_eq_collects.trans ⟨fun h => h.2, fun hr => ⟨?_, hr⟩⟩
  obtain ⟨-, -, -, -, -, receiver, -⟩ := h.fits c
  exact receiver (by simp [hr])

theorem Calls.Lawful.queuesLaw (h : k.Lawful) : k.queuesLaw := by
  refine ⟨fun c hs hn => h.web .broken c (Session.bond_eq_broken.mpr (.inr (.inr (.inl ⟨hs, hn⟩)))), fun g => ?_⟩
  obtain ⟨h1, h2, h3⟩ := h.web .camp g
  exact ⟨h1, h2, fun c => (h3 c).trans Session.bond_eq_camps⟩

theorem Calls.Lawful.bridgesLaw (h : k.Lawful) : k.bridgesLaw := by
  refine ⟨fun c hs hn => h.web .broken c (Session.bond_eq_broken.mpr (.inr (.inr (.inr ⟨hs, hn⟩)))), fun b => ?_⟩
  obtain ⟨h1, h2, h3⟩ := h.web .confer b
  exact ⟨h1, h2, fun c => (h3 c).trans Session.bond_eq_confers⟩

end

/-- The records of a state that keeps the laws of the spec are bound. -/
theorem State.lawful_of_laws {s : State} (hr : s.receiversLaw) (hg : s.groupsLaw) (h : s.recordsLaw) : s.calls.Lawful := by
  obtain ⟨fits, partners, pool, queues, bridges⟩ := h
  refine ⟨_, Calls.lawful_of_records fits partners pool queues bridges (fun r hn => ?_) fun g => ?_⟩
  · obtain ⟨free, offline, -⟩ := hr r
    cases hst : (s.calls.rx r).state <;> simp [hst, RxState.assigned] at hn
    · exact (free hst).2
    · exact (offline hst).2
  · obtain ⟨-, nodup, limit, -⟩ := hg g
    exact ⟨nodup, limit⟩

end Sys2Proof.Machine
end

section
/-! Channels placed: the operations that let a channel in transition enter a state, and leave the records lawful. -/

namespace Sys2Proof.Machine

open Function (update)

/-! ### Nothing the ties read -/

section

variable {k l : Calls} {c : Chan}

theorem Calls.Lawful.congr (h : k.Lawful) (hs : l.sessions = k.sessions) (hr : l.receivers = k.receivers)
    (hq : l.rxQueue = k.rxQueue) (hg : l.groups = k.groups) (hb : l.bridges = k.bridges) : l.Lawful :=
  ⟨_, h.bound.congr hs hr hq hg hb⟩

theorem Calls.Loose.congr (h : k.Loose c) (hs : l.sessions = k.sessions) (hr : l.receivers = k.receivers)
    (hq : l.rxQueue = k.rxQueue) (hg : l.groups = k.groups) (hb : l.bridges = k.bridges) : l.Loose c := by
  obtain ⟨⟨B, hB, hc⟩, hq'⟩ := h
  exact ⟨⟨B, hB.congr hs hr hq hg hb, hc⟩, by simpa [Calls.ses, hs] using hq'⟩

theorem Calls.Lawful.raise (h : k.Lawful) (e : Env) (n : Notice) (c : Chan) : (k.raise e n c).Lawful := by
  apply h.congr <;> simp

theorem Calls.Loose.raise (h : k.Loose c) (e : Env) (n : Notice) (d : Chan) : (k.raise e n d).Loose c := by
  apply h.congr <;> simp

theorem Calls.Lawful.setOut (h : k.Lawful) (c : Chan) (v : Levels) : (k.setOut c v).Lawful := h.congr rfl rfl rfl rfl rfl

theorem Calls.Lawful.setListen (h : k.Lawful) (c : Chan) (l : Listen) : (k.setListen c l).Lawful :=
  h.congr rfl rfl rfl rfl rfl

/-- A change of what the ties do not read at a channel in transition. -/
theorem Calls.Loose.alter (h : k.Loose c) {f : Session → Session} (hc : (f (k.ses c)).cls = (k.ses c).cls)
    (hh : (f (k.ses c)).holds = (k.ses c).holds)
    (hq : (f (k.ses c)).state.rings = true → (f (k.ses c)).ringCount = 0) : (k.alter c f).Loose c := by
  obtain ⟨⟨B, hB, hf⟩, -⟩ := h
  exact ⟨⟨B, hB.alter (by simp) hc hh, hf⟩, by simpa using hq⟩

/-- A change of what neither the ties nor the state's own fields read. -/
theorem Calls.Lawful.alter (h : k.Lawful) (c : Chan) {f : Session → Session} (hf : (f (k.ses c)).fits)
    (hb : (f (k.ses c)).bond = (k.ses c).bond) (hc : (f (k.ses c)).cls = (k.ses c).cls)
    (hh : (f (k.ses c)).holds = (k.ses c).holds) : (k.alter c f).Lawful :=
  ⟨_, h.bound.alter (fun _ => ⟨hf, hb⟩) hc hh⟩

end

/-! ### States that tie a channel to nothing -/

/-- A record that enters a plain state fits it. -/
theorem Session.fits_plain {r x : Session} {st : SState} (hp : st.plain = true)
    (hx : x = { r.moved st with timer := x.timer, toneKind := x.toneKind }) (hc : st ∈ r.cls.states)
    (hh : r.holds = none ∨ r.cls = .station ∧ st ≠ .blocked) : x.fits := by
  rw [hx]
  rcases hh with hh | ⟨hh, hb⟩ <;> cases st <;>
    simp_all [SState.plain, Session.fits, Session.moved, SState.hasPeer, SState.rings, SState.placing]

theorem SState.plain_mem_states {st : SState} (h : st = .idle ∨ st = .blocked) (c : ChanClass) : st ∈ c.states := by
  rcases h with rfl | rfl <;> cases c <;> simp [ChanClass.states]

section

variable {k : Calls} {c : Chan}

/-- A channel in a plain state may be taken into transition. -/
theorem Calls.Lawful.loose (h : k.Lawful) (hp : (k.ses c).state.plain = true) : k.Loose c := by
  refine ⟨⟨_, h.bound.loosen (by simp), Session.bond_eq_free.mpr hp⟩, fun hr => ?_⟩
  cases hs : (k.ses c).state <;> simp [hs, SState.plain, SState.rings] at hp hr

/-- A channel in transition that is tied to nothing settles in a plain state. -/
theorem Calls.Bound.settlePlain {cs : List Chan} {B : Chan → Bond} (h : k.Bound (c :: cs) B) (hfree : B c = .free)
    {st : SState} {f : Session → Session} (hp : st.plain = true)
    (hx : f ((k.ses c).moved st) = { (k.ses c).moved st with
      timer := (f ((k.ses c).moved st)).timer, toneKind := (f ((k.ses c).moved st)).toneKind })
    (hc : st ∈ (k.ses c).cls.states) (hh : (k.ses c).holds = none ∨ st ∈ [SState.hostwait, .toneout, .lockout]) :
    (k.enter c st f).Bound cs B := by
  refine h.enter (Session.fits_plain hp hx hc ?_) ?_ ?_
  · rcases hh with hh | hh
    · exact .inl hh
    · by_cases hn : (k.ses c).holds = none
      · exact .inl hn
      · exact .inr ⟨h.holder c hn, by rintro rfl; simp at hh⟩
  · rw [hfree, hx]
    exact Session.bond_eq_free.mpr hp
  · rw [hx]
    rcases hh with hh | hh
    · simp [Session.moved, hh]
    · simp only [List.mem_cons, List.not_mem_nil, or_false] at hh
      rcases hh with rfl | rfl | rfl <;> simp [Session.moved]

theorem Calls.Loose.settle (h : k.Loose c) {st : SState} {f : Session → Session} (hp : st.plain = true)
    (hx : f ((k.ses c).moved st) = { (k.ses c).moved st with
      timer := (f ((k.ses c).moved st)).timer, toneKind := (f ((k.ses c).moved st)).toneKind })
    (hc : st ∈ (k.ses c).cls.states) (hh : (k.ses c).holds = none ∨ st ∈ [SState.hostwait, .toneout, .lockout]) :
    (k.enter c st f).Lawful := by
  obtain ⟨⟨B, hB, hfree⟩, -⟩ := h
  exact ⟨B, hB.settlePlain hfree hp hx hc hh⟩

theorem Calls.Loose.toHostwait (h : k.Loose c) (hc : (k.ses c).cls ≠ .unused) : (k.toHostwait c).Lawful :=
  h.settle rfl rfl (by cases hs : (k.ses c).cls <;> simp_all [ChanClass.states]) (.inr (by simp))

theorem Calls.Loose.toLockout (h : k.Loose c) (hc : (k.ses c).cls = .station) : (k.toLockout c).Lawful :=
  h.settle rfl rfl (by simp [hc, ChanClass.states]) (.inr (by simp))

theorem Calls.Loose.toToneout (h : k.Loose c) (e : Env) (t : ToneOut) (hc : (k.ses c).cls = .station) :
    (k.toToneout e t c).Lawful :=
  h.settle rfl rfl (by simp [hc, ChanClass.states]) (.inr (by simp))

theorem Calls.Loose.toReleasing (h : k.Loose c) (e : Env) (hc : (k.ses c).cls ≠ .unused) (hh : (k.ses c).holds = none) :
    (k.toReleasing e c).Lawful :=
  h.settle rfl rfl (by cases hs : (k.ses c).cls <;> simp_all [ChanClass.states]) (.inl hh)

theorem Calls.Loose.toIdle (h : k.Loose c) (hh : (k.ses c).holds = none) : (k.toIdle c).Lawful :=
  h.settle rfl rfl (SState.plain_mem_states (.inl rfl) _) (.inl hh)

theorem Calls.Loose.toBlocked (h : k.Loose c) (hh : (k.ses c).holds = none) : (k.enter c .blocked id).Lawful :=
  h.settle rfl rfl (SState.plain_mem_states (.inr rfl) _) (.inl hh)

theorem Calls.Loose.busyOutcome (h : k.Loose c) (e : Env) (hc : (k.ses c).cls ≠ .unused) : (k.busyOutcome e c).Lawful := by
  unfold Calls.busyOutcome
  refine Calls.Lawful.raise ?_ ..
  split
  · exact h.toHostwait hc
  · next ht => exact h.toToneout e _ (by cases hs : (k.ses c).cls <;> simp_all)

/-- An IDLE or BLOCKED channel holds nobody. -/
theorem Session.fits.holds_none {r : Session} (h : r.fits) (hs : r.state.holder = false ∨ r.cls ≠ .station) :
    r.holds = none := by
  obtain ⟨-, -, -, holds, -⟩ := h
  by_contra hn
  obtain ⟨h1, h2⟩ := holds hn
  rcases hs with hs | hs
  · simp only [List.mem_cons, List.not_mem_nil, or_false] at h2
    rcases h2 with h2 | h2 | h2 | h2 | h2 | h2 | h2 | h2 | h2 <;> simp [h2, SState.holder] at hs
  · exact hs h1

end

/-! ### Ringing -/

/-- The record of an originator that begins to ring. -/
theorem Session.fits_ringing {r : Session} (hc : r.cls ≠ .unused) (hh : r.holds ≠ none → r.cls = .station) (t : Option Timer) :
    ({ r.moved (if r.cls = .trunk then .ringin else .outring) with
      ringCount := 1, phaseOn := true, cycles := 0, timer := t } : Session).fits := by
  cases hs : r.cls <;> simp_all [Session.fits, Session.moved, SState.hasPeer, SState.rings, SState.placing, ChanClass.states]

/-- The record of a station that is rung. -/
theorem Session.fits_rung {r : Session} (hc : r.cls = .station) (hh : r.holds = none) (o : Chan) :
    ({ r.moved .ringing with peer := some o } : Session).fits := by
  simp [Session.fits, Session.moved, SState.hasPeer, SState.rings, SState.placing, ChanClass.states, hc, hh]

/-- The record of a trunk that is seized. -/
theorem Session.fits_seizing {r : Session} (hc : r.cls = .trunk) (hh : r.holds = none) (o : Chan) (t : Option Timer) :
    ({ r.moved .seizing with peer := some o, timer := t } : Session).fits := by
  simp [Session.fits, Session.moved, SState.hasPeer, SState.rings, SState.placing, ChanClass.states, hc, hh]

/-- The record of a station that waits for its trunk. -/
theorem Session.fits_trunkwait {r : Session} (hc : r.cls = .station) (t : Chan) :
    ({ r.moved .trunkwait with peer := some t } : Session).fits := by
  simp [Session.fits, Session.moved, SState.hasPeer, SState.rings, SState.placing, ChanClass.states, hc]

/-- The record of a channel that camps on. -/
theorem Session.fits_queued {r : Session} (hc : r.cls ≠ .unused) (hh : r.holds ≠ none → r.cls = .station) (t : Option Timer) :
    ({ r.moved .queued with timer := t } : Session).fits := by
  cases hs : r.cls <;>
    simp_all [Session.fits, Session.moved, SState.hasPeer, SState.rings, SState.placing, ChanClass.states]

section

variable {k : Calls} {o d : Chan}

/-- A station is rung by an originator that rings nobody yet (R104). -/
theorem Calls.Loose.ring (h : k.Loose o) (e : Env) (hc : (k.ses o).cls ≠ .unused) (hd : (k.ses d).state = .idle)
    (hdc : (k.ses d).cls = .station) (hne : o ≠ d) : (k.ring e o d).Lawful := by
  obtain ⟨⟨B, hB, hfree⟩, hq⟩ := h
  obtain ⟨hdf, hdb⟩ := hB.fits d (by simpa using hne.symm)
  have hBd : B d = .free := hdb ▸ Session.bond_eq_free.mpr (by simp [hd, SState.plain])
  have hdh : (k.ses d).holds = none := hdf.holds_none (.inl (by simp [hd, SState.holder]))
  have hnot : ((k.ses o).state.rings && decide (0 < (k.ses o).ringCount)) = false := by
    cases hr : (k.ses o).state.rings
    · rfl
    · simp [hq hr]
  have h1 : k.Bound [o, d] (update (update B o (.rings 1)) d (.rungBy o)) :=
    (hB.loosen (by simp)).relink (hB.web.ringFirst hfree hBd hne) fun x hx => by
      simp only [List.mem_cons, List.not_mem_nil, or_false, not_or] at hx
      simp [hx.1, hx.2]
  unfold Calls.ring
  simp only [hnot, Bool.false_eq_true, if_false]
  refine Calls.Lawful.setOut ⟨_, Calls.Bound.enter (h1.enter ?_ ?_ ?_) ?_ ?_ ?_⟩ ..
  · exact Session.fits_ringing hc (hB.holder o) _
  · refine ((Session.bond_eq_rings (n := 1)).mpr ⟨?_, rfl⟩).trans (by simp [hne])
    dsimp only [Session.startTimer, Session.moved_state]
    split <;> rfl
  · dsimp only [Session.startTimer]
    split <;> simp [Session.moved]
  · rw [Calls.ses_enter_ne _ _ _ _ _ hne]
    exact Session.fits_rung hdc hdh o
  · rw [Session.bond_eq_rungBy.mpr ⟨rfl, rfl⟩]
    simp
  · rw [Calls.ses_enter_ne _ _ _ _ _ hne]
    simp [Session.moved]

/-- A further station is rung (R104). -/
theorem Calls.Lawful.ring (h : k.Lawful) (e : Env) (ho : (k.ses o).state.rings = true) (hd : (k.ses d).state = .idle)
    (hdc : (k.ses d).cls = .station) : (k.ring e o d).Lawful := by
  have hB := h.bound
  have hne : o ≠ d := by rintro rfl; simp [hd, SState.rings] at ho
  have hdh : (k.ses d).holds = none := (h.fits d).holds_none (.inl (by simp [hd, SState.holder]))
  have hBo : k.bonds o = .rings (k.ses o).ringCount := Session.bond_eq_rings.mpr ⟨ho, rfl⟩
  have hBd : k.bonds d = .free := Session.bond_eq_free.mpr (by simp [hd, SState.plain])
  have hpos : 0 < (k.ses o).ringCount := (hB.web.rings_pos hBo).1
  have h1 : k.Bound [o, d] (update (update k.bonds o (.rings ((k.ses o).ringCount + 1))) d (.rungBy o)) :=
    (hB.loosen (by simp)).relink (hB.web.ringMore hBo hBd) fun x hx => by
      simp only [List.mem_cons, List.not_mem_nil, or_false, not_or] at hx
      simp [hx.1, hx.2]
  unfold Calls.ring
  simp only [ho, hpos, decide_true, Bool.and_self, if_true]
  refine Calls.Lawful.setOut ⟨_, Calls.Bound.enter (h1.settle ?_ ?_ ?_) ?_ ?_ ?_⟩ ..
  · have := h.fits o
    cases hs : (k.ses o).state <;> simp_all [SState.rings, Session.fits]
  · refine Eq.trans (b := Bond.rings ((k.ses o).ringCount + 1)) ?_ (by simp [hne])
    exact Session.bond_eq_rings.mpr ⟨ho, rfl⟩
  · rfl
  · rw [Calls.ses_alter_ne _ _ _ _ hne]
    exact Session.fits_rung hdc hdh o
  · rw [Session.bond_eq_rungBy.mpr ⟨rfl, rfl⟩]
    simp
  · rw [Calls.ses_alter_ne _ _ _ _ hne]
    simp [Session.moved]

/-- What ringing a station leaves of the other records. -/
theorem Calls.ses_ring_ne (k : Calls) (e : Env) {x : Chan} (ho : x ≠ o) (hd : x ≠ d) : (k.ring e o d).ses x = k.ses x := by
  unfold Calls.ring
  dsimp only
  rw [Calls.ses_setOut, Calls.ses_enter_ne _ _ _ _ _ (Ne.symm hd)]
  split
  · exact Calls.ses_alter_ne _ _ _ _ (Ne.symm ho)
  · exact Calls.ses_enter_ne _ _ _ _ _ (Ne.symm ho)

/-- The originator rings when a station has been rung for it. -/
theorem Calls.ring_rings (k : Calls) (e : Env) (hne : o ≠ d) : ((k.ring e o d).ses o).state.rings = true := by
  unfold Calls.ring
  dsimp only
  rw [Calls.ses_setOut, Calls.ses_enter_ne _ _ _ _ _ (Ne.symm hne)]
  split
  · next h =>
    rw [Calls.ses_alter_self]
    simp only [Bool.and_eq_true] at h
    exact h.1
  · rw [Calls.ses_enter_self]
    dsimp only [Session.startTimer, Session.moved_state]
    split <;> rfl

/-- A list of idle stations is rung for an originator that rings already. -/
theorem Calls.Lawful.ringAll (h : k.Lawful) (e : Env) (ho : (k.ses o).state.rings = true) {ms : List Chan} (hn : ms.Nodup)
    (hm : ∀ m ∈ ms, m ≠ o ∧ (k.ses m).state = .idle ∧ (k.ses m).cls = .station) :
    (ms.foldl (fun k m => k.ring e o m) k).Lawful := by
  induction ms generalizing k with
  | nil => exact h
  | cons m ms ih =>
    rw [List.nodup_cons] at hn
    obtain ⟨hmo, hmi, hmc⟩ := hm m (by simp)
    refine ih (h.ring e ho hmi hmc) (k.ring_rings e (Ne.symm hmo)) hn.2 fun x hx => ?_
    obtain ⟨hxo, hxi, hxc⟩ := hm x (by simp [hx])
    rw [k.ses_ring_ne e hxo (by rintro rfl; exact hn.1 hx)]
    exact ⟨hxo, hxi, hxc⟩

/-! ### Trunks, queues and hunts -/

/-- The seizure of a trunk as its three updates. -/
theorem Calls.seizeTrunk_eq (e : Env) (o t : Chan) (k : Calls) : k.seizeTrunk e o t =
    ((k.enter t .seizing fun r =>
        { r with peer := some o }.startTimer .seizeWait (e.time Param.trunkSeizeWait)).setBatt t
      ((k.batt t).prepared e)).enter o .trunkwait fun r => { r with peer := some t } := rfl

/-- A trunk is seized (R110). -/
theorem Calls.Loose.seizeTrunk (h : k.Loose o) (e : Env) (hc : (k.ses o).cls = .station) (hd : (k.ses d).state = .idle)
    (hdc : (k.ses d).cls = .trunk) : (k.seizeTrunk e o d).Lawful := by
  obtain ⟨⟨B, hB, hfree⟩, -⟩ := h
  have hne : d ≠ o := by rintro rfl; simp [hc] at hdc
  obtain ⟨hdf, hdb⟩ := hB.fits d (by simpa using hne)
  have hBd : B d = .free := hdb ▸ Session.bond_eq_free.mpr (by simp [hd, SState.plain])
  have hdh : (k.ses d).holds = none := hdf.holds_none (.inl (by simp [hd, SState.holder]))
  have h1 : k.Bound [d, o] (update (update B d (.mate .seizes o)) o (.mate .awaits d)) :=
    (hB.loosen (by simp)).relink (hB.web.partner .seizes hBd hfree hne) fun x hx => by
      simp only [List.mem_cons, List.not_mem_nil, or_false, not_or] at hx
      simp [hx.1, hx.2]
  rw [Calls.seizeTrunk_eq]
  refine ⟨_, Calls.Bound.enter (Calls.Bound.setBatt (h1.enter ?_ ?_ ?_) ..) ?_ ?_ ?_⟩
  · exact Session.fits_seizing hdc hdh ..
  · exact ((Session.bond_eq_mate (m := .seizes)).mpr ⟨rfl, rfl⟩).trans (by simp [hne])
  · simp [Session.startTimer, Session.moved]
  · rw [Calls.ses_setBatt, Calls.ses_enter_ne _ _ _ _ _ hne]
    exact Session.fits_trunkwait hc d
  · exact ((Session.bond_eq_mate (m := .awaits)).mpr ⟨rfl, rfl⟩).trans (by simp)
  · rw [Calls.ses_setBatt, Calls.ses_enter_ne _ _ _ _ _ hne]
    simp [Session.moved]

/-- `o` joins a camp-on queue that is not full (R116). -/
theorem Calls.Loose.joinQueue (h : k.Loose o) {g : GroupIx} (hc : (k.ses o).cls ≠ .unused)
    (hg : (k.ses o).curGroup = some g) (hl : (k.group g).queue.length < (k.group g).queueLimit) :
    (k.joinQueue g o).Lawful := by
  obtain ⟨⟨B, hB, hfree⟩, -⟩ := h
  have h1 : (k.alterGroup g fun x => { x with queue := x.queue ++ [o] }).Bound [o] (update B o (.camps g)) := by
    refine hB.setGroups _ (fun f => ?_) ?_ fun x hx => ?_
    · rw [look_put]
      split
      · next e => subst e; exact ⟨rfl, rfl, rfl, rfl, rfl, rfl⟩
      · exact .refl _
    · have := hB.web.camp (g := g) hfree (lt_of_lt_of_le hl (hB.settings g).2)
      convert this using 2
      funext f
      rw [look_put, Function.update_apply]
      by_cases e : g = f
      · subst e; simp [Calls.tables]
      · simp [e, Ne.symm e, Calls.tables, Calls.group]
    · rw [Function.update_of_ne (by simpa using hx)]
  unfold Calls.joinQueue
  refine ⟨_, h1.enter ?_ ?_ ?_⟩
  · rw [Calls.ses_alterGroup]
    exact Session.fits_queued hc (hB.holder o) _
  · exact (Session.bond_eq_camps.mpr ⟨rfl, by simpa [Session.startTimer, Session.moved, SState.placing] using hg⟩).trans
      (by simp)
  · rw [Calls.ses_alterGroup]
    simp [Session.startTimer, Session.moved]

/-- Who is eligible (R98). -/
theorem Calls.eligible_iff {k : Calls} {method : Method} {o m : Chan} : k.eligible method o m = true ↔
    (k.ses m).cls ≠ .unused ∧ (k.ses m).state = .idle ∧ m ≠ o ∧
      ((k.ses m).cls = .trunk → method ≠ .all ∧ (k.ses o).cls ≠ .trunk) := by
  unfold Calls.eligible
  cases (k.ses m).cls <;> cases (k.ses o).cls <;> cases method <;> simp

/-- An originator is placed on an eligible member (R99, R104, R110). -/
theorem Calls.Loose.placeOn (h : k.Loose o) (e : Env) {method : Method} (hc : (k.ses o).cls ≠ .unused)
    (hm : k.eligible method o d = true) : (k.placeOn e o d).Lawful := by
  obtain ⟨hu, hi, hne, ht⟩ := Calls.eligible_iff.mp hm
  unfold Calls.placeOn
  split
  · next htr =>
    refine h.seizeTrunk e ?_ hi htr
    have := (ht htr).2
    cases hs : (k.ses o).cls <;> simp_all
  · next htr =>
    refine h.ring e hc hi ?_ hne.symm
    cases hs : (k.ses d).cls <;> simp_all

/-- Groups that differ in their positions alone. -/
theorem Calls.Loose.alterGroup (h : k.Loose o) (g : GroupIx) {f : Group → Group} (hf : ∀ x, Group.Alike x (f x))
    (hq : ∀ x, (f x).queue = x.queue) : (k.alterGroup g f).Loose o := by
  obtain ⟨⟨B, hB, hfree⟩, hr⟩ := h
  refine ⟨⟨B, hB.setGroups _ (fun i => ?_) ?_ fun _ _ => rfl, hfree⟩, hr⟩
  · rw [look_put]
    split
    · next e => subst e; exact hf _
    · exact .refl _
  · have ht : ∀ i, (look (put k.groups g (f (k.group g))) i).queue = (k.group i).queue := fun i => by
      rw [look_put]
      split
      · next e => subst e; exact hq _
      · rfl
    simp only [ht]
    exact hB.web

/-- Every eligible member of a list is rung (R101). -/
theorem Calls.Loose.ringAll (h : k.Loose o) (e : Env) (hc : (k.ses o).cls ≠ .unused) {m : Chan} {ms : List Chan}
    (hn : (m :: ms).Nodup) (hm : ∀ x ∈ m :: ms, k.eligible .all o x = true) :
    ((m :: ms).foldl (fun k x => k.ring e o x) k).Lawful := by
  have hs : ∀ x ∈ m :: ms, x ≠ o ∧ (k.ses x).state = .idle ∧ (k.ses x).cls = .station := fun x hx => by
    obtain ⟨hu, hi, hne, ht⟩ := Calls.eligible_iff.mp (hm x hx)
    exact ⟨hne, hi, by cases hs : (k.ses x).cls <;> simp_all⟩
  obtain ⟨hmo, hmi, hmc⟩ := hs m (by simp)
  rw [List.nodup_cons] at hn
  refine (h.ring e hc hmi hmc hmo.symm).ringAll e (k.ring_rings e hmo.symm) hn.2 fun x hx => ?_
  obtain ⟨hxo, hxi, hxc⟩ := hs x (by simp [hx])
  rw [k.ses_ring_ne e hxo (by rintro rfl; exact hn.1 hx)]
  exact ⟨hxo, hxi, hxc⟩

/-- What a hunt chooses, it is placed on (R100, R101). -/
theorem Calls.Loose.choose (h : k.Loose o) (e : Env) {g : GroupIx} {l : List Chan} {k' : Calls}
    (hc : (k.ses o).cls ≠ .unused) (hl : l.Nodup) (hk : k.choose e g o l = some k') : k'.Lawful := by
  unfold Calls.choose at hk
  split at hk
  · obtain ⟨m, hm, rfl⟩ := Option.map_eq_some_iff.mp hk
    exact h.placeOn e hc (List.find?_some hm)
  · obtain ⟨m, hm, rfl⟩ := Option.map_eq_some_iff.mp hk
    refine (h.alterGroup g (f := fun x => { x with position := x.members.idxOf m }) (fun x => ?_)
      fun x => rfl).placeOn e (method := .circular) hc ?_
    · exact ⟨rfl, rfl, rfl, rfl, rfl, rfl⟩
    · have := List.find?_some hm
      rwa [Calls.eligible_iff] at this ⊢
  · split at hk
    · cases hk
    · next hms _ =>
      cases hk
      cases hf : l.filter (k.eligible .all o) with
      | nil => contradiction
      | cons m ms =>
        refine h.ringAll e hc (hf ▸ hl.filter _) fun x hx => ?_
        rw [← hf] at hx
        exact (List.mem_filter.mp hx).2

theorem Group.searchOrder_nodup {x : Group} (h : x.members.Nodup) : x.searchOrder.Nodup := by
  unfold Group.searchOrder
  split
  · exact h
  · exact h
  · have hp : (x.members.drop ((x.position + 1) % x.members.length) ++
        x.members.take ((x.position + 1) % x.members.length)).Perm x.members := by
      conv_rhs => rw [← List.take_append_drop ((x.position + 1) % x.members.length) x.members]
      exact List.perm_append_comm
    exact hp.nodup_iff.mpr h

theorem Group.searchAfter_nodup {x : Group} (h : x.members.Nodup) (t : Chan) : (x.searchAfter t).Nodup := by
  unfold Group.searchAfter
  split
  · split
    · exact h.sublist (List.drop_sublist ..)
    · exact h
  · exact Group.searchOrder_nodup h
  · exact Group.searchOrder_nodup h

theorem Calls.Loose.members_nodup (h : k.Loose o) (g : GroupIx) : (k.group g).members.Nodup := by
  obtain ⟨⟨B, hB, -⟩, -⟩ := h
  exact (hB.settings g).1

theorem Calls.onward_queue {g : GroupIx} (h : k.onward g o = .queue) :
    (k.group g).queue.length < (k.group g).queueLimit := by
  unfold Calls.onward at h
  split at h
  · next hq => simp at hq; exact hq.2
  · unfold Calls.overflowStep at h
    split at h <;> cases h

/-- A hunt, with its overflow chain, ends lawfully (R99 to R103). -/
theorem Calls.Loose.hunt (h : k.Loose o) (e : Env) (n : Nat) (g : GroupIx) (hc : (k.ses o).cls ≠ .unused) :
    (k.hunt e n g o).Lawful := by
  induction n generalizing g k with
  | zero => exact h.busyOutcome e hc
  | succ n ih =>
    have h1 : (k.markGroup g o).Loose o := h.alter rfl rfl h.quiet
    have hc1 : ((k.markGroup g o).ses o).cls ≠ .unused := by simpa [Calls.markGroup] using hc
    unfold Calls.hunt
    dsimp only
    split
    · next hk => exact h1.choose e hc1 (Group.searchOrder_nodup (h1.members_nodup g)) hk
    · split
      · next hq => exact h1.joinQueue hc1 (by simp [Calls.markGroup]) (Calls.onward_queue hq)
      · exact ih h1 _ hc1
      · exact h1.busyOutcome e hc1

theorem Calls.Loose.newAttempt (h : k.Loose o) : (k.newAttempt o).Loose o := h.alter rfl rfl h.quiet

theorem Calls.newAttempt_cls (k : Calls) (o d : Chan) : ((k.newAttempt o).ses d).cls = (k.ses d).cls := by
  unfold Calls.newAttempt
  rw [Calls.ses_alter]
  split <;> rfl

theorem Calls.newAttempt_state (k : Calls) (o d : Chan) : ((k.newAttempt o).ses d).state = (k.ses d).state := by
  unfold Calls.newAttempt
  rw [Calls.ses_alter]
  split <;> rfl

theorem Calls.Loose.huntFresh (h : k.Loose o) (e : Env) (g : GroupIx) (hc : (k.ses o).cls ≠ .unused) :
    (k.huntFresh e g o).Lawful := h.newAttempt.hunt e _ g (by rwa [Calls.newAttempt_cls])

/-- A direct placement (R105). -/
theorem Calls.Loose.placeDirect (h : k.Loose o) (e : Env) (hc : (k.ses o).cls ≠ .unused) (hne : o ≠ d) :
    (k.placeDirect e o d).Lawful := by
  have hc1 : ((k.newAttempt o).ses o).cls ≠ .unused := by rwa [Calls.newAttempt_cls]
  unfold Calls.placeDirect
  dsimp only
  split
  · next hi hs =>
    exact h.newAttempt.ring e hc1 (by rwa [Calls.newAttempt_state]) (by rwa [Calls.newAttempt_cls]) hne
  · next hi hs =>
    split
    · exact h.newAttempt.busyOutcome e hc1
    · next ht =>
      refine h.newAttempt.seizeTrunk e ?_ (by rwa [Calls.newAttempt_state]) (by rwa [Calls.newAttempt_cls])
      rw [Calls.newAttempt_cls]
      cases hs : (k.ses o).cls <;> simp_all
  · exact h.newAttempt.busyOutcome e hc1

/-- An incoming call on an idle trunk (R114). -/
theorem Calls.Loose.incomingCall (h : k.Loose o) (e : Env) (hc : (k.ses o).cls ≠ .unused) :
    (k.incomingCall e o).Lawful := by
  have h1 := h.raise e .ringin o
  have hc1 : ((k.raise e .ringin o).ses o).cls ≠ .unused := by simpa using hc
  unfold Calls.incomingCall
  dsimp only
  split
  · exact h1.toHostwait hc1
  · exact h1.huntFresh e _ hc1

end

/-! ### Dialling -/

/-- The record of a station that collects. -/
theorem Session.fits_collecting {r : Session} (hc : r.cls = .station) (x : Option RxIx) (t : Option Timer) :
    ({ r.moved .collecting with receiver := x, timer := t } : Session).fits := by
  simp [Session.fits, Session.moved, SState.hasPeer, SState.rings, SState.placing, ChanClass.states, hc]

/-- The record of a station that waits for a receiver. -/
theorem Session.fits_seized {r : Session} (hc : r.cls = .station) (t : Option Timer) :
    ({ r.moved .seized with timer := t } : Session).fits := by
  simp [Session.fits, Session.moved, SState.hasPeer, SState.rings, SState.placing, ChanClass.states, hc]

section

variable {k : Calls} {c : Chan}

/-- A channel in transition whose tie is a collection enters it (R68). -/
theorem Calls.Bound.startCollecting {cs : List Chan} {B : Chan → Bond} (h : k.Bound (c :: cs) B) (e : Env)
    (x : Option RxIx) (hc : (k.ses c).cls = .station) (hB : B c = .collects x) : (k.startCollecting e c x).Bound cs B :=
  h.enter (Session.fits_collecting hc x _) ((Session.bond_eq_collects.mpr ⟨rfl, rfl⟩).trans hB.symm)
    (by simp [Session.startTimer, Session.moved])

/-- A receiver that is nobody's is lent (R54, R58). -/
theorem Calls.Loose.lend (h : k.Loose c) (e : Env) {r : RxIx} (hc : (k.ses c).cls = .station)
    (hr : (k.rx r).assigned = none) : (k.lend e r c).Lawful := by
  obtain ⟨⟨B, hB, hfree⟩, -⟩ := h
  have h1 : (k.setRx r ((k.rx r).lentTo c)).Bound [c] (update B c (.collects (some r))) :=
    hB.setRx r _ (by simp [Receiver.lentTo, RxState.assigned]) (hB.web.lend hfree hr rfl (by simp [Receiver.lentTo]))
      fun d hd => Function.update_of_ne (by simpa using hd) ..
  exact ⟨_, h1.startCollecting e (some r) hc (by simp)⟩

/-- A station begins to dial (R14, R54). -/
theorem Calls.Loose.startDialling (h : k.Loose c) (e : Env) (hc : (k.ses c).cls = .station) :
    (k.startDialling e c).Lawful := by
  have request : (k.requestReceiver e c).Lawful := by
    unfold Calls.requestReceiver
    split
    · next r hr =>
      refine h.lend e hc ?_
      obtain ⟨⟨B, hB, -⟩, -⟩ := h
      exact hB.spare r (by simp [Calls.lowestFree_state hr, RxState.assigned])
    · next hn =>
      obtain ⟨⟨B, hB, hfree⟩, -⟩ := h
      have hnf : ∀ r, (k.rx r).state ≠ .free := fun r hr => by
        unfold Calls.lowestFree at hn
        rw [List.find?_eq_none] at hn
        exact hn r (by simp [allReceivers]) (by simpa using hr)
      have h1 : Calls.Bound { k with rxQueue := k.rxQueue ++ [c] } [c] (update B c .waits) :=
        hB.setQueue _ (hB.web.wait hfree hnf) fun d hd => Function.update_of_ne (by simpa using hd) ..
      exact ⟨_, h1.enter (Session.fits_seized hc _) ((Session.bond_eq_waits.mpr rfl).trans (by simp))
        (by simp [Session.startTimer, Session.moved, Calls.ses])⟩
  unfold Calls.startDialling
  split
  · obtain ⟨⟨B, hB, hfree⟩, -⟩ := h
    have h1 : k.Bound [c] (update B c (.collects none)) :=
      hB.relink (hB.web.collectAlone (.inl hfree) (.inr rfl)) fun d hd => Function.update_of_ne (by simpa using hd) ..
    exact ⟨_, h1.startCollecting e none hc (by simp)⟩
  · exact request
  · exact request

/-- A station is seized (R14). -/
theorem Calls.Loose.seizure (h : k.Loose c) (e : Env) (hc : (k.ses c).cls = .station) : (k.seizure e c).Lawful :=
  (h.raise e .seize c).startDialling e (by simpa using hc)

end

/-! ### Entering IDLE -/

section

variable {k : Calls} {c : Chan}

theorem Calls.Lawful.lineCheck (h : k.Lawful) (e : Env) (hi : (k.ses c).state = .idle) : (k.lineCheck e c).Lawful := by
  have hl : k.Loose c := h.loose (by simp [hi, SState.plain])
  unfold Calls.lineCheck
  split
  · next hc =>
    split
    · exact hl.seizure e hc
    · exact hl.seizure e hc
    · exact h
    · exact h
  · next hc =>
    split
    · exact hl.incomingCall e (by simp [hc])
    · exact h
  · exact h

/-- The head of a camp-on queue leaves it. -/
theorem Calls.Lawful.leaveHead (h : k.Lawful) {g : GroupIx} {x : Chan} {q : List Chan} {f : Group → Group}
    (hq : (k.group g).queue = x :: q) (hf : Group.Alike (k.group g) (f (k.group g)))
    (hfq : (f (k.group g)).queue = q) : (k.alterGroup g f).Loose x := by
  have hB := h.bound
  have hx : k.bonds x = .camps g := ((h.web .camp g).2.2 x).mp (by simp [Calls.tables, hq])
  refine ⟨⟨update k.bonds x .free, Calls.Bound.setGroups (hB.loosen (by simp)) _ (fun i => ?_) ?_ fun d hd => ?_, by simp⟩, ?_⟩
  · rw [look_put]
    split
    · next e => subst e; exact hf
    · exact .refl _
  · have := h.web.uncampHead (T := k.tables) (g := g) (c := x) (q := q) hq
    convert this using 2
    funext i
    rw [look_put, Function.update_apply]
    by_cases e : g = i
    · subst e; simp [hfq]
    · simp [e, Ne.symm e, Calls.tables, Calls.group]
  · rw [Function.update_of_ne (by simpa using hd)]
  · intro hr
    have := (Session.bond_eq_camps.mp hx).1
    simp [this, SState.rings] at hr

theorem Calls.Lawful.freePath (h : k.Lawful) (e : Env) (c : Chan) : (k.freePath e c).Lawful := by
  unfold Calls.freePath
  split
  · next g hg =>
    have hs := List.find?_some hg
    unfold Calls.queueServes at hs
    unfold Calls.serveQueue
    split
    · next x q hq =>
      simp only [hq, Bool.and_eq_true] at hs
      have hx : k.bonds x = .camps g := ((h.web .camp g).2.2 x).mp (by simp [Calls.tables, hq])
      have hxu : (k.ses x).cls ≠ .unused := fun hu => by
        have := (h.fits x).1
        simp [hu, (Session.bond_eq_camps.mp hx).1, ChanClass.states] at this
      refine (h.leaveHead hq ⟨rfl, rfl, rfl, rfl, rfl, rfl⟩ rfl).placeOn e (method := (k.group g).method) hxu ?_
      rw [Calls.eligible_iff] at hs ⊢
      exact hs.2
    · exact h
  · exact h

theorem Calls.Lawful.afterIdle (h : k.Lawful) (e : Env) (c : Chan) : (k.afterIdle e c).Lawful := by
  unfold Calls.afterIdle
  split
  · next hi =>
    dsimp only
    split
    · exact (h.lineCheck e hi).freePath e c
    · exact h.lineCheck e hi
  · exact h

/-- Stages 2 and 3 of R27 leave lawful records lawful. -/
theorem Calls.Lawful.idleStages (h : k.Lawful) (e : Env) (cs : List Chan) : (k.idleStages e cs).Lawful := by
  unfold Calls.idleStages
  split
  · induction cs generalizing k with
    | nil => exact h
    | cons c cs ih => exact ih (h.afterIdle e c)
  · exact h

end

end Sys2Proof.Machine
end

section
/-! A state given up (R11, R20): whatever the state held is let go, each linked party takes its new state, and nothing is
tied to the channel any more. -/

namespace Sys2Proof.Machine

open Function (update)

/-! ### Rules -/

/-- A move changes no class. -/
theorem Move.cls {k l : Calls} (h : Move k l) (c : Chan) : (l.ses c).cls = (k.ses c).cls := by
  cases h with
  | enter d st f hf =>
    rw [Calls.ses_enter]
    split
    · next e => subst e; exact hf.cls
    · rfl
  | fields d f hf =>
    rw [Calls.ses_alter]
    split
    · next e => subst e; exact hf.cls
    · rfl
  | append d x =>
    rw [Calls.ses_alter]
    split
    · next e => subst e; rfl
    · rfl
  | raise e n d => rw [Calls.ses_raise]
  | _ => rfl

/-! What a change of state leaves of the other records. -/

@[simp] theorem Calls.ses_toReleasing_ne (k : Calls) (e : Env) {c d : Chan} (h : c ≠ d) :
    (k.toReleasing e c).ses d = k.ses d := Calls.ses_enter_ne _ _ _ _ _ h

@[simp] theorem Calls.ses_toToneout_ne (k : Calls) (e : Env) (t : ToneOut) {c d : Chan} (h : c ≠ d) :
    (k.toToneout e t c).ses d = k.ses d := Calls.ses_enter_ne _ _ _ _ _ h

@[simp] theorem Calls.ses_toIdle_ne (k : Calls) {c d : Chan} (h : c ≠ d) : (k.toIdle c).ses d = k.ses d :=
  Calls.ses_enter_ne _ _ _ _ _ h

@[simp] theorem Calls.ses_pair_ne (k : Calls) {a b d : Chan} (ha : a ≠ d) (hb : b ≠ d) : (k.pair a b).ses d = k.ses d :=
  (Calls.ses_enter_ne _ _ _ _ _ hb).trans (Calls.ses_enter_ne _ _ _ _ _ ha)

theorem Reach.cls {k l : Calls} (h : Reach k l) (c : Chan) : (l.ses c).cls = (k.ses c).cls := by
  induction h with
  | refl => rfl
  | step _ last ih => exact (last.cls c).trans ih

/-- A session in a state that is neither IDLE nor BLOCKED has a class. -/
theorem Session.fits.used {r : Session} (h : r.fits) (hs : r.state ≠ .idle ∧ r.state ≠ .blocked) : r.cls ≠ .unused := by
  intro hu
  have := h.1
  simp [hu, ChanClass.states, hs] at this

/-- A record whose state only a station can have is a station's. -/
theorem Session.fits.station {r : Session} (h : r.fits)
    (hs : r.state ∈ [SState.seized, .collecting, .outring, .trunkwait, .ringing, .toneout, .lockout]) : r.cls = .station := by
  have := h.1
  simp only [List.mem_cons, List.not_mem_nil, or_false] at hs
  rcases hs with hs | hs | hs | hs | hs | hs | hs <;> cases hc : r.cls <;> simp_all [ChanClass.states]

theorem Session.fits.trunk {r : Session} (h : r.fits) (hs : r.state ∈ [SState.seizing, .ringin]) : r.cls = .trunk := by
  have := h.1
  simp only [List.mem_cons, List.not_mem_nil, or_false] at hs
  rcases hs with hs | hs <;> cases hc : r.cls <;> simp_all [ChanClass.states]

section

variable {k : Calls} {c : Chan} {cs : List Chan} {B B' : Chan → Bond}

/-- A channel whose record has its tie leaves the transition. -/
theorem Calls.Bound.tighten (h : k.Bound (c :: cs) B) (hf : (k.ses c).fits) (hb : (k.ses c).bond = B c) : k.Bound cs B := by
  refine ⟨fun d hd => ?_, h.holder, h.web, h.spare, h.settings⟩
  by_cases e : d = c
  · subst e; exact ⟨hf, hb⟩
  · exact h.fits d (by simp [hd, e])

/-- A channel that stays in transition enters a state. -/
theorem Calls.Bound.enterAhead (h : k.Bound cs B) (hc : c ∈ cs) {st : SState} {f : Session → Session}
    (hs : (f ((k.ses c).moved st)).cls = (k.ses c).cls) (hh : (f ((k.ses c).moved st)).holds = (k.ses c).holds) :
    (k.enter c st f).Bound cs B := by
  refine (h.loosen (ds := c :: cs) (by simp +contextual)).write (x := f ((k.ses c).moved st)) (fun d => ?_) rfl rfl rfl rfl
    (fun hn => absurd hc hn) (fun hn => hs ▸ h.holder c (hh ▸ hn)) hh
  rw [Calls.ses_enter]
  split
  · next e => rw [e]
  · rfl

/-- The record of a party in TALK. -/
theorem Session.fits_talk {r : Session} (hc : r.cls ≠ .unused) (hh : r.holds ≠ none → r.cls = .station) (p : Chan) :
    ({ r.moved .talk with peer := some p } : Session).fits := by
  cases hs : r.cls <;>
    simp_all [Session.fits, Session.moved, SState.hasPeer, SState.rings, SState.placing, ChanClass.states]

/-- Two channels in transition become partners in TALK (R12). -/
theorem Calls.Bound.pair {a b : Chan} (h : k.Bound (a :: b :: cs) B) (ha : B a = .free) (hb : B b = .free) (hne : a ≠ b)
    (hca : (k.ses a).cls ≠ .unused) (hcb : (k.ses b).cls ≠ .unused) :
    (k.pair a b).Bound cs (update (update B a (.mate .talks b)) b (.mate .talks a)) := by
  have h1 : k.Bound (a :: b :: cs) (update (update B a (.mate .talks b)) b (.mate .talks a)) :=
    h.relink (h.web.partner .talks ha hb hne) fun x hx => by
      simp only [List.mem_cons, not_or] at hx
      simp [hx.1, hx.2.1]
  unfold Calls.pair Calls.toTalk
  refine Calls.Bound.enter (Calls.Bound.enter h1 ?_ ?_ ?_) ?_ ?_ ?_
  · exact Session.fits_talk hca (h.holder a) b
  · exact ((Session.bond_eq_mate (m := .talks)).mpr ⟨rfl, rfl⟩).trans (by simp [hne])
  · simp [Session.moved]
  · rw [Calls.ses_enter_ne _ _ _ _ _ hne]
    exact Session.fits_talk hcb (h.holder b) a
  · exact ((Session.bond_eq_mate (m := .talks)).mpr ⟨rfl, rfl⟩).trans (by simp)
  · rw [Calls.ses_enter_ne _ _ _ _ _ hne]
    simp [Session.moved]

/-- Stations in transition that are tied to nothing and hold nobody are cleared to IDLE. -/
theorem Calls.Bound.foldIdle {l : List Chan} (h : k.Bound (l ++ cs) B) (hl : ∀ d ∈ l, B d = .free ∧ (k.ses d).holds = none) :
    (l.foldl (fun k d => k.toIdle d) k).Bound cs B := by
  induction l generalizing k with
  | nil => exact h
  | cons d l ih =>
    obtain ⟨hf, hh⟩ := hl d (by simp)
    refine ih (Calls.Bound.settlePlain (cs := l ++ cs) h hf rfl rfl (SState.plain_mem_states (.inl rfl) _) (.inl hh))
      fun x hx => ⟨(hl x (by simp [hx])).1, ?_⟩
    show ((k.enter d .idle id).ses x).holds = none
    rw [Calls.ses_enter]
    split
    · simp [Session.moved]
    · exact (hl x (by simp [hx])).2

/-- `c` has given up what its state held in `k`, which leaves `l`: nothing is tied to it but the party it holds. -/
structure Calls.GivenUp (c : Chan) (k l : Calls) : Prop where
  loose : l.Loose c
  holds : (l.ses c).holds = (k.ses c).holds

/-- A record of no ringing originator, unchanged but for its links, keeps no ringing count. -/
theorem Calls.Bound.givenUp {l : Calls} (h : l.Bound [c] B) (hB : B c = .free) (hr : (k.ses c).state.rings = false)
    (hs : (l.ses c).state = (k.ses c).state) (hh : (l.ses c).holds = (k.ses c).holds) : k.GivenUp c l :=
  ⟨⟨⟨B, h, hB⟩, fun hn => by simp [hs, hr] at hn⟩, hh⟩

/-! ### Receivers -/

/-- A returned receiver goes to the head of the wait queue, becomes FREE, or goes out of service (R57, R58). -/
theorem Calls.Bound.returnReceiver {r : RxIx} (h : (k.setRx r .retired).Bound cs B) (hcs : ∀ d ∈ cs, B d ≠ .waits) (e : Env) :
    ∃ B', (k.returnReceiver e r).Bound cs B' ∧ ∀ d ∈ cs, B' d = B d := by
  unfold Calls.returnReceiver
  split
  · exact ⟨B, h, fun _ _ => rfl⟩
  · exact ⟨B, h, fun _ _ => rfl⟩
  split
  · next x q hq =>
    have hx : B x = .waits := ((h.web .wait).2.1 x).mp (by simp [Calls.tables, hq])
    have hxc : x ∉ cs := fun hc => hcs x hc hx
    obtain ⟨hxf, hxb⟩ := h.fits x hxc
    have hxw : (k.ses x).state = .seized := Session.bond_eq_waits.mp (hxb.trans hx)
    have hxs : (k.ses x).cls = .station := Session.fits.station hxf (by simp [hxw])
    have w1 : Web (update B x .free) { (k.setRx r .retired).tables with queue := q } := h.web.unwaitHead hq
    have h1 : Calls.Bound { (k.setRx r .retired) with rxQueue := q } (x :: cs) (update B x .free) :=
      Calls.Bound.setQueue (h.loosen (ds := x :: cs) (by simp +contextual)) q w1 fun d hd => Function.update_of_ne (List.ne_of_not_mem_cons hd) ..
    have w2 := h1.web.lend (c := x) (r := r) (x := (k.rx r).lentTo x) (by simp) (by simp [Calls.tables, Calls.rx, Calls.setRx, Receiver.retired]) rfl
      (by simp [Receiver.lentTo])
    have h2 := h1.setRx r ((k.rx r).lentTo x) (by simp [Receiver.lentTo, RxState.assigned]) w2 fun d hd =>
      Function.update_of_ne (List.ne_of_not_mem_cons hd) ..
    have h3 := h2.startCollecting e (some r) hxs (by simp)
    refine ⟨update (update B x .free) x (.collects (some r)), ?_, fun d hd => ?_⟩
    · convert h3 using 2
      simp [Calls.lend, Calls.setRx, Calls.rx]
    · have : d ≠ x := by rintro rfl; exact hxc hd
      simp [this]
  · next hq =>
    have w := h.web.rx (f := update (k.setRx r .retired).rx r .freed) (fun q => by
      by_cases e : q = r <;> simp [e, Calls.tables, Receiver.freed, Receiver.retired]) (fun hn => absurd hq hn)
    have := h.setRx r .freed (fun _ => rfl) w fun _ _ => rfl
    refine ⟨B, ?_, fun _ _ => rfl⟩
    convert this using 1
    simp [Calls.setRx]

/-- A collection is given up: its receiver, if it has one, is returned (R11, R57). -/
theorem Calls.Lawful.giveUpCollecting (h : k.Lawful) (e : Env) (hs : (k.ses c).state = .collecting) :
    k.GivenUp c (k.giveUp e c) := by
  have hc : k.bonds c = .collects (k.ses c).receiver := Session.bond_eq_collects.mpr ⟨hs, rfl⟩
  have hr : (k.ses c).state.rings = false := by simp [hs, SState.rings]
  unfold Calls.giveUp
  simp only [hs]
  split
  · next r hx =>
    rw [hx] at hc
    have h1 : (k.alter c fun x => { x with receiver := none }).Bound [c] k.bonds :=
      (h.bound.loosen (by simp)).alter (by simp) rfl rfl
    have h2 := h1.setRx r .retired (fun _ => rfl) (h1.web.unlend hc rfl (by simp [Receiver.retired])) fun d hd =>
      Function.update_of_ne (by simpa using hd) ..
    obtain ⟨B', h3, hB'⟩ := h2.returnReceiver (by simp) e
    have hnq : c ∉ k.rxQueue := fun hm => by cases hc.symm.trans (((h.web .wait).2.1 c).mp hm)
    obtain ⟨⟨hses, -⟩, -⟩ := Calls.sameAt_returnReceiver e r c (k.alter c fun x => { x with receiver := none }) hnq
    refine h3.givenUp ((hB' c (by simp)).trans (by simp)) hr ?_ ?_
    · rw [hses, Calls.ses_alter_self]
    · rw [hses, Calls.ses_alter_self]
  · next hx =>
    rw [hx] at hc
    have h1 := (h.bound.loosen (ds := [c]) (by simp)).relink (h.web.collectAlone (.inr hc) (.inl rfl)) fun d hd =>
      Function.update_of_ne (by simpa using hd) ..
    exact h1.givenUp (by simp) hr rfl rfl

/-! ### Partners -/

/-- What a channel that is a party of a two-party link lets go: the link, with its partner left in transition. -/
theorem Calls.Lawful.parted (h : k.Lawful) {p : Chan} {m : Role} (hs : (k.ses c).state = m.state)
    (hp : (k.ses c).peer = some p) :
    p ≠ c ∧ ∃ B, (k.alter c fun x => { x with peer := none }).Bound [p, c] B ∧ B c = .free ∧ B p = .free := by
  have hc : k.bonds c = .mate m p := Session.bond_eq_mate.mpr ⟨hs, hp⟩
  have hne : p ≠ c := (h.web .mate c m p hc).1
  refine ⟨hne, update (update k.bonds c .free) p .free, ?_, by simp [hne.symm], by simp⟩
  have h1 : k.Bound [p, c] (update (update k.bonds c .free) p .free) :=
    (h.bound.loosen (by simp)).relink (h.web.part hc) fun d hd => by
      simp only [List.mem_cons, List.not_mem_nil, or_false, not_or] at hd
      simp [hd.1, hd.2]
  exact h1.alter (fun hn => absurd (by simp) hn) rfl rfl

/-- The party whose partner has gone (R20). -/
theorem Calls.Bound.dropPartner {p : Chan} (h : k.Bound (p :: cs) B) (hB : B p = .free) (hc : (k.ses p).cls ≠ .unused)
    (e : Env) : (k.dropPartner e p).Bound cs B := by
  unfold Calls.dropPartner
  split
  · next ht =>
    refine h.settlePlain hB rfl rfl (by simp [ht, ChanClass.states]) (.inl ?_)
    by_contra hn
    exact absurd (h.holder p hn) (by simp [ht])
  · next ht =>
    exact h.settlePlain hB rfl rfl (by cases hs : (k.ses p).cls <;> simp_all [ChanClass.states]) (.inr (by simp))

theorem Calls.ses_dropPartner_ne (k : Calls) (e : Env) {p d : Chan} (h : p ≠ d) : (k.dropPartner e p).ses d = k.ses d := by
  unfold Calls.dropPartner
  split
  · exact Calls.ses_enter_ne _ _ _ _ _ h
  · exact Calls.ses_enter_ne _ _ _ _ _ h

/-- A party in TALK gives it up (R11, R20). -/
theorem Calls.Lawful.giveUpTalk (h : k.Lawful) (e : Env) (hs : (k.ses c).state = .talk) : k.GivenUp c (k.giveUp e c) := by
  obtain ⟨p, hp⟩ := h.peer_of (c := c) (by simp [hs])
  obtain ⟨hne, B, hB, hBc, hBp⟩ := h.parted (m := .talks) hs hp
  obtain ⟨-, hps, -⟩ := h.mate (m := .talks) hs hp
  have hpu : (k.ses p).cls ≠ .unused := (h.fits p).used (by simp [hps, Role.state, Role.other])
  unfold Calls.giveUp
  simp only [hs, hp]
  refine (hB.dropPartner hBp (by rwa [Calls.ses_alter_ne _ _ _ _ hne.symm]) e).givenUp hBc (by simp [hs, SState.rings]) ?_ ?_
  · rw [Calls.ses_dropPartner_ne _ _ hne, Calls.ses_alter_self]
  · rw [Calls.ses_dropPartner_ne _ _ hne, Calls.ses_alter_self]

/-- An originator that waits for its trunk lets it go (R11). -/
theorem Calls.Lawful.giveUpTrunkwait (h : k.Lawful) (e : Env) (hs : (k.ses c).state = .trunkwait) :
    k.GivenUp c (k.giveUp e c) := by
  obtain ⟨p, hp⟩ := h.peer_of (c := c) (by simp [hs])
  obtain ⟨hne, B, hB, hBc, hBp⟩ := h.parted (m := .awaits) hs hp
  obtain ⟨-, hps, -⟩ := h.mate (m := .awaits) hs hp
  have hpt : (k.ses p).cls = .trunk := (h.fits p).trunk (by simp [hps, Role.state, Role.other])
  have hph : (k.ses p).holds = none := (h.fits p).holds_none (.inr (by simp [hpt]))
  unfold Calls.giveUp
  simp only [hs, hp]
  refine Calls.Bound.givenUp (hB.settlePlain hBp rfl rfl ?_ (.inl ?_)) hBc (by simp [hs, SState.rings]) ?_ ?_
  · rw [Calls.ses_alter_ne _ _ _ _ hne.symm, hpt]; decide
  · rw [Calls.ses_alter_ne _ _ _ _ hne.symm, hph]
  · simp [hne]
  · simp [hne]

/-- A seizing trunk lets its originator go (R11). -/
theorem Calls.Lawful.giveUpSeizing (h : k.Lawful) (e : Env) (hs : (k.ses c).state = .seizing) :
    k.GivenUp c (k.giveUp e c) := by
  obtain ⟨p, hp⟩ := h.peer_of (c := c) (by simp [hs])
  obtain ⟨hne, B, hB, hBc, hBp⟩ := h.parted (m := .seizes) hs hp
  obtain ⟨-, hps, -⟩ := h.mate (m := .seizes) hs hp
  have hpt : (k.ses p).cls = .station := (h.fits p).station (by simp [hps, Role.state, Role.other])
  unfold Calls.giveUp
  simp only [hs, hp]
  refine Calls.Bound.givenUp (hB.settlePlain hBp rfl rfl ?_ (.inr (by simp))) hBc (by simp [hs, SState.rings]) ?_ ?_
  · rw [Calls.ses_alter_ne _ _ _ _ hne.symm, hpt]; decide
  · simp [hne]
  · simp [hne]

/-! ### Queues -/

/-- A SEIZED channel leaves the wait queue (R11, R53). -/
theorem Calls.Lawful.giveUpSeized (h : k.Lawful) (e : Env) (hs : (k.ses c).state = .seized) :
    k.GivenUp c (k.giveUp e c) := by
  have hc : k.bonds c = .waits := Session.bond_eq_waits.mpr hs
  unfold Calls.giveUp
  simp only [hs]
  have h1 := (h.bound.loosen (ds := [c]) (by simp)).setQueue _ (h.web.unwait hc) fun d hd =>
    Function.update_of_ne (by simpa using hd) ..
  exact h1.givenUp (by simp) (by simp [hs, SState.rings]) rfl rfl

theorem Calls.group_leaveQueues (k : Calls) (c : Chan) (g : GroupIx) :
    (k.leaveQueues c).group g = { k.group g with queue := (k.group g).queue.filter (· ≠ c) } := by
  simp [Calls.leaveQueues, Calls.group]

/-- A QUEUED channel leaves its camp-on queue (R11, R115). -/
theorem Calls.Lawful.leaveQueues (h : k.Lawful) (hs : (k.ses c).state = .queued) : k.GivenUp c (k.leaveQueues c) := by
  obtain ⟨g, hg⟩ : ∃ g, (k.ses c).curGroup = some g := Option.ne_none_iff_exists'.mp fun hn =>
    h.web .broken c (Session.bond_eq_broken.mpr (.inr (.inr (.inl ⟨hs, hn⟩))))
  have hc : k.bonds c = .camps g := Session.bond_eq_camps.mpr ⟨hs, hg⟩
  have h1 : (k.leaveQueues c).Bound [c] (update k.bonds c .free) := by
    refine (h.bound.loosen (by simp)).setGroups _ (fun f => ?_) ?_ fun d hd => Function.update_of_ne (by simpa using hd) ..
    · have := k.group_leaveQueues c f
      simp only [Calls.leaveQueues, Calls.group] at this
      rw [this]
      exact ⟨rfl, rfl, rfl, rfl, rfl, rfl⟩
    · have := h.web.uncamp hc
      convert this using 2
      simp [Calls.tables, Calls.group]
  exact h1.givenUp (by simp) (by simp [hs, SState.rings]) rfl rfl

/-! ### Holders -/

/-- A record that fits still fits when it holds nobody. -/
theorem Session.fits.noHolds {r : Session} (h : r.fits) : ({ r with holds := none } : Session).fits := by
  obtain ⟨h1, h2, h3, -, h5⟩ := h
  exact ⟨h1, h2, h3, fun hn => absurd rfl hn, h5⟩

/-- A held party is let go by its holder. -/
theorem Calls.Lawful.unhold (h : k.Lawful) {p : Chan} (hp : (k.ses c).holds = some p) :
    p ≠ c ∧ (k.alter c fun r => { r with holds := none }).Bound [p] (update k.bonds p .free) := by
  obtain ⟨hps, -⟩ := h.holds_iff.mp hp
  have hne : p ≠ c := by
    rintro rfl
    have := (h.fits p).holds_none (.inl (by simp [hps, SState.holder]))
    simp [this] at hp
  refine ⟨hne, ?_⟩
  have h1 : (k.alter c fun r => { r with holds := none }).Bound [c, p] (update k.bonds p .free) :=
    (h.bound.loosen (ds := [c, p]) (by simp)).setHolds (by simp) none (by simp) (h.web.unhold hp) fun d hd => by
      simp only [List.mem_cons, List.not_mem_nil, or_false, not_or] at hd
      simp [hd.2]
  refine h1.tighten ?_ ?_
  · rw [Calls.ses_alter_self]
    exact (h.fits c).noHolds
  · rw [Calls.ses_alter_self, Function.update_of_ne hne.symm]
    rfl

/-- A held party leaves its holder (R11, R20). -/
theorem Calls.Lawful.freeHolder (h : k.Lawful) (hs : (k.ses c).state = .held) : k.GivenUp c (k.freeHolder c) := by
  obtain ⟨x, hx⟩ : ∃ x, (k.ses c).heldBy = some x := Option.ne_none_iff_exists'.mp fun hn =>
    h.web .broken c (Session.bond_eq_broken.mpr (.inr (.inl ⟨hs, hn⟩)))
  obtain ⟨hne, hB⟩ := h.unhold (h.holds_iff.mpr ⟨hs, hx⟩)
  unfold Calls.freeHolder
  simp only [hx]
  exact hB.givenUp (by simp) (by simp [hs, SState.rings]) (by simp [hne.symm]) (by simp [hne.symm])

/-! ### Bridges -/

/-- A member leaves its bridge, which dissolves with two members left (R134, R135). -/
theorem Calls.Lawful.leaveBridge (h : k.Lawful) (hs : (k.ses c).state = .confer) : k.GivenUp c (k.leaveBridge c) := by
  obtain ⟨b, hb⟩ : ∃ b, (k.ses c).bridge = some b := Option.ne_none_iff_exists'.mp fun hn =>
    h.web .broken c (Session.bond_eq_broken.mpr (.inr (.inr (.inr ⟨hs, hn⟩))))
  have hc : k.bonds c = .confers b := Session.bond_eq_confers.mpr ⟨hs, hb⟩
  have hr : (k.ses c).state.rings = false := by simp [hs, SState.rings]
  obtain ⟨hnd, -, hmem⟩ := h.web .confer b
  unfold Calls.leaveBridge
  simp only [hb]
  split
  · next x y hxy =>
    have hm : ∀ d, d ∈ [x, y] → d ≠ c ∧ (k.ses d).cls ≠ .unused := fun d hd => by
      rw [← hxy] at hd
      obtain ⟨hd, hdc⟩ := List.mem_filter.mp hd
      have := Session.bond_eq_confers.mp ((hmem d).mp hd)
      exact ⟨by simpa using hdc, (h.fits d).used (by simp [this.1])⟩
    have hne : x ≠ y := by
      have hn : [x, y].Nodup := hxy ▸ hnd.filter _
      simpa using hn
    obtain ⟨hxc, hxu⟩ := hm x (by simp)
    obtain ⟨hyc, hyu⟩ := hm y (by simp)
    have h1 := (h.bound.loosen (ds := [x, y, c]) (by simp)).setMembers b [] (h.web.dissolve hc hxy) fun d hd => by
      simp only [List.mem_cons, List.not_mem_nil, or_false, not_or] at hd
      simp [hd.1, hd.2.1, hd.2.2]
    refine (h1.pair (by simp [hne]) (by simp) hne (by simpa using hxu) (by simpa using hyu)).givenUp ?_ hr ?_ ?_
    · simp [hxc.symm, hyc.symm]
    · simp [hxc, hyc]
    · simp [hxc, hyc]
  · next l hl =>
    have h2 : ((k.members b).filter (· ≠ c)).length ≠ 2 := fun h2 => by
      obtain ⟨x, y, hxy⟩ := List.length_eq_two.mp h2
      exact hl x y hxy
    have h1 := (h.bound.loosen (ds := [c]) (by simp)).setMembers b _ (h.web.leaveBridge hc h2) fun d hd =>
      Function.update_of_ne (by simpa using hd) ..
    exact h1.givenUp (by simp) hr rfl rfl

/-! ### Ringing sets -/

/-- A ringing set is given up (R11, R107). -/
theorem Calls.Lawful.clearRinging (h : k.Lawful) (hr : (k.ses c).state.rings = true) : k.GivenUp c (k.clearRinging c) := by
  have hc : k.bonds c = .rings (k.ses c).ringCount := Session.bond_eq_rings.mpr ⟨hr, rfl⟩
  have hset : ∀ d, d ∈ k.ringSet c ↔ k.bonds d = .rungBy c := fun d => by
    rw [Calls.mem_ringSet_iff]
    exact Session.bond_eq_rungBy.symm
  have hnot : c ∉ k.ringSet c := fun hm => by cases hc.symm.trans ((hset c).mp hm)
  have h1 : k.Bound (k.ringSet c ++ [c]) (unrung k.bonds c) :=
    (h.bound.loosen (by simp)).relink (h.web.ringEnd hc) fun d hd => by
      simp only [List.mem_append, List.mem_cons, List.not_mem_nil, or_false, not_or, hset] at hd
      simp [unrung, hd.1, hd.2]
  have h2 := h1.foldIdle fun d hd => by
    have hd' := (hset d).mp hd
    refine ⟨by simp [unrung, hd'], (h.fits d).holds_none (.inl ?_)⟩
    simp [(Session.bond_eq_rungBy.mp hd').1, SState.holder]
  have h3 : ((k.ringSet c).foldl (fun k d => k.toIdle d) k).ses c = k.ses c :=
    ((Calls.foldIdle_only _ k).1 c hnot).1.1
  refine ⟨⟨⟨_, h2.alter (c := c) (fun hn => absurd (by simp) hn) rfl rfl, by simp [unrung]⟩, fun _ => ?_⟩, ?_⟩
  · unfold Calls.clearRinging
    rw [Calls.ses_alter_self]
    rfl
  · unfold Calls.clearRinging
    rw [Calls.ses_alter_self, h3]
    rfl

/-! ### Any state -/

theorem Calls.Lawful.givenUp_plain (h : k.Lawful) (hp : (k.ses c).state.plain = true) : k.GivenUp c k := ⟨h.loose hp, rfl⟩

/-- Whatever the state of a channel holds is given up (R11, R20). -/
theorem Calls.Lawful.giveUp (h : k.Lawful) (e : Env) (hs : (k.ses c).state ≠ .ringing) : k.GivenUp c (k.giveUp e c) := by
  have plain : (k.ses c).state.plain = true → k.giveUp e c = k → k.GivenUp c (k.giveUp e c) := fun hp he => by
    rw [he]
    exact h.givenUp_plain hp
  cases hc : (k.ses c).state with
  | seized => exact h.giveUpSeized e hc
  | collecting => exact h.giveUpCollecting e hc
  | talk => exact h.giveUpTalk e hc
  | trunkwait => exact h.giveUpTrunkwait e hc
  | seizing => exact h.giveUpSeizing e hc
  | outring => simpa [Calls.giveUp, hc] using h.clearRinging (c := c) (by simp [hc, SState.rings])
  | ringin => simpa [Calls.giveUp, hc] using h.clearRinging (c := c) (by simp [hc, SState.rings])
  | queued => simpa [Calls.giveUp, hc] using h.leaveQueues hc
  | held => simpa [Calls.giveUp, hc] using h.freeHolder hc
  | confer => simpa [Calls.giveUp, hc] using h.leaveBridge hc
  | ringing => exact absurd hc hs
  | idle | blocked | hostwait | toneout | lockout | releasing =>
    exact plain (by simp [hc, SState.plain]) (by simp [Calls.giveUp, hc])

end

end Sys2Proof.Machine
end

section
/-! What follows a state given up: the held party handed on, the release, consultation and return, the bridges formed, the
answer and the failures of a placement. Each leaves lawful records lawful. -/

namespace Sys2Proof.Machine

open Function (update)

section

variable {k l : Calls} {c h o : Chan} {cs : List Chan} {B : Chan → Bond}

/-! ### After the state is given up -/

theorem Calls.Loose.station (hl : k.Loose c) (hh : (k.ses c).cls ≠ .station) : (k.ses c).holds = none := by
  obtain ⟨⟨B, hB, -⟩, -⟩ := hl
  by_contra hn
  exact hh (hB.holder c hn)

/-- A channel's class stands when it gives its state up. -/
theorem Calls.giveUp_cls (e : Env) (c d : Chan) (k : Calls) : ((k.giveUp e c).ses d).cls = (k.ses d).cls :=
  (k.giveUp_reach e c).cls d

/-- The abandonment of a trunk (R22). -/
theorem Calls.Lawful.abandon (hl : k.Lawful) (e : Env) (hs : (k.ses c).state ≠ .ringing) (hc : (k.ses c).cls = .trunk) :
    (k.abandon e c).Lawful := by
  have hg := (hl.giveUp e hs).loose
  have ht : ((k.giveUp e c).ses c).cls = .trunk := by rw [Calls.giveUp_cls, hc]
  have := hg.toReleasing e (by simp [ht]) (hg.station (by simp [ht]))
  exact (this.raise ..).idleStages ..

/-! ### The held party handed on -/

theorem Calls.Loose.toHostwaitAnswered (hl : k.Loose c) (hc : (k.ses c).cls ≠ .unused) :
    (k.toHostwaitAnswered c).Lawful := (hl.toHostwait hc).setOut ..

theorem Calls.Loose.dropPartner (hl : k.Loose c) (hc : (k.ses c).cls ≠ .unused) (e : Env) :
    (k.dropPartner e c).Lawful := by
  obtain ⟨⟨B, hB, hf⟩, -⟩ := hl
  exact ⟨B, hB.dropPartner hf hc e⟩

theorem Calls.Loose.partHeld (hl : k.Loose c) (hc : (k.ses c).cls ≠ .unused) (e : Env) (park : Bool) :
    (k.partHeld e park c).Lawful := by
  unfold Calls.partHeld
  split
  · exact (hl.toHostwaitAnswered hc).raise ..
  · exact hl.dropPartner hc e

/-- The stations of a ringing set take another originator. -/
theorem Calls.Bound.foldPeer {l : List Chan} (hB : k.Bound (l ++ cs) B)
    (hl : ∀ d ∈ l, (k.ses d).fits ∧ (k.ses d).state = .ringing ∧ B d = .rungBy h) :
    (l.foldl (fun k d => k.alter d fun x => { x with peer := some h }) k).Bound cs B := by
  induction l generalizing k with
  | nil => exact hB
  | cons d l ih =>
    obtain ⟨hf, hs, hb⟩ := hl d (by simp)
    refine ih (Calls.Bound.settle (cs := l ++ cs) hB ?_ ?_ rfl) fun x hx => ?_
    · obtain ⟨h1, -, h3⟩ := hf
      exact ⟨h1, fun _ => by simp [hs], h3⟩
    · rw [hb]
      exact Session.bond_eq_rungBy.mpr ⟨hs, rfl⟩
    · obtain ⟨hxf, hxs, hxb⟩ := hl x (by simp [hx])
      show Session.fits ((k.alter d _).ses x) ∧ ((k.alter d _).ses x).state = _ ∧ _
      rw [Calls.ses_alter]
      split
      · next e =>
        subst e
        obtain ⟨h1, -, h3⟩ := hf
        exact ⟨⟨h1, fun _ => by simp [hs], h3⟩, hs, hxb⟩
      · exact ⟨hxf, hxs, hxb⟩

theorem Calls.ses_foldPeer (l : List Chan) (k : Calls) {d : Chan} (hd : d ∉ l) :
    (l.foldl (fun k d => k.alter d fun x => { x with peer := some h }) k).ses d = k.ses d := by
  induction l generalizing k with
  | nil => rfl
  | cons x l ih =>
    simp only [List.mem_cons, not_or] at hd
    rw [List.foldl_cons, ih _ hd.2, Calls.ses_alter_ne _ _ _ _ (Ne.symm hd.1)]

/-- The record of a station that takes over a ringing set. -/
theorem Session.fits_passedRinging {r : Session} (hc : r.cls = .station) (x : Session) :
    ({ r.moved .outring with
      ringCount := x.ringCount, phaseOn := x.phaseOn, cycles := x.cycles, timer := x.timer,
      curGroup := x.curGroup, tried := x.tried } : Session).fits := by
  simp [Session.fits, Session.moved, SState.hasPeer, SState.rings, SState.placing, ChanClass.states, hc]

/-- What the originator keeps when its ringing set is passed on. -/
theorem Calls.ses_passRinging (k : Calls) (hne : h ≠ c) (hs : (k.ses c).state ≠ .ringing) :
    (k.passRinging c h).ses c = { (k.ses c).noRinging with timer := none } := by
  have hn : c ∉ k.ringSet c := fun hm => hs ((Calls.mem_ringSet_iff ..).mp hm).1
  unfold Calls.passRinging
  dsimp only
  rw [Calls.ses_alter_self, Calls.ses_enter_ne _ _ _ _ _ hne, Calls.ses_foldPeer _ _ hn]

theorem Calls.ses_passTrunk (k : Calls) {t : Chan} (hne : h ≠ c) (ht : t ≠ c) :
    (k.passTrunk c h t).ses c = { k.ses c with peer := none } := by
  unfold Calls.passTrunk
  dsimp only
  rw [Calls.ses_alter_self, Calls.ses_enter_ne _ _ _ _ _ hne, Calls.ses_alter_ne _ _ _ _ ht]

theorem Calls.ses_passQueue (k : Calls) (hne : h ≠ c) : (k.passQueue c h).ses c = { k.ses c with timer := none } := by
  unfold Calls.passQueue
  dsimp only
  rw [Calls.ses_alter_self, Calls.ses_enter_ne _ _ _ _ _ hne]
  rfl

/-- A ringing set passes whole to a station in transition (R145). -/
theorem Calls.Bound.passRinging (hB : k.Bound [h] B) (hh : B h = .free) (hne : h ≠ c) (hc : (k.ses c).state.rings = true)
    (hs : (k.ses h).cls = .station) (hr : (k.ses h).state ≠ .ringing) : (k.passRinging c h).Loose c := by
  have hBc : B c = .rings (k.ses c).ringCount :=
    (hB.fits c (by simpa using hne.symm)).2.symm.trans (Session.bond_eq_rings.mpr ⟨hc, rfl⟩)
  have hset : ∀ d, d ∈ k.ringSet c ↔ B d = .rungBy c := fun d => by
    rw [Calls.mem_ringSet_iff]
    by_cases e : d = h
    · subst e
      simp [Calls.ringsFor, hr, hh]
    · rw [← (hB.fits d (by simpa using e)).2]
      exact Session.bond_eq_rungBy.symm
  have hnh : h ∉ k.ringSet c := fun hm => by cases hh.symm.trans ((hset h).mp hm)
  have hnc : c ∉ k.ringSet c := fun hm => by cases hBc.symm.trans ((hset c).mp hm)
  have h1 : k.Bound (k.ringSet c ++ [h, c]) (passedOn B c h (k.ses c).ringCount) :=
    (hB.loosen (by simp)).relink (hB.web.ringPass hBc hh hne.symm) fun d hd => by
      simp only [List.mem_append, List.mem_cons, List.not_mem_nil, or_false, not_or, hset] at hd
      simp [passedOn, hd.1, hd.2]
  have h2 : ((k.ringSet c).foldl (fun k d => k.alter d fun x => { x with peer := some h }) k).Bound [h, c]
      (passedOn B c h (k.ses c).ringCount) := h1.foldPeer fun d hd => by
    have hd' := (hset d).mp hd
    have hdh : d ≠ h := by rintro rfl; exact hnh hd
    have hdc : d ≠ c := by rintro rfl; exact hnc hd
    obtain ⟨hf, hb⟩ := hB.fits d (by simpa using hdh)
    exact ⟨hf, (Session.bond_eq_rungBy.mp (hb.trans hd')).1, by simp [passedOn, hdh, hdc, hd']⟩
  have h3 := h2.enter (st := .outring) (f := fun x =>
    { x with ringCount := (k.ses c).ringCount, phaseOn := (k.ses c).phaseOn, cycles := (k.ses c).cycles,
             timer := (k.ses c).timer, curGroup := (k.ses c).curGroup, tried := (k.ses c).tried })
    (by rw [Calls.ses_foldPeer _ _ hnh]; exact Session.fits_passedRinging hs _)
    ((Session.bond_eq_rings.mpr ⟨rfl, rfl⟩).trans (by simp [passedOn, hne])) (by simp [Session.moved])
  refine ⟨⟨_, h3.alter (c := c) (f := fun x => { x.noRinging with timer := none }) (fun hn => absurd (by simp) hn) rfl rfl,
    by simp [passedOn]⟩, fun _ => ?_⟩
  rw [Calls.ses_passRinging _ hne (by rintro e; simp [e, SState.rings] at hc)]
  rfl

/-- A seizing trunk passes to a station in transition (R145). -/
theorem Calls.Bound.passTrunk {t : Chan} (hB : k.Bound [h] B) (hh : B h = .free) (hne : h ≠ c)
    (hc : (k.ses c).state = .trunkwait) (ht : (k.ses c).peer = some t) (hs : (k.ses h).cls = .station) :
    (k.passTrunk c h t).Loose c := by
  have hBc : B c = .mate .awaits t :=
    (hB.fits c (by simpa using hne.symm)).2.symm.trans (Session.bond_eq_mate.mpr ⟨hc, ht⟩)
  obtain ⟨htc, hBt⟩ := hB.web .mate c .awaits t hBc
  have hth : t ≠ h := by rintro rfl; cases hh.symm.trans hBt
  obtain ⟨htf, htb⟩ := hB.fits t (by simpa using hth)
  obtain ⟨hts, -⟩ := (Session.bond_eq_mate (m := .seizes)).mp (htb.trans hBt)
  have w := (hB.web.part hBc).partner (a := t) (b := h) .seizes (by simp) (by simp [hne, hth.symm, hh]) hth
  have h1 := (hB.loosen (ds := [t, h, c]) (by simp)).relink w fun d hd => by
    simp only [List.mem_cons, List.not_mem_nil, or_false, not_or] at hd
    simp [hd.1, hd.2.1, hd.2.2]
  have h2 := h1.settle (f := fun x => { x with peer := some h }) (by
      obtain ⟨f1, -, f3⟩ := htf
      exact ⟨f1, fun _ => by simp [hts, Role.state], f3⟩)
    (Eq.trans (b := .mate .seizes h) (by exact Session.bond_eq_mate.mpr ⟨hts, rfl⟩) (by simp [hth])) rfl
  have h3 := h2.enter (st := .trunkwait)
    (f := fun x => { x with peer := some t, curGroup := (k.ses c).curGroup, tried := (k.ses c).tried })
    (by rw [Calls.ses_alter_ne _ _ _ _ hth]
        simp [Session.fits, Session.moved, SState.hasPeer, SState.rings, SState.placing, ChanClass.states, hs])
    (Eq.trans (b := .mate .awaits t) (Session.bond_eq_mate.mpr ⟨rfl, rfl⟩) (by simp [Role.other]))
    (by simp [Session.moved])
  refine ⟨⟨_, h3.alter (c := c) (f := fun x => { x with peer := none }) (fun hn => absurd (by simp) hn) rfl rfl,
    by simp [hne.symm, htc.symm]⟩, fun hr => ?_⟩
  rw [Calls.ses_passTrunk _ hne htc] at hr
  simp [hc, SState.rings] at hr

/-- A camp-on place passes to a station in transition (R145). -/
theorem Calls.Bound.passQueue (hB : k.Bound [h] B) (hh : B h = .free) (hne : h ≠ c)
    (hc : (k.ses c).state = .queued) (hs : (k.ses h).cls = .station) : (k.passQueue c h).Loose c := by
  obtain ⟨hcf, hcb⟩ := hB.fits c (by simpa using hne.symm)
  obtain ⟨g, hg⟩ : ∃ g, (k.ses c).curGroup = some g := Option.ne_none_iff_exists'.mp fun hn =>
    hB.web .broken c (hcb ▸ Session.bond_eq_broken.mpr (.inr (.inr (.inl ⟨hc, hn⟩))))
  have hBc : B c = .camps g := hcb ▸ Session.bond_eq_camps.mpr ⟨hc, hg⟩
  have h1 := Calls.Bound.setGroups (hB.loosen (ds := [h, c]) (by simp))
    (every (fun g : Group => { g with queue := g.queue.map fun x => if x = c then h else x }) k.groups)
    (fun f => by rw [look_every]; exact ⟨rfl, rfl, rfl, rfl, rfl, rfl⟩)
    (by have := hB.web.passCamp hBc hh
        convert this using 2
        simp [Calls.tables, Calls.group])
    fun d hd => by
      simp only [List.mem_cons, List.not_mem_nil, or_false, not_or] at hd
      simp [hd.1, hd.2]
  have h2 := h1.enter (st := .queued)
    (f := fun x => { x with curGroup := (k.ses c).curGroup, tried := (k.ses c).tried, timer := (k.ses c).timer })
    (by have hs' : (look k.sessions h).cls = .station := hs
        simp [Session.fits, Session.moved, SState.hasPeer, SState.rings, SState.placing, ChanClass.states, Calls.ses, hs'])
    (Eq.trans (b := .camps g) (by exact Session.bond_eq_camps.mpr ⟨rfl, hg⟩) (by simp)) (by simp [Session.moved])
  refine ⟨⟨_, h2.alter (c := c) (f := fun x => { x with timer := none }) (fun hn => absurd (by simp) hn) rfl rfl,
    by simp [hne.symm]⟩, fun hr => ?_⟩
  rw [Calls.ses_passQueue _ hne] at hr
  simp [hc, SState.rings] at hr

/-! ### Giving up a state whose links have been passed on -/

/-- Nobody rings for a channel in transition. -/
theorem Calls.Loose.ringSet_nil (hl : k.Loose c) (hs : (k.ses c).state ≠ .ringing) : k.ringSet c = [] := by
  obtain ⟨⟨B, hB, hf⟩, -⟩ := hl
  refine List.eq_nil_iff_forall_not_mem.mpr fun d hd => ?_
  have hr := (Calls.mem_ringSet_iff k c d).mp hd
  by_cases e : d = c
  · subst e; exact hs hr.1
  · have := (hB.fits d (by simpa using e)).2.symm.trans (Session.bond_eq_rungBy.mpr hr)
    exact hB.web.not_rungBy (o := c) (by simp [hf]) d this

theorem Calls.Loose.clearRinging (hl : k.Loose c) (hs : (k.ses c).state ≠ .ringing) : k.GivenUp c (k.clearRinging c) := by
  have he : k.clearRinging c = k.alter c Session.noRinging := by simp [Calls.clearRinging, hl.ringSet_nil hs]
  rw [he]
  exact ⟨hl.alter rfl rfl fun _ => rfl, by simp [Session.noRinging]⟩

theorem Calls.Loose.leaveQueues (hl : k.Loose c) : k.GivenUp c (k.leaveQueues c) := by
  obtain ⟨⟨B, hB, hf⟩, hq⟩ := hl
  have hg : ∀ g, (k.leaveQueues c).group g = k.group g := fun g => by
    have hc : c ∉ (k.group g).queue := fun hm => by
      have := ((hB.web .camp g).2.2 c).mp hm
      simp [hf] at this
    have hfil : (k.group g).queue.filter (· ≠ c) = (k.group g).queue :=
      List.filter_eq_self.mpr fun x hx => by simpa using fun e : x = c => hc (e ▸ hx)
    rw [Calls.group_leaveQueues, hfil]
  have hv : (k.leaveQueues c).groups = k.groups := table_ext fun g => hg g
  exact ⟨⟨⟨B, hB.congr rfl rfl rfl hv rfl, hf⟩, hq⟩, rfl⟩

/-- What the state of `c` held has been passed on. -/
def Calls.Spent (c : Chan) (k : Calls) : Prop :=
  (k.ses c).state = .outring ∨ (k.ses c).state = .queued ∨
    (k.ses c).peer = none ∧ ((k.ses c).state = .talk ∨ (k.ses c).state = .trunkwait)

theorem Calls.Loose.giveUp (hl : k.Loose c) (hs : k.Spent c) (e : Env) : k.GivenUp c (k.giveUp e c) := by
  rcases hs with hs | hs | ⟨hp, hs | hs⟩
  · simpa [Calls.giveUp, hs] using hl.clearRinging (by simp [hs])
  · simpa [Calls.giveUp, hs] using hl.leaveQueues
  · simpa [Calls.giveUp, hs, hp] using (⟨hl, rfl⟩ : k.GivenUp c k)
  · simpa [Calls.giveUp, hs, hp] using (⟨hl, rfl⟩ : k.GivenUp c k)

/-- The held party of `c` has been dealt with: its records are lawful, or `c` is tied to nothing any more. -/
structure Calls.HandedOn (c : Chan) (l : Calls) : Prop where
  holds : (l.ses c).holds = none
  state : (l.ses c).state ≠ .ringing
  ties : l.Lawful ∨ l.Loose c ∧ l.Spent c

theorem Calls.HandedOn.giveUp (hl : l.HandedOn c) (e : Env) :
    (l.giveUp e c).Loose c ∧ ((l.giveUp e c).ses c).holds = none := by
  have hg : l.GivenUp c (l.giveUp e c) := by
    rcases hl.ties with h | ⟨h, hs⟩
    · exact h.giveUp e hl.state
    · exact h.giveUp hs e
  exact ⟨hg.loose, hg.holds.trans hl.holds⟩

theorem Calls.HandedOn.raise (hl : l.HandedOn c) (e : Env) (n : Notice) (d : Chan) : (l.raise e n d).HandedOn c := by
  refine ⟨by simpa using hl.holds, by simpa using hl.state, ?_⟩
  rcases hl.ties with h | ⟨h, hs⟩
  · exact .inl (h.raise ..)
  · exact .inr ⟨h.raise .., by simpa [Calls.Spent] using hs⟩

theorem Calls.ses_toHostwaitAnswered_ne (k : Calls) {d : Chan} (hd : h ≠ d) : (k.toHostwaitAnswered h).ses d = k.ses d := by
  unfold Calls.toHostwaitAnswered
  rw [Calls.ses_setOut]
  exact Calls.ses_enter_ne _ _ _ _ _ hd

theorem Calls.ses_partHeld_ne (k : Calls) (e : Env) (park : Bool) {d : Chan} (hd : h ≠ d) :
    (k.partHeld e park h).ses d = k.ses d := by
  unfold Calls.partHeld
  split
  · rw [Calls.ses_raise, Calls.ses_toHostwaitAnswered_ne _ hd]
  · exact Calls.ses_dropPartner_ne _ _ hd

/-- The held party of a holder in TALK is paired with the holder's partner (R145). -/
theorem Calls.Lawful.pairHeld (hl : k.Lawful) {p : Chan} (hh : (k.ses c).holds = some h) (hs : (k.ses c).state = .talk)
    (hp : (k.ses c).peer = some p) :
    (((k.alter c fun x => { x with holds := none }).alter c fun x => { x with peer := none }).pair h p).HandedOn c := by
  obtain ⟨hne, hB⟩ := hl.unhold hh
  obtain ⟨hhs, -⟩ := hl.holds_iff.mp hh
  obtain ⟨hpc, hps, -⟩ := hl.mate (m := .talks) hs hp
  have hph : h ≠ p := by rintro rfl; simp [hhs, Role.state, Role.other] at hps
  have hBc : update k.bonds h .free c = .mate .talks p := by
    rw [Function.update_of_ne hne.symm]
    exact Session.bond_eq_mate.mpr ⟨hs, hp⟩
  have h1 := (hB.loosen (ds := [h, p, c]) (by simp)).relink (hB.web.part hBc) fun d hd => by
    simp only [List.mem_cons, List.not_mem_nil, or_false, not_or] at hd
    simp [hd.2.1, hd.2.2]
  have h2 := h1.alter (c := c) (f := fun x => { x with peer := none }) (fun hn => absurd (by simp) hn) rfl rfl
  have h3 := h2.pair (by simp [hph, hne]) (by simp) hph
    (by rw [Calls.ses_alter_ne _ _ _ _ hne.symm, Calls.ses_alter_ne _ _ _ _ hne.symm]
        exact (hl.fits h).used (by simp [hhs]))
    (by rw [Calls.ses_alter_ne _ _ _ _ hpc.symm, Calls.ses_alter_ne _ _ _ _ hpc.symm]
        exact (hl.fits p).used (by simp [hps, Role.state, Role.other]))
  have hc : (((k.alter c fun x => { x with holds := none }).alter c fun x => { x with peer := none }).pair h p).ses c =
      { k.ses c with holds := none, peer := none } := by simp [hne, hpc]
  refine ⟨by rw [hc], by simp [hc, hs], .inr ⟨⟨⟨_, h3, by simp [hne.symm, hpc.symm]⟩, fun hr => ?_⟩, .inr (.inr ?_)⟩⟩
  · simp [hc, hs, SState.rings] at hr
  · simp [hc, hs]

/-- The held party of a holder is handed on by the holder's state (R144, R150). -/
theorem Calls.Lawful.handOn (hl : k.Lawful) (hh : (k.ses c).holds = some h) (e : Env) (park : Bool) :
    (k.handOn e park c h).HandedOn c := by
  obtain ⟨hne, hB⟩ := hl.unhold hh
  obtain ⟨hhs, -⟩ := hl.holds_iff.mp hh
  have hfh := hl.fits h
  have hhu : (k.ses h).cls ≠ .unused := hfh.used (by simp [hhs])
  have hsta : (k.ses h).cls ≠ .trunk → (k.ses h).cls = .station := fun ht => by cases hs : (k.ses h).cls <;> simp_all
  have hcr : (k.ses c).state ≠ .ringing := fun hr => by
    have := (hl.fits c).holds_none (.inl (by simp [hr, SState.holder]))
    simp [this] at hh
  have h0 : (k.alter c fun x => { x with holds := none }).Loose h :=
    ⟨⟨_, hB, by simp⟩, fun hr => by simp [hne.symm, hhs, SState.rings] at hr⟩
  have hc0 : (k.alter c fun x => { x with holds := none }).ses c = { k.ses c with holds := none } :=
    Calls.ses_alter_self ..
  have hh0 : (k.alter c fun x => { x with holds := none }).ses h = k.ses h := Calls.ses_alter_ne _ _ _ _ hne.symm
  have part : ((k.alter c fun x => { x with holds := none }).partHeld e park h).HandedOn c := by
    refine ⟨?_, ?_, .inl (h0.partHeld (by rwa [hh0]) e park)⟩
    · rw [Calls.ses_partHeld_ne _ _ _ hne, hc0]
    · rw [Calls.ses_partHeld_ne _ _ _ hne, hc0]; exact hcr
  have answered : ((k.alter c fun x => { x with holds := none }).toHostwaitAnswered h).HandedOn c := by
    refine ⟨?_, ?_, .inl (h0.toHostwaitAnswered (by rwa [hh0]))⟩
    · rw [Calls.ses_toHostwaitAnswered_ne _ hne, hc0]
    · rw [Calls.ses_toHostwaitAnswered_ne _ hne, hc0]; exact hcr
  unfold Calls.handOn
  dsimp only
  split
  case h_1 hs =>
    obtain ⟨p, hp⟩ := hl.peer_of (c := c) (by simp [hs])
    simp only [hp]
    exact (hl.pairHeld hh hs hp).raise ..
  case h_2 hs =>
    refine Calls.HandedOn.raise ?_ ..
    split
    · exact answered
    · next ht =>
      have hp := hB.passRinging (by simp) hne (by simp [hs, SState.rings]) (by rw [hh0]; exact hsta ht) (by simp [hh0, hhs])
      have hc1 := (k.alter c fun x => { x with holds := none }).ses_passRinging hne (by rw [hc0]; exact hcr)
      exact ⟨by simp [hc1, Session.noRinging], by simp [hc1, Session.noRinging, hs],
        .inr ⟨hp, .inl (by simp [hc1, Session.noRinging, hs])⟩⟩
  case h_3 hs =>
    obtain ⟨t, ht⟩ := hl.peer_of (c := c) (by simp [hs])
    obtain ⟨htc, -⟩ := hl.mate (m := .awaits) hs ht
    simp only [ht]
    refine Calls.HandedOn.raise ?_ ..
    split
    · exact answered
    · next htr =>
      have hp := hB.passTrunk (t := t) (by simp) hne (by simp [hs]) (by simp [ht]) (by rw [hh0]; exact hsta htr)
      have hc1 := (k.alter c fun x => { x with holds := none }).ses_passTrunk hne htc
      exact ⟨by simp [hc1], by simp [hc1, hs], .inr ⟨hp, .inr (.inr (by simp [hc1, hs]))⟩⟩
  case h_4 hs =>
    refine Calls.HandedOn.raise ?_ ..
    split
    · exact answered
    · next ht =>
      have hp := hB.passQueue (by simp) hne (by simp [hs]) (by rw [hh0]; exact hsta ht)
      have hc1 := (k.alter c fun x => { x with holds := none }).ses_passQueue hne
      exact ⟨by simp [hc1], by simp [hc1, hs], .inr ⟨hp, .inr (.inl (by simp [hc1, hs]))⟩⟩
  all_goals exact part

/-- Stage 1 of a release, and the state given up after it (R16). -/
theorem Calls.Lawful.unwound (hl : k.Lawful) (hs : (k.ses c).state ≠ .ringing) (e : Env) (park : Bool) :
    ((k.handOnHeld e park c).giveUp e c).Loose c ∧ (((k.handOnHeld e park c).giveUp e c).ses c).holds = none := by
  have hd : (k.handOnHeld e park c).HandedOn c := by
    unfold Calls.handOnHeld
    split
    · next h hh => exact hl.handOn hh e park
    · next hh => exact ⟨hh, hs, .inl hl⟩
  exact hd.giveUp e

end

end Sys2Proof.Machine
end

section
/-! The operations of the Session Table, each from lawful records to lawful records. -/

namespace Sys2Proof.Machine

open Function (update)

section

variable {k : Calls} {c p : Chan}

/-! ### Release, transfer and drop -/

theorem Calls.unwound_cls (e : Env) (park : Bool) (c d : Chan) (k : Calls) :
    (((k.handOnHeld e park c).giveUp e c).ses d).cls = (k.ses d).cls :=
  ((k.handOnHeld_reach e park c).trans (Calls.giveUp_reach e c _)).cls d

theorem Calls.Lawful.unwind (h : k.Lawful) (hs : (k.ses c).state ≠ .ringing) (e : Env) (park : Bool) {last : Calls → Calls}
    (hl : ∀ l : Calls, l.Loose c → (l.ses c).holds = none → (l.ses c).cls = (k.ses c).cls → (last l).Lawful) :
    (k.unwind e park c last).Lawful := by
  obtain ⟨hg, hn⟩ := h.unwound hs e park
  exact (hl _ hg hn (Calls.unwound_cls ..)).idleStages ..

/-- The release of a channel (R16). -/
theorem Calls.Lawful.release (h : k.Lawful) (hs : (k.ses c).state ≠ .ringing) (hc : (k.ses c).cls ≠ .unused) (e : Env) :
    (k.release e c).Lawful :=
  h.unwind hs e false fun _ hl hn hcl => (hl.toReleasing e (by rwa [hcl]) hn).raise ..

/-- TRANSFER (R150). -/
theorem Calls.Lawful.transfer (h : k.Lawful) (hs : (k.ses c).state ≠ .ringing) (hc : (k.ses c).cls ≠ .unused) (e : Env) :
    (k.unwind e true c (Calls.toHostwait c)).Lawful :=
  h.unwind hs e true fun _ hl _ hcl => hl.toHostwait (by rwa [hcl])

/-- DROP (R152). -/
theorem Calls.Lawful.dropSession (h : k.Lawful) (hs : (k.ses c).state ≠ .ringing) (hc : (k.ses c).cls ≠ .unused) (e : Env) :
    (k.dropSession e c).Lawful := by
  unfold Calls.dropSession
  refine h.unwind hs e false fun l hl hn hcl => ?_
  split
  · exact hl.toReleasing e (by rwa [hcl]) hn
  · next ht => exact hl.toLockout (by rw [hcl]; cases hs : (k.ses c).cls <;> simp_all)

/-! ### Hold and return -/

/-- The record of a held party. -/
theorem Session.fits_held {r : Session} (hc : r.cls ≠ .unused) (hh : r.holds = none) (x : Chan) :
    ({ r.moved .held with heldBy := some x } : Session).fits := by
  cases hs : r.cls <;>
    simp_all [Session.fits, Session.moved, SState.hasPeer, SState.rings, SState.placing, ChanClass.states]

theorem Calls.consultPeer_eq_some (h : k.consultPeer c = some p) :
    (k.ses c).cls = .station ∧ (k.ses c).state = .talk ∧ (k.ses c).holds = none ∧ (k.ses c).peer = some p ∧
      (k.ses p).holds = none := by
  unfold Calls.consultPeer at h
  dsimp only at h
  split at h
  · next hc =>
    obtain ⟨h1, h2, h3⟩ := hc
    split at h
    · next q hq =>
      split at h
      · next hn =>
        cases h
        exact ⟨h1, h2, h3, hq, hn⟩
      · cases h
    · cases h
  · cases h

theorem Calls.alter_alter (k : Calls) (c : Chan) (f g : Session → Session) :
    (k.alter c f).alter c g = k.alter c fun r => g (f r) := by
  simp [Calls.alter, Calls.setSes, Calls.ses]

/-- A consultation is started (R140). -/
theorem Calls.Lawful.consult (h : k.Lawful) (hp : k.consultPeer c = some p) (e : Env) : (k.consult e c p).Lawful := by
  obtain ⟨hcls, hs, hh, hpe, hph⟩ := Calls.consultPeer_eq_some hp
  obtain ⟨hne, hps, -⟩ := h.mate (m := .talks) hs hpe
  have hpu : (k.ses p).cls ≠ .unused := (h.fits p).used (by simp [hps, Role.state, Role.other])
  have hc : k.bonds c = .mate .talks p := Session.bond_eq_mate.mpr ⟨hs, hpe⟩
  have h1 := (h.bound.loosen (ds := [p, c]) (by simp)).relink (h.web.part hc) fun d hd => by
    simp only [List.mem_cons, List.not_mem_nil, or_false, not_or] at hd
    simp [hd.1, hd.2]
  have h2 : (k.toHeld p c).Bound [p, c] (update (update k.bonds c .free) p .free) :=
    h1.enterAhead (by simp) rfl (by simp [Session.moved])
  have hcp : (k.toHeld p c).ses c = k.ses c := Calls.ses_enter_ne _ _ _ _ _ hne
  have h3 := h2.alter (c := c) (f := fun r => { r with peer := none }) (fun hn => absurd (by simp) hn) rfl rfl
  have h4 := h3.setHolds (c := c) (by simp) (some p) (fun _ => by simpa [hcp] using hcls)
    (h3.web.hold (c := c) (p := p) (by simp) (by simpa [Calls.tables, hcp] using hh)) fun d hd => by
      simp only [List.mem_cons, List.not_mem_nil, or_false, not_or] at hd
      simp [hd.1]
  rw [Calls.alter_alter] at h4
  have hses : ((k.toHeld p c).alter c fun r => { r with peer := none, holds := some p }).ses p =
      { (k.ses p).moved .held with heldBy := some c } := by
    rw [Calls.ses_alter_ne _ _ _ _ hne.symm]
    exact Calls.ses_enter_self ..
  have h5 := h4.tighten (by rw [hses]; exact Session.fits_held hpu hph c)
    (by rw [hses]; exact Eq.trans (b := .heldBy c) (Session.bond_eq_heldBy.mpr ⟨rfl, rfl⟩) (by simp))
  have hses' : ((k.toHeld p c).alter c fun r => { r with peer := none, holds := some p }).ses c =
      { k.ses c with peer := none, holds := some p } := by rw [Calls.ses_alter_self, hcp]
  refine Calls.Loose.startDialling (c := c) ⟨⟨_, h5, by simp [hne.symm]⟩, fun hr => ?_⟩ e ?_
  · rw [hses'] at hr
    simp [hs, SState.rings] at hr
  · rw [hses']
    exact hcls

/-- The return to a held party (R141, R142). -/
theorem Calls.Lawful.returnToHeld (h : k.Lawful) (hp : (k.ses c).holds = some p) (e : Env) : (k.returnToHeld e c p).Lawful := by
  have hcs : (k.ses c).cls = .station := (h.fits c).holder (by simp [hp])
  have hcr : (k.ses c).state ≠ .ringing := fun hr => by
    have := (h.fits c).holds_none (.inl (by simp [hr, SState.holder]))
    simp [this] at hp
  obtain ⟨⟨⟨B, hB, hf⟩, -⟩, hh⟩ := h.giveUp e hcr
  have hp' : ((k.giveUp e c).ses c).holds = some p := hh.trans hp
  have hBp : B p = .heldBy c := (hB.web .hold c p).mp hp'
  have hne : p ≠ c := by rintro rfl; cases hf.symm.trans hBp
  obtain ⟨hpf, hpb⟩ := hB.fits p (by simpa using hne)
  have hpu : ((k.giveUp e c).ses p).cls ≠ .unused := hpf.used (by simp [(Session.bond_eq_heldBy.mp (hpb.trans hBp)).1])
  have h1 := (hB.loosen (ds := [c, p]) (by simp)).setHolds (c := c) (by simp) none (by simp) (hB.web.unhold hp') fun d hd => by
    simp only [List.mem_cons, List.not_mem_nil, or_false, not_or] at hd
    simp [hd.2]
  have h2 := h1.pair (by simp [hne.symm, hf]) (by simp) hne.symm
    (by rw [Calls.ses_alter_self]; simp [Calls.giveUp_cls, hcs])
    (by rw [Calls.ses_alter_ne _ _ _ _ hne.symm]; exact hpu)
  exact Calls.Lawful.idleStages ⟨_, h2⟩ ..

/-- A FLASH (R139). -/
theorem Calls.Lawful.flash (h : k.Lawful) (e : Env) (c : Chan) : (k.flash e c).Lawful := by
  have h1 := h.raise e .flash c
  unfold Calls.flash
  dsimp only
  split
  · exact h1
  · split
    · next x hx =>
      split
      · exact h1.returnToHeld (by simpa using hx) e
      · exact h1
    · split
      · next q hq => exact h1.consult (by simpa [Calls.consultPeer] using hq) e
      · exact h1

/-! ### Bridges -/

/-- The record of a member of a bridge. -/
theorem Session.fits_confer {r : Session} (hc : r.cls ≠ .unused) (hh : r.holds = none) (b : BridgeIx) :
    ({ r.moved .confer with bridge := some b } : Session).fits := by
  cases hs : r.cls <;>
    simp_all [Session.fits, Session.moved, SState.hasPeer, SState.rings, SState.placing, ChanClass.states]

/-- A channel in transition whose tie is a bridge enters CONFER (R131, R133). -/
theorem Calls.Bound.toConfer {cs : List Chan} {B : Chan → Bond} {b : BridgeIx} (h : k.Bound (c :: cs) B)
    (hB : B c = .confers b) (hc : (k.ses c).cls ≠ .unused) (hh : (k.ses c).holds = none) : (k.toConfer c b).Bound cs B :=
  h.enter (Session.fits_confer hc hh b) ((Session.bond_eq_confers.mpr ⟨rfl, rfl⟩).trans hB.symm) (by simp [Session.moved])

theorem Calls.conferenceParties_eq_some {x : Chan} (h : k.conferenceParties c = some (x, p)) :
    (k.ses c).state = .talk ∧ (k.ses c).holds = some x ∧ (k.ses c).peer = some p ∧ (k.ses p).holds = none := by
  unfold Calls.conferenceParties at h
  split at h
  · next hs hh hp =>
    split at h
    · next hn => cases h; exact ⟨hs, hh, hp, hn⟩
    · cases h
  · cases h

theorem Calls.lowestFreeBridge_eq_some {b : BridgeIx} (h : k.lowestFreeBridge = some b) : k.members b = [] := by
  simpa using List.find?_some h

/-- A bridge is formed (R131). -/
theorem Calls.Lawful.formBridge (h : k.Lawful) {x : Chan} {b : BridgeIx} (hp : k.conferenceParties c = some (x, p))
    (hb : k.lowestFreeBridge = some b) : (k.formBridge b c x p).Lawful := by
  obtain ⟨hs, hh, hpe, hph⟩ := Calls.conferenceParties_eq_some hp
  have hb := Calls.lowestFreeBridge_eq_some hb
  obtain ⟨hxs, hxh⟩ := h.holds_iff.mp hh
  obtain ⟨hpc, hps, -⟩ := h.mate (m := .talks) hs hpe
  have hxc : x ≠ c := by rintro rfl; simp [hs] at hxs
  have hxp : x ≠ p := by rintro rfl; simp [hxs, Role.state, Role.other] at hps
  have hc : k.bonds c = .mate .talks p := Session.bond_eq_mate.mpr ⟨hs, hpe⟩
  have w1 := (h.web.part hc).unhold (c := c) (h := x) hh
  have h1 := ((h.bound.loosen (ds := [c, x, p]) (by simp)).relink (h.web.part hc) fun d hd => by
    simp only [List.mem_cons, List.not_mem_nil, or_false, not_or] at hd
    simp [hd.1, hd.2.2])
  have h2 := h1.setHolds (c := c) (by simp) none (by simp) w1 fun d hd => by
    simp only [List.mem_cons, List.not_mem_nil, or_false, not_or] at hd
    simp [hd.2.1]
  have w2 := h2.web.form (a := c) (b := x) (c := p) (i := b) (by simp [hpc.symm, hxc.symm]) (by simp) (by simp [hxp.symm])
    hxc.symm hpc.symm hxp (by simpa [Calls.tables] using hb)
  have h3 := h2.setMembers b _ w2 fun d hd => by
    simp only [List.mem_cons, List.not_mem_nil, or_false, not_or] at hd
    simp [hd.1, hd.2.1, hd.2.2]
  have hu : ∀ d, (k.ses d).state ≠ .idle ∧ (k.ses d).state ≠ .blocked → (k.ses d).cls ≠ .unused := fun d => (h.fits d).used
  have hxn : (k.ses x).holds = none := (h.fits x).holds_none (.inl (by simp [hxs, SState.holder]))
  have h4 := h3.toConfer (c := c) (b := b) (by simp [hxc.symm, hpc.symm]) (by simpa using hu c (by simp [hs])) (by simp)
  have h5 := h4.toConfer (c := x) (b := b) (by simp [hxp])
    (by simpa [Calls.toConfer, hxc, hxc.symm] using hu x (by simp [hxs]))
    (by simpa [Calls.toConfer, hxc, hxc.symm] using hxn)
  have h6 := h5.toConfer (c := p) (b := b) (by simp)
    (by simpa [Calls.toConfer, hxp, hpc.symm] using hu p (by simp [hps, Role.state, Role.other]))
    (by simpa [Calls.toConfer, hxp, hpc.symm] using hph)
  exact ⟨_, h6⟩

/-- A channel in transition joins a bridge (R133). -/
theorem Calls.Loose.joinMembers {b : BridgeIx} (h : k.Loose c) (hc : (k.ses c).cls ≠ .unused) (hh : (k.ses c).holds = none)
    (hb : (k.members b).length = 3) : ((k.setMembers b (k.members b ++ [c])).toConfer c b).Lawful := by
  obtain ⟨⟨B, hB, hf⟩, -⟩ := h
  have h1 := hB.setMembers b _ (hB.web.joinBridge hf hb) fun d hd => Function.update_of_ne (by simpa using hd) ..
  exact ⟨_, h1.toConfer (by simp) hc hh⟩

theorem Calls.members_freeHolder (k : Calls) (c : Chan) : (k.freeHolder c).members = k.members := by
  unfold Calls.freeHolder
  split <;> rfl

/-- JOIN (R132, R133). -/
theorem Calls.Lawful.joinBridge (h : k.Lawful) {b : BridgeIx} (hb : k.members b ≠ []) (hl : ¬bridgeLimit ≤ (k.members b).length)
    (hj : k.mayJoin c = true) : (k.joinBridge b c).Lawful := by
  have h3 : (k.members b).length = 3 := by
    obtain ⟨-, hlen, -⟩ := h.web .confer b
    have : (k.members b).length ≠ 0 := by simpa using hb
    simp only [Calls.tables] at hlen
    simp only [bridgeLimit] at hl
    omega
  unfold Calls.joinBridge
  unfold Calls.mayJoin at hj
  split
  · next hs =>
    obtain ⟨hg, hgh⟩ := h.freeHolder hs
    have hcl : ((k.freeHolder c).ses c).cls = (k.ses c).cls := (k.freeHolder_reach c).cls c
    have := hg.joinMembers (b := b) (by rw [hcl]; exact (h.fits c).used (by simp [hs]))
      (by rw [hgh]; exact (h.fits c).holds_none (.inl (by simp [hs, SState.holder])))
      (by rwa [Calls.members_freeHolder])
    rwa [Calls.members_freeHolder] at this
  · next hs =>
    have hw : (k.ses c).state = .hostwait ∧ ¬((k.ses c).cls = .station ∧ (k.ses c).holds ≠ none) := by
      split at hj
      · contradiction
      · next hw => exact ⟨hw, by simpa [imp_iff_not_or] using hj⟩
      · cases hj
    obtain ⟨hw, hn⟩ := hw
    refine (h.loose (by simp [hw, SState.plain])).joinMembers ((h.fits c).used (by simp [hw])) ?_ h3
    by_contra hc
    exact hn ⟨(h.fits c).holder hc, hc⟩

/-! ### Answer -/

theorem Session.fits.used_of_rings {r : Session} (h : r.fits) (hr : r.state.rings = true) : r.cls ≠ .unused :=
  h.used (by constructor <;> (intro hs; simp [hs, SState.rings] at hr))

/-- A RINGING station names the originator that rings it. -/
theorem Calls.Lawful.rung (h : k.Lawful) {o : Chan} (hs : (k.ses c).state = .ringing) (hp : (k.ses c).peer = some o) :
    k.bonds c = .rungBy o ∧ (k.ses o).state.rings = true ∧ k.bonds o = .rings (k.ses o).ringCount ∧ c ≠ o := by
  have hc : k.bonds c = .rungBy o := Session.bond_eq_rungBy.mpr ⟨hs, hp⟩
  obtain ⟨n, hn⟩ := (h.web .ring).1 c o hc
  obtain ⟨hr, -⟩ := Session.bond_eq_rings.mp hn
  exact ⟨hc, hr, Session.bond_eq_rings.mpr ⟨hr, rfl⟩, by rintro rfl; cases hc.symm.trans hn⟩

theorem Calls.mem_ringSet_bonds {o d : Chan} : d ∈ k.ringSet o ↔ k.bonds d = .rungBy o := by
  rw [Calls.mem_ringSet_iff]
  exact Session.bond_eq_rungBy.symm

theorem Calls.Lawful.rung_holds (h : k.Lawful) {o d : Chan} (hd : k.bonds d = .rungBy o) : (k.ses d).holds = none :=
  (h.fits d).holds_none (.inl (by simp [(Session.bond_eq_rungBy.mp hd).1, SState.holder]))

/-- A RINGING station answers (R108). -/
theorem Calls.Lawful.answer (h : k.Lawful) {o : Chan} (hs : (k.ses c).state = .ringing) (hp : (k.ses c).peer = some o)
    (e : Env) : (k.answer e c o).Lawful := by
  obtain ⟨hc, hr, ho, hne⟩ := h.rung hs hp
  have hcs : (k.ses c).cls ≠ .unused := (h.fits c).used (by simp [hs])
  have h1 : k.Bound (c :: o :: ((k.ringSet o).filter (· ≠ c) ++ [])) (unrung k.bonds o) :=
    (h.bound.loosen (by simp)).relink (h.web.ringEnd ho) fun d hd => by
      have : ¬(d = o ∨ k.bonds d = .rungBy o) := by
        simp only [List.append_nil, List.mem_cons, List.mem_filter, not_or, Calls.mem_ringSet_bonds] at hd
        obtain ⟨hdc, hdo, hdr⟩ := hd
        exact fun hx => hx.elim hdo fun hx => hdr ⟨hx, by simpa using hdc⟩
      simp [unrung, this]
  have h2 := h1.pair (by simp [unrung, hc]) (by simp [unrung]) hne hcs ((h.fits o).used_of_rings hr)
  have h3 : ((k.pair c o).raise e .answer o).Bound ((k.ringSet o).filter (· ≠ c) ++ []) _ :=
    h2.congr (by simp) (by simp) (by simp) (by simp) (by simp)
  have h4 := h3.foldIdle fun d hd => by
    obtain ⟨hd, hdc⟩ := List.mem_filter.mp hd
    have hd := Calls.mem_ringSet_bonds.mp hd
    have hdc : d ≠ c := by simpa using hdc
    have hdo : d ≠ o := by rintro rfl; cases hd.symm.trans ho
    refine ⟨by simp [hdo, hdc, unrung, hd], ?_⟩
    rw [Calls.ses_raise, Calls.ses_pair_ne _ hdc.symm hdo.symm]
    exact h.rung_holds hd
  exact Calls.Lawful.idleStages ⟨_, h4⟩ ..

/-! ### No answer -/

/-- Counts and cadence of a ringing originator are its own affair. -/
theorem Session.fits.counts {r x : Session} (h : r.fits) (hr : r.state.rings = true)
    (hx : x = { r with ringCount := x.ringCount, phaseOn := x.phaseOn, cycles := x.cycles, timer := x.timer }) : x.fits := by
  obtain ⟨h1, h2, -, h4⟩ := h
  rw [hx]
  exact ⟨h1, h2, fun hn => absurd ((SState.rings_iff _).mp hr) hn, h4⟩

/-- A ringing originator's cadence moves on. -/
theorem Calls.Lawful.alterRinging (h : k.Lawful) {o : Chan} (hr : (k.ses o).state.rings = true) {f : Session → Session}
    (hf : f (k.ses o) = { k.ses o with
      phaseOn := (f (k.ses o)).phaseOn, cycles := (f (k.ses o)).cycles, timer := (f (k.ses o)).timer }) :
    (k.alter o f).Lawful :=
  h.alter o ((h.fits o).counts hr (by rw [hf])) (by rw [hf]; rfl) (by rw [hf]) (by rw [hf])

theorem Calls.Lawful.ringOutputs (h : k.Lawful) (o : Chan) (on : Bool) : (k.ringOutputs o on).Lawful := by
  rw [Calls.ringOutputs_out]
  exact h.congr rfl rfl rfl rfl rfl

/-- The no-answer outcome of an originator (R107, R12): of one that still rings stations, or of one left with none. -/
theorem Calls.noAnswer_lawful {o : Chan} (hr : (k.ses o).state.rings = true) (hc : (k.ses o).cls ≠ .unused)
    (h : k.Lawful ∨ k.Loose o) (e : Env) : (k.noAnswer e o).Lawful := by
  have hnr : (k.ses o).state ≠ .ringing := by rintro hs; simp [hs, SState.rings] at hr
  have hcl : ((k.raise e .noanswer o).clearRinging o).Loose o := by
    rcases h with h | h
    · exact ((h.raise e .noanswer o).clearRinging (by simpa using hr)).loose
    · exact ((h.raise e .noanswer o).clearRinging (by simpa using hnr)).loose
  have hcc : (((k.raise e .noanswer o).clearRinging o).ses o).cls = (k.ses o).cls := by
    rw [(Calls.clearRinging_reach o _).cls, Calls.ses_raise]
  unfold Calls.noAnswer
  dsimp only
  split
  · exact (hcl.hunt e _ _ (by rwa [hcc])).idleStages ..
  · split
    · next ht =>
      split
      · next hback =>
        refine Calls.Loose.toHostwait ?_ (by simpa using hc)
        rcases h with h | h
        · have ho : k.bonds o = .rings (k.ses o).ringCount := Session.bond_eq_rings.mpr ⟨hr, rfl⟩
          obtain ⟨hpos, hcount⟩ := h.web.rings_pos ho
          have : rungCount k.bonds o = 0 := rungCount_eq_zero.mpr fun d hd => by
            have hm := Calls.mem_ringSet_bonds.mpr hd
            have hk : (k.raise e .noanswer o).ringSet o = k.ringSet o := by simp [Calls.ringSet]
            rw [← hk, hback] at hm
            cases hm
          omega
        · exact h.raise ..
      · next hback =>
        have hl : k.Lawful := by
          rcases h with h | h
          · exact h
          · exact absurd ((h.raise e .noanswer o).ringSet_nil (by simpa using hnr)) hback
        exact ((hl.raise e .noanswer o).alterRinging (by simpa using hr) rfl).ringOutputs ..
    · next ht =>
      refine (hcl.toToneout e _ ?_).idleStages ..
      rw [hcc]
      simp only [Calls.ses_raise] at ht
      cases hs : (k.ses o).cls <;> simp_all

/-! ### The ends of a placement -/

/-- The CADENCE expiry (R106). -/
theorem Calls.Lawful.cadence (h : k.Lawful) {o : Chan} (hr : (k.ses o).state.rings = true) (e : Env) :
    (k.cadence e o).Lawful := by
  unfold Calls.cadence
  split
  · exact (h.alterRinging hr rfl).ringOutputs ..
  · have h1 : (k.alter o fun r => { r with cycles := min ((k.ses o).cycles + 1) 15 }).Lawful :=
      h.alterRinging hr rfl
    have hr1 : ((k.alter o fun r => { r with cycles := min ((k.ses o).cycles + 1) 15 }).ses o).state.rings = true := by
      rwa [Calls.ses_alter_self]
    dsimp only
    split
    · exact Calls.noAnswer_lawful hr1 ((h1.fits o).used_of_rings hr1) (.inl h1) e
    · exact (h1.alterRinging hr1 rfl).ringOutputs ..

/-- The QUEUE_WAIT expiry (R116). -/
theorem Calls.Lawful.queueOut (h : k.Lawful) {o : Chan} (hs : (k.ses o).state = .queued) (e : Env) :
    (k.queueOut e o).Lawful := by
  have h1 := (h.leaveQueues hs).loose.raise e .queueout o
  have hc : (((k.leaveQueues o).raise e .queueout o).ses o).cls ≠ .unused := by
    simpa using (h.fits o).used (by simp [hs])
  unfold Calls.queueOut
  dsimp only
  split
  · exact h1.busyOutcome e hc
  · split
    · exact h1.hunt e _ _ hc
    · exact h1.busyOutcome e hc
    · exact h1.busyOutcome e hc

/-- A hunt goes on after a failed seizure (R111). -/
theorem Calls.Loose.continueHunt {o t : Chan} (h : k.Loose o) (hc : (k.ses o).cls ≠ .unused) (e : Env) :
    (k.continueHunt e t o).Lawful := by
  unfold Calls.continueHunt
  split
  · exact h.busyOutcome e hc
  · next g hg =>
    split
    · next hk => exact h.choose e hc (Group.searchAfter_nodup (h.members_nodup g) t) hk
    · split
      · next hq => exact h.joinQueue hc hg (Calls.onward_queue hq)
      · exact h.hunt e _ _ hc
      · exact h.busyOutcome e hc

/-- A seizing trunk and its originator are in transition together. -/
theorem Calls.Lawful.seizing (h : k.Lawful) {t : Chan} (hs : (k.ses t).state = .seizing) :
    ∃ o B, (k.ses t).peer = some o ∧ o ≠ t ∧ (k.ses o).state = .trunkwait ∧ k.Bound [t, o] B ∧ B t = .free ∧ B o = .free := by
  obtain ⟨o, ho⟩ := h.peer_of (c := t) (by simp [hs])
  obtain ⟨hne, hos, -⟩ := h.mate (m := .seizes) hs ho
  have hb : k.bonds t = .mate .seizes o := Session.bond_eq_mate.mpr ⟨hs, ho⟩
  refine ⟨o, _, ho, hne, hos, (h.bound.loosen (by simp)).relink (h.web.part hb) fun d hd => ?_, by simp [hne.symm], by simp⟩
  simp only [List.mem_cons, List.not_mem_nil, or_false, not_or] at hd
  simp [hd.1, hd.2]

/-- The seize failure (R111). -/
theorem Calls.Lawful.seizeFailed (h : k.Lawful) {t : Chan} (hs : (k.ses t).state = .seizing) (e : Env) :
    (k.seizeFailed e t).Lawful := by
  obtain ⟨o, B, ho, hne, hos, hB, hBt, hBo⟩ := h.seizing hs
  have htn : (k.ses t).holds = none := (h.fits t).holds_none (.inl (by simp [hs, SState.holder]))
  have h1 : (k.enter t .blocked id).Bound [o] B := hB.settlePlain hBt rfl rfl (SState.plain_mem_states (.inr rfl) _) (.inl htn)
  have ho1 : (k.enter t .blocked id).ses o = k.ses o := Calls.ses_enter_ne _ _ _ _ _ hne.symm
  have h2 : (k.enter t .blocked id).Loose o := ⟨⟨B, h1, hBo⟩, fun hr => by simp [ho1, hos, SState.rings] at hr⟩
  unfold Calls.seizeFailed
  simp only [ho]
  refine (h2.raise ..).continueHunt ?_ e
  rw [Calls.ses_raise, ho1]
  exact (h.fits o).used (by simp [hos])

/-- The cut-through (R110). -/
theorem Calls.Lawful.cutThrough (h : k.Lawful) {t : Chan} (hs : (k.ses t).state = .seizing) : (k.cutThrough t).Lawful := by
  obtain ⟨o, B, ho, hne, hos, hB, hBt, hBo⟩ := h.seizing hs
  unfold Calls.cutThrough
  simp only [ho]
  exact ⟨_, hB.pair hBt hBo hne.symm ((h.fits t).used (by simp [hs])) ((h.fits o).used (by simp [hos]))⟩

/-- The DROP of a RINGING station (R152, R12). -/
theorem Calls.Lawful.dropRinging (h : k.Lawful) (hs : (k.ses c).state = .ringing) (e : Env) : (k.dropRinging e c).Lawful := by
  obtain ⟨o, hp⟩ := h.peer_of (c := c) (by simp [hs])
  obtain ⟨hc, hr, ho, hne⟩ := h.rung hs hp
  have hu : (k.ses o).cls ≠ .unused := (h.fits o).used_of_rings hr
  obtain ⟨hpos, hcount⟩ := h.web.rings_pos ho
  have hco : (k.toIdle c).ses o = k.ses o := Calls.ses_toIdle_ne _ hne
  have hses : ((k.toIdle c).alter o fun r => { r with ringCount := r.ringCount - 1 }).ses o =
      { k.ses o with ringCount := (k.ses o).ringCount - 1 } := by rw [Calls.ses_alter_self, hco]
  unfold Calls.dropRinging
  simp only [hp]
  refine Calls.Lawful.idleStages ?_ ..
  have idle : ∀ {B : Chan → Bond}, k.Bound [c, o] B → B c = .free → (k.toIdle c).Bound [o] B := fun hB hf =>
    hB.settlePlain hf rfl rfl (SState.plain_mem_states (.inl rfl) _) (.inl (h.rung_holds hc))
  by_cases h1 : (k.ses o).ringCount = 1
  · have hB : k.Bound [c, o] (unrung k.bonds o) := (h.bound.loosen (by simp)).relink (h.web.ringEnd ho) fun d hd => by
      simp only [List.mem_cons, List.not_mem_nil, or_false, not_or] at hd
      have hn : k.bonds d ≠ .rungBy o := fun hd' => by
        have hle : rungCount k.bonds o = 1 := hcount ▸ h1
        obtain ⟨x, hx⟩ := Finset.card_eq_one.mp hle
        have m1 : c ∈ ({x} : Finset Chan) := hx ▸ by simp [hc]
        have m2 : d ∈ ({x} : Finset Chan) := hx ▸ by simp [hd']
        rw [Finset.mem_singleton] at m1 m2
        exact hd.1 (m2.trans m1.symm)
      simp [unrung, hd.2, hn]
    have h2 : ((k.toIdle c).alter o fun r => { r with ringCount := r.ringCount - 1 }).Loose o :=
      ⟨⟨_, (idle hB (by simp [unrung, hc])).alter (fun hn => absurd (by simp) hn) rfl rfl, by simp [unrung]⟩,
        fun _ => by simp [hses, h1]⟩
    rw [if_pos (by simp [hses, h1])]
    exact Calls.noAnswer_lawful (by simpa [hses] using hr) (by simpa [hses] using hu) (.inr h2) e
  · have hlt : 1 < (k.ses o).ringCount := by omega
    have hB := (h.bound.loosen (ds := [c, o]) (by simp)).relink (h.web.ringLess ho hc hlt) fun d hd => by
      simp only [List.mem_cons, List.not_mem_nil, or_false, not_or] at hd
      simp [hd.1, hd.2]
    rw [if_neg (by simp [hses]; omega)]
    refine ⟨_, (idle hB (by simp)).settle ?_ ?_ rfl⟩
    · rw [hco]
      exact (h.fits o).counts hr rfl
    · rw [hco]
      refine Eq.trans (b := .rings ((k.ses o).ringCount - 1)) ?_ (by simp [hne.symm])
      exact Session.bond_eq_rings.mpr ⟨hr, rfl⟩

end

end Sys2Proof.Machine
end

section
/-! Collections, deliveries, the receiver pool, START, STOP and CONFIGURE_CHANNEL: each from lawful records to lawful
records. -/

namespace Sys2Proof.Machine

open Function (update)

section

variable {k : Calls} {c : Chan}

/-! ### Collections -/

/-- A change of a record's digits and timer. -/
theorem Calls.Lawful.alterDigits (h : k.Lawful) (c : Chan) {f : Session → Session}
    (hf : f (k.ses c) = { k.ses c with digits := (f (k.ses c)).digits, timer := (f (k.ses c)).timer }) :
    (k.alter c f).Lawful :=
  h.alter c (by rw [hf]; exact h.fits c) (by rw [hf]; rfl) (by rw [hf]) (by rw [hf])

theorem Calls.Lawful.collector (h : k.Lawful) (hs : (k.ses c).state = .collecting) (e : Env) :
    (k.giveUp e c).Loose c ∧ ((k.giveUp e c).ses c).cls = .station :=
  ⟨(h.giveUp e (by simp [hs])).loose, by rw [Calls.giveUp_cls]; exact (h.fits c).station (by simp [hs])⟩

/-- A collection ends in TONEOUT REORDER (R73). -/
theorem Calls.Lawful.endReorder (h : k.Lawful) (hs : (k.ses c).state = .collecting) (e : Env) :
    (k.endReorder e c).Lawful := by
  obtain ⟨hl, hc⟩ := h.collector hs e
  exact hl.toToneout e _ hc

theorem Calls.Lawful.endVacant (h : k.Lawful) (hs : (k.ses c).state = .collecting) (e : Env) : (k.endVacant e c).Lawful :=
  (h.endReorder hs e).raise ..

theorem Calls.Lawful.endBarred (h : k.Lawful) (hs : (k.ses c).state = .collecting) (e : Env) : (k.endBarred e c).Lawful :=
  (h.endReorder hs e).raise ..

theorem Calls.destination_ne {n : Nat} {d : Chan} (h : k.destination c n = some d) : d ≠ c := by
  unfold Calls.destination at h
  split at h
  · dsimp only at h
    split at h
    · cases h
    · next hn => cases h; exact fun e => hn (.inr (.inr e))
  · cases h

/-- A completion that names a destination (R88). -/
theorem Calls.Lawful.endDirect (h : k.Lawful) (hs : (k.ses c).state = .collecting) (e : Env) (n : Nat) :
    (k.endDirect e c n).Lawful := by
  obtain ⟨hl, hc⟩ := h.collector hs e
  unfold Calls.endDirect
  split
  · next d hd => exact hl.placeDirect e (by simp [hc]) (Calls.destination_ne hd).symm
  · exact h.endVacant hs e

/-- A COMPLETE verdict (R85 to R89). -/
theorem Calls.Lawful.endComplete (h : k.Lawful) (hs : (k.ses c).state = .collecting) (e : Env) (en : Entry) :
    (k.endComplete e c en).Lawful := by
  obtain ⟨hl, hc⟩ := h.collector hs e
  unfold Calls.endComplete
  split
  · exact h.endBarred hs e
  · split
    · exact h.endBarred hs e
    · exact (hl.toHostwait (by simp [hc])).raise ..
    · exact h.endDirect hs e _
    · exact h.endDirect hs e _
    · exact hl.huntFresh e _ (by simp [hc])

/-- A verdict is acted on (R81). -/
theorem Calls.Lawful.actOn (h : k.Lawful) (hs : (k.ses c).state = .collecting) (e : Env) (v : Verdict) :
    (k.actOn e c v).Lawful := by
  unfold Calls.actOn
  split
  · exact h.alterDigits c rfl
  · exact h.alterDigits c rfl
  · exact h.endVacant hs e
  · split
    · exact h.endComplete hs e _
    · exact h.endVacant hs e

/-- A digit is appended (R69). -/
theorem Calls.Lawful.appendDigit (h : k.Lawful) (hs : (k.ses c).state = .collecting) (e : Env) (d : Digit) :
    (k.appendDigit e c d).Lawful := by
  have h1 : (k.alter c fun r => { r with digits := r.digits ++ [d] }).Lawful := h.alterDigits c rfl
  exact (h1.setListen c .none).actOn (by simpa using hs) e _

theorem Calls.Lawful.toneDigit (h : k.Lawful) (e : Env) (r : RxIx) (c : Chan) (d : Digit) : (k.toneDigit e r c d).Lawful := by
  unfold Calls.toneDigit
  split
  · next hc => exact h.appendDigit hc.2.1 e d
  · exact h

theorem Calls.Lawful.pulseDigit (h : k.Lawful) (e : Env) (c : Chan) (d : Digit) : (k.pulseDigit e c d).Lawful := by
  unfold Calls.pulseDigit
  split
  · next hc => exact h.appendDigit hc.2.1 e d
  · exact h

/-! ### Deliveries -/

theorem Calls.Lawful.takeSeize (h : k.Lawful) (hc : (k.ses c).cls = .station) (e : Env) : (k.takeSeize e c).Lawful := by
  unfold Calls.takeSeize
  split
  case h_1 hs => exact (h.loose (by simp [hs, SState.plain])).seizure e hc
  case h_2 => exact h.raise ..
  case h_3 hs =>
    split
    · next o ho => exact h.answer hs ho e
    · exact h
  all_goals exact h

theorem Calls.Lawful.takeDisconnect (h : k.Lawful) (hc : (k.ses c).cls = .station) (e : Env) :
    (k.takeDisconnect e c).Lawful := by
  have hr : (k.ses c).state ≠ .ringing → (k.release e c).Lawful := fun hs => h.release hs (by simp [hc]) e
  unfold Calls.takeDisconnect
  split
  case h_1 hs | h_2 hs | h_3 hs | h_4 hs | h_5 hs | h_6 hs | h_7 hs | h_8 hs | h_9 hs | h_10 hs | h_11 hs =>
    exact hr (by simp [hs])
  all_goals exact h

theorem Calls.Lawful.takeRingBurst (h : k.Lawful) (hc : (k.ses c).cls = .trunk) (e : Env) : (k.takeRingBurst e c).Lawful := by
  unfold Calls.takeRingBurst
  split
  · next hs => exact (h.loose (by simp [hs, SState.plain])).incomingCall e (by simp [hc])
  · exact h

theorem Calls.Lawful.takeRingGone (h : k.Lawful) (hc : (k.ses c).cls = .trunk) (e : Env) : (k.takeRingGone e c).Lawful := by
  have ha : (k.ses c).state ≠ .ringing → (k.abandon e c).Lawful := fun hs => h.abandon e hs hc
  unfold Calls.takeRingGone
  split
  case h_1 hs | h_2 hs => exact ha (by simp [hs])
  case h_3 hs =>
    split
    · exact h
    · exact ha (by simp [hs])
  all_goals exact h

theorem Calls.Lawful.takeBattOn (h : k.Lawful) (e : Env) (c : Chan) : (k.takeBattOn e c).Lawful := by
  unfold Calls.takeBattOn
  split
  · exact h.alterDigits c rfl
  · exact h

theorem Calls.Lawful.takeFarOpen (h : k.Lawful) (hc : (k.ses c).cls = .trunk) (e : Env) : (k.takeFarOpen e c).Lawful := by
  have hr : (k.ses c).state ≠ .ringing → (k.release e c).Lawful := fun hs => h.release hs (by simp [hc]) e
  unfold Calls.takeFarOpen
  split
  case h_1 hs | h_2 hs | h_3 hs | h_4 hs => exact hr (by simp [hs])
  case h_5 hs =>
    split
    · exact hr (by simp [hs])
    · exact h
  all_goals exact h

/-- ST takes a delivery (R13, R14, R15). -/
theorem Calls.Lawful.takeDelivery (h : k.Lawful) (e : Env) (v : Delivery) : (k.takeDelivery e v).Lawful := by
  unfold Calls.takeDelivery
  split
  · next c ev =>
    unfold Calls.take
    split
    · next hc =>
      obtain ⟨-, hc⟩ := hc
      cases ev with
      | seize => exact h.takeSeize hc e
      | pulseDigit d => exact h.pulseDigit e c d
      | flash => exact h.flash e c
      | disconnect => exact h.takeDisconnect hc e
      | ringBurst => exact h.takeRingBurst hc e
      | ringGone => exact h.takeRingGone hc e
      | battOn => exact h.takeBattOn e c
      | farOpen => exact h.takeFarOpen hc e
    · exact h
  · next r c d => exact h.toneDigit e r c d

/-! ### Receivers -/

/-- A receiver at work, for the same channel. -/
theorem Calls.Lawful.works (h : k.Lawful) {r : RxIx} {x : Receiver} (hx : x.assigned = (k.rx r).assigned)
    (hw : x.state.assigned = true) : (k.setRx r x).Lawful := by
  refine ⟨_, h.bound.setRx r x (fun hn => by simp [hw] at hn) (h.web.rx (fun q => ?_) fun hq q => ?_) fun _ _ => rfl⟩
  · by_cases e : q = r
    · subst e; simpa [Calls.tables] using hx
    · simp [e]
  · by_cases e : q = r
    · subst e
      rw [Function.update_self]
      rintro hs
      simp [hs, RxState.assigned] at hw
    · rw [Function.update_of_ne e]
      exact (h.web .wait).2.2 hq q

/-- A receiver that is nobody's goes out of service (R57, R59). -/
theorem Calls.Lawful.retire (h : k.Lawful) {r : RxIx} (hr : (k.rx r).state.assigned = false) :
    (k.setRx r .retired).Lawful := by
  refine ⟨_, h.bound.setRx r _ (fun _ => rfl) (h.web.rx (fun q => ?_) fun hq q => ?_) fun _ _ => rfl⟩
  · by_cases e : q = r
    · subst e; simpa [Calls.tables, Receiver.retired] using (h.bound.spare q hr).symm
    · simp [e]
  · by_cases e : q = r
    · subst e; simp [Receiver.retired]
    · rw [Function.update_of_ne e]
      exact (h.web .wait).2.2 hq q

/-- RECEIVER_SERVICE OUT (R59). -/
theorem Calls.Lawful.withdraw (h : k.Lawful) (r : RxIx) : (k.withdraw r).Lawful := by
  unfold Calls.withdraw
  split
  case h_1 hs => exact h.retire (by simp [hs, RxState.assigned])
  case h_2 => exact h
  all_goals
    next hs => exact h.works rfl (by simp [hs, RxState.assigned])

/-- RECEIVER_SERVICE IN (R58, R59). -/
theorem Calls.Lawful.putInService (h : k.Lawful) (e : Env) (r : RxIx) : (k.putInService e r).Lawful := by
  unfold Calls.putInService
  split
  case h_1 hs =>
    have h1 : ((k.setRx r .freed).setRx r .retired).Bound [] k.bonds := by
      have := (h.retire (r := r) (by simp [hs, RxState.assigned])).bound
      have he : (k.setRx r .freed).setRx r .retired = k.setRx r .retired := by simp [Calls.setRx]
      rw [he]
      exact this
    obtain ⟨B, hB, -⟩ := h1.returnReceiver (by simp) e
    exact ⟨B, hB⟩
  case h_2 => exact h
  all_goals
    next hs => exact h.works rfl (by simp [hs, RxState.assigned])

theorem Calls.Lawful.toneGap (h : k.Lawful) {r : RxIx} : (k.toneGap r).Lawful := h.works rfl rfl

end

end Sys2Proof.Machine
end

section
/-! START, STOP and CONFIGURE_CHANNEL: each from lawful records to lawful records. -/

namespace Sys2Proof.Machine

open Function (update)

section

variable {k : Calls} {o d : Chan}

/-! ### What an incoming call leaves of the other trunks -/

/-- A trunk is no party of another trunk's placement (R98). -/
theorem Calls.ses_placeOn_trunk (e : Env) {method : Method} {m : Chan} (ho : (k.ses o).cls = .trunk)
    (hd : (k.ses d).cls = .trunk) (hne : d ≠ o) (hm : k.eligible method o m = true) : (k.placeOn e o m).ses d = k.ses d := by
  obtain ⟨-, -, -, ht⟩ := Calls.eligible_iff.mp hm
  have hmt : (k.ses m).cls ≠ .trunk := fun h => (ht h).2 ho
  unfold Calls.placeOn
  rw [if_neg hmt]
  exact k.ses_ring_ne e hne (by rintro rfl; exact hmt hd)

theorem Calls.ses_foldRing (e : Env) (ms : List Chan) (k : Calls) (hne : d ≠ o) (hm : d ∉ ms) :
    (ms.foldl (fun k m => k.ring e o m) k).ses d = k.ses d := by
  induction ms generalizing k with
  | nil => rfl
  | cons m ms ih =>
    simp only [List.mem_cons, not_or] at hm
    rw [List.foldl_cons, ih _ hm.2, k.ses_ring_ne e hne hm.1]

theorem Calls.ses_choose_trunk (e : Env) {g : GroupIx} {l : List Chan} {k' : Calls} (ho : (k.ses o).cls = .trunk)
    (hd : (k.ses d).cls = .trunk) (hne : d ≠ o) (hk : k.choose e g o l = some k') : k'.ses d = k.ses d := by
  unfold Calls.choose at hk
  split at hk
  · obtain ⟨m, hm, rfl⟩ := Option.map_eq_some_iff.mp hk
    exact Calls.ses_placeOn_trunk e ho hd hne (List.find?_some hm)
  · obtain ⟨m, hm, rfl⟩ := Option.map_eq_some_iff.mp hk
    refine Calls.ses_placeOn_trunk (k := k.alterGroup g _) e (method := .circular) ho hd hne ?_
    have := List.find?_some hm
    rwa [Calls.eligible_iff] at this ⊢
  · split at hk
    · cases hk
    · cases hk
      refine Calls.ses_foldRing e _ k hne fun hm => ?_
      obtain ⟨-, -, -, ht⟩ := Calls.eligible_iff.mp (List.mem_filter.mp hm).2
      exact (ht hd).1 rfl

theorem Calls.ses_busyOutcome_ne (k : Calls) (e : Env) (hne : d ≠ o) : (k.busyOutcome e o).ses d = k.ses d := by
  unfold Calls.busyOutcome
  rw [Calls.ses_raise]
  split <;> exact Calls.ses_enter_ne _ _ _ _ _ hne.symm

theorem Calls.ses_hunt_trunk (e : Env) (n : Nat) (g : GroupIx) (ho : (k.ses o).cls = .trunk) (hd : (k.ses d).cls = .trunk)
    (hne : d ≠ o) : (k.hunt e n g o).ses d = k.ses d := by
  induction n generalizing g k with
  | zero => exact k.ses_busyOutcome_ne e hne
  | succ n ih =>
    have h1 : (k.markGroup g o).ses d = k.ses d := Calls.ses_alter_ne _ _ _ _ hne.symm
    have ho1 : ((k.markGroup g o).ses o).cls = .trunk := by simpa [Calls.markGroup] using ho
    have hd1 : ((k.markGroup g o).ses d).cls = .trunk := by rwa [h1]
    unfold Calls.hunt
    dsimp only
    split
    · next hk => rw [Calls.ses_choose_trunk e ho1 hd1 hne hk, h1]
    · split
      · unfold Calls.joinQueue
        rw [Calls.ses_enter_ne _ _ _ _ _ hne.symm, Calls.ses_alterGroup, h1]
      · rw [ih _ ho1 hd1, h1]
      · rw [Calls.ses_busyOutcome_ne _ e hne, h1]

/-- An incoming call of one trunk changes no other trunk (R114). -/
theorem Calls.ses_incomingCall_trunk (e : Env) (ho : (k.ses o).cls = .trunk) (hd : (k.ses d).cls = .trunk) (hne : d ≠ o) :
    (k.incomingCall e o).ses d = k.ses d := by
  unfold Calls.incomingCall
  dsimp only
  split
  · exact (Calls.ses_enter_ne _ _ _ _ _ hne.symm).trans (Calls.ses_raise ..)
  · unfold Calls.huntFresh
    have hn : ((k.raise e .ringin o).newAttempt o).ses d = k.ses d := by
      unfold Calls.newAttempt
      rw [Calls.ses_alter_ne _ _ _ _ hne.symm, Calls.ses_raise]
    rw [Calls.ses_hunt_trunk e _ _ (by rw [Calls.newAttempt_cls, Calls.ses_raise, ho]) (by rw [hn, hd]) hne, hn]

/-! ### START -/

theorem Calls.Lawful.seizures (h : k.Lawful) (e : Env) {l : List Chan} (hn : l.Nodup)
    (hl : ∀ c ∈ l, (k.ses c).cls = .station ∧ (k.ses c).state = .idle) : (l.foldl (fun k c => k.seizure e c) k).Lawful := by
  induction l generalizing k with
  | nil => exact h
  | cons c l ih =>
    obtain ⟨hc, hs⟩ := hl c (by simp)
    rw [List.nodup_cons] at hn
    refine ih ((h.loose (by simp [hs, SState.plain])).seizure e hc) hn.2 fun x hx => ?_
    have hxc : x ≠ c := by rintro rfl; exact hn.1 hx
    obtain ⟨⟨hses, -⟩, -⟩ := Calls.seizure_frame e c k hxc
    rw [hses]
    exact hl x (by simp [hx])

theorem Calls.Lawful.incomingCalls (h : k.Lawful) (e : Env) {l : List Chan} (hn : l.Nodup)
    (hl : ∀ c ∈ l, (k.ses c).cls = .trunk ∧ (k.ses c).state = .idle) :
    (l.foldl (fun k c => k.incomingCall e c) k).Lawful := by
  induction l generalizing k with
  | nil => exact h
  | cons c l ih =>
    obtain ⟨hc, hs⟩ := hl c (by simp)
    rw [List.nodup_cons] at hn
    refine ih ((h.loose (by simp [hs, SState.plain])).incomingCall e (by simp [hc])) hn.2 fun x hx => ?_
    have hxc : x ≠ c := by rintro rfl; exact hn.1 hx
    have hx' := hl x (by simp [hx])
    show ((k.incomingCall e c).ses x).cls = .trunk ∧ ((k.incomingCall e c).ses x).state = .idle
    rw [Calls.ses_incomingCall_trunk e hc hx'.1 hxc]
    exact hx'

theorem Calls.mem_offHookStations (e : Env) (k : Calls) (c : Chan) (h : c ∈ k.offHookStations e) :
    (k.ses c).cls = .station ∧ (k.ses c).state = .idle := by
  have := (List.mem_filter.mp h).2
  simp only [Bool.and_eq_true, beq_iff_eq] at this
  exact this.1

theorem Calls.mem_ringingTrunks (e : Env) (k : Calls) (c : Chan) (h : c ∈ k.ringingTrunks e) :
    (k.ses c).cls = .trunk ∧ (k.ses c).state = .idle := by
  have := (List.mem_filter.mp h).2
  simp only [Bool.and_eq_true, beq_iff_eq] at this
  exact this.1

theorem Calls.offHookStations_nodup (e : Env) (k : Calls) : (k.offHookStations e).Nodup := (List.nodup_finRange 32).filter _

theorem Calls.ringingTrunks_nodup (e : Env) (k : Calls) : (k.ringingTrunks e).Nodup := (List.nodup_finRange 32).filter _

/-- The take-up of START (R171). -/
theorem Calls.Lawful.takeUp (h : k.Lawful) (e : Env) : (k.takeUp e).Lawful := by
  have h1 := h.seizures e (k.offHookStations_nodup e) (k.mem_offHookStations e)
  refine h1.incomingCalls e (k.ringingTrunks_nodup e) fun c hc => ?_
  have hc' := k.mem_ringingTrunks e c hc
  have hno : c ∉ k.offHookStations e := fun hm => by
    have := (k.mem_offHookStations e c hm).1
    simp [hc'.1] at this
  obtain ⟨⟨hses, -⟩, -⟩ := Calls.seizures_frame e _ k hno
  rw [hses]
  exact hc'

/-! ### STOP -/

/-- The record that STOP leaves is tied to nothing (R28). -/
theorem Session.fits_stopped {r : Session} (h : r.fits) :
    (if r.active then r.moved .idle else r).fits ∧ (if r.active then r.moved .idle else r).bond = .free ∧
      (if r.active then r.moved .idle else r).holds = none := by
  split
  · refine ⟨Session.fits_plain (st := .idle) rfl rfl (SState.plain_mem_states (.inl rfl) _) ?_,
      Session.bond_eq_free.mpr rfl, by simp [Session.moved]⟩
    by_cases hn : r.holds = none
    · exact .inl hn
    · exact .inr ⟨h.holder hn, by decide⟩
  · next ha =>
    have hs : r.state = .idle ∨ r.state = .blocked := by
      by_contra hn
      simp only [not_or] at hn
      exact ha ((Session.active_iff r).mpr hn)
    refine ⟨h, Session.bond_eq_free.mpr ?_, h.holds_none (.inl ?_)⟩ <;> rcases hs with hs | hs <;> rw [hs] <;> rfl

/-- A receiver after STOP is nobody's (R67). -/
theorem Receiver.stopped_assigned {x : Receiver} (h : x.state.assigned = false → x.assigned = none) :
    x.stopped.assigned = none := by
  unfold Receiver.stopped
  split
  · split <;> rfl
  · next hn => exact h (by simpa using hn)

/-- What STOP leaves is lawful (R28, R67, R120, R138). -/
theorem Calls.Lawful.stopAll (h : k.Lawful) : k.stopAll.Lawful := by
  have hs := fun c => Session.fits_stopped (h.fits c)
  have hx : ∀ r, (k.rx r).stopped.assigned = none := fun r => Receiver.stopped_assigned (h.bound.spare r)
  refine ⟨fun _ => .free, fun c _ => ?_, fun c hc => ?_, fun κ => ?_, fun r _ => ?_, fun g => ?_⟩
  · rw [Calls.stopAll_ses]
    exact ⟨(hs c).1, (hs c).2.1⟩
  · rw [Calls.stopAll_ses] at hc
    exact absurd (hs c).2.2 hc
  · cases κ with
    | mate => exact fun c m p hb => nomatch hb
    | ring => exact ⟨fun d x hb => (nomatch hb), fun x n hb => (nomatch hb)⟩
    | hold => intro c x; simp [Calls.tables, (hs c).2.2]
    | wait => exact ⟨by simp [Calls.tables], fun c => by simp [Calls.tables], fun hq => absurd (Calls.stopAll_rxQueue k) hq⟩
    | collect => intro r c; simp [Calls.tables, hx]
    | camp => intro g; simp [Calls.tables]
    | confer => intro b; simp [Calls.tables, Calls.members, Calls.stopAll]
    | broken => exact fun c hb => nomatch hb
  · rw [Calls.stopAll_rx]
    exact hx r
  · rw [Calls.stopAll_group]
    exact h.bound.settings g

/-! ### CONFIGURE_CHANNEL -/

/-- An IDLE or BLOCKED record fits every configuration. -/
theorem Session.fits_configured {r : Session} (h : r.fits) (hs : r.state = .idle ∨ r.state = .blocked) (a : ConfigArgs) :
    (r.configured a).fits := by
  have hn : r.holds = none := h.holds_none (.inl (by rcases hs with hs | hs <;> rw [hs] <;> rfl))
  obtain ⟨-, h2, h3, -, h5⟩ := h
  refine ⟨?_, h2, h3, fun hh => absurd hn hh, h5⟩
  show r.state ∈ a.cls.states
  exact SState.plain_mem_states hs a.cls

/-- A channel in no call is configured (R7). -/
theorem Calls.Lawful.configured (h : k.Lawful) {a : ConfigArgs} (hs : (k.ses a.chan).active = false) :
    (k.alter a.chan (Session.configured a)).Lawful := by
  have hs : (k.ses a.chan).state = .idle ∨ (k.ses a.chan).state = .blocked := by
    by_contra hn
    simp only [not_or] at hn
    simp [(Session.active_iff _).mpr hn] at hs
  have hp : (k.ses a.chan).state.plain = true := by rcases hs with hs | hs <;> rw [hs] <;> rfl
  obtain ⟨⟨B, hB, hf⟩, -⟩ := h.loose hp
  exact ⟨B, hB.settle (Session.fits_configured (h.fits _) hs a) ((Session.bond_eq_free.mpr hp).trans hf.symm) rfl⟩

end

end Sys2Proof.Machine
end

section
/-! Every step keeps the partners and the receivers in step (R3, R8, R9, R12, R51, R53, R65): the cases of the
instruction. -/

namespace Sys2Proof.Machine

/-! ### What a step must leave -/

/-- The records fit and keep the laws of partners and of the pool; and, given `F`, the digits in flight are awaited. -/
structure State.Sound (F : Prop) (s : State) : Prop where
  fits : ∀ c, (s.calls.ses c).fits
  partners : s.calls.partnersLaw
  pool : s.calls.poolLaw
  flight : F → s.flightLaw

section

variable {F : Prop} {s t : State}

theorem State.Sound.of_lawful (h : s.calls.Lawful) (hf : F → s.flightLaw) : s.Sound F :=
  ⟨h.fits, h.partnersLaw, h.poolLaw, hf⟩

/-- The digits in flight are awaited as before when nobody's collection changes. -/
theorem State.flightLaw_congr (h : s.flightLaw) (hd : t.deliveries = s.deliveries)
    (hs : ∀ c, (t.calls.ses c).state = (s.calls.ses c).state ∧ (t.calls.ses c).receiver = (s.calls.ses c).receiver) :
    t.flightLaw := by
  intro r c d hv
  rw [hd] at hv
  rw [(hs c).1, (hs c).2]
  exact h r c d hv

/-- The laws read the records without their timers, the wait queue, and whose a receiver is and whether it is FREE. -/
theorem State.Sound.congr (h : s.Sound F)
    (hs : ∀ c, t.calls.ses c = { s.calls.ses c with timer := (t.calls.ses c).timer })
    (hr : ∀ r, (t.calls.rx r).state = (s.calls.rx r).state ∧ (t.calls.rx r).assigned = (s.calls.rx r).assigned)
    (hq : t.calls.rxQueue = s.calls.rxQueue) (hd : t.deliveries = s.deliveries) : t.Sound F := by
  obtain ⟨fits, partners, pool, flight⟩ := h
  refine ⟨fun c => ?_, fun c => ?_, ?_, fun hF => State.flightLaw_congr (flight hF) hd fun c => ?_⟩
  · rw [hs c]
    exact fits c
  · have := partners c
    unfold Calls.ringsFor at this ⊢
    simp only [fun d => congrArg Session.state (hs d), fun d => congrArg Session.peer (hs d),
      fun d => congrArg Session.heldBy (hs d), fun d => congrArg Session.holds (hs d),
      fun d => congrArg Session.ringCount (hs d)]
    exact this
  · obtain ⟨nodup, members, busy, assigned⟩ := pool
    refine ⟨hq ▸ nodup, fun c => ?_, fun hn r => ?_, fun r c => ?_⟩
    · rw [hq, hs c]; exact members c
    · rw [(hr r).1]; exact busy (hq ▸ hn) r
    · rw [(hr r).2, hs c]; exact assigned r c
  · rw [hs c]
    exact ⟨rfl, rfl⟩

/-- A step that leaves the call state and the deliveries. -/
theorem State.Sound.same (h : s.Sound F) (hc : t.calls = s.calls) (hd : t.deliveries = s.deliveries) : t.Sound F :=
  h.congr (fun c => by rw [hc]) (fun r => by rw [hc]; exact ⟨rfl, rfl⟩) (by rw [hc]) hd

theorem State.Sound.mail (s : State) (f : Mailbox → Mailbox) (h : s.Sound F) : (s.mail f).Sound F :=
  h.same (by simp) (by simp)

/-- A group changed. -/
theorem State.Sound.group (h : s.Sound F) (g : GroupIx) (f : Group → Group) : (withGroup g f s).state.Sound F :=
  h.congr (fun _ => rfl) (fun _ => ⟨rfl, rfl⟩) rfl rfl

/-! ### Events -/

/-- The close of an event drops every digit that is no longer awaited (R65). -/
theorem State.close_sound {k : Calls} (h : k.Lawful) : (s.close k).Sound F := by
  refine .of_lawful (by simpa using h) fun _ r c d hv => ?_
  rw [State.close_deliveries] at hv
  have := (List.mem_filter.mp hv).2
  simpa [Calls.awaits] using this

/-- A delivery is taken, or left in flight (log 1). -/
theorem State.hand_sound (h : s.calls.Lawful) (hf : F → s.flightLaw) (t : Taking) {v : Delivery}
    (hv : ∀ r c d, v = .digit r c d → (s.calls.ses c).state = .collecting ∧ (s.calls.ses c).receiver = some r) :
    (s.hand t v).Sound F := by
  unfold State.hand
  split
  · exact State.close_sound (h.takeDelivery ..)
  · refine .of_lawful h fun hF r c d hm => ?_
    rcases List.mem_append.mp hm with hm | hm
    · exact hf hF r c d hm
    · exact hv r c d (List.mem_singleton.mp hm).symm

theorem State.deliver_sound (h : s.calls.Lawful) (hf : F → s.flightLaw) (t : Taking) (c : Chan) (ev : Option LineEvent) :
    (s.deliver t c ev).Sound F := by
  unfold State.deliver
  split
  · exact State.hand_sound h hf t fun r c d hv => nomatch hv
  · exact .of_lawful h hf

/-- A battery qualifier changes nothing that the laws read. -/
theorem Calls.Lawful.setBatt {k : Calls} (h : k.Lawful) (c : Chan) (q : BattQual) : (k.setBatt c q).Lawful :=
  h.congr rfl rfl rfl rfl rfl

theorem State.route_sound (h : s.calls.Lawful) (hf : F → s.flightLaw) (t : Taking) (r : Report) : (s.route t r).Sound F := by
  have hs : s.Sound F := .of_lawful h hf
  unfold State.route
  split
  case h_1 => exact State.deliver_sound (s := s.setLoopQ _ _) h hf t _ _
  case h_2 => exact hs.same rfl rfl
  case h_3 => exact .of_lawful (h.setBatt ..) hf
  all_goals exact hs

/-- The TONE_ON_MIN expiry: the digit is of the collection that its receiver is lent to (R62, R64). -/
theorem State.toneOn_sound (h : s.calls.Lawful) (hf : F → s.flightLaw) (t : Taking) (r : RxIx) :
    (s.toneOn t r).Sound F := by
  have h1 : (s.calls.setRx r { s.calls.rx r with state := .digit, timer := none }).Lawful := h.works rfl rfl
  unfold State.toneOn
  dsimp only
  split
  · next c d hc _ =>
    refine State.hand_sound (s := { s with calls := _ }) h1 hf t fun r' c' d' hv => ?_
    cases hv
    exact Session.bond_eq_collects.mp ((h.web .collect r c).mp hc)
  · exact .of_lawful h1 hf

/-- An indication keeps a receiver for its channel (R61). -/
theorem State.indication_sound (h : s.calls.Lawful) (hf : F → s.flightLaw) (r : RxIx) (slot : Chan) (ind : Option Digit) :
    (s.indication r slot ind).Sound F := by
  unfold State.indication
  split
  · next ha =>
    have hst : (s.calls.rx r).state.assigned = true := by
      cases hn : (s.calls.rx r).state.assigned with
      | true => rfl
      | false => cases (h.bound.spare r hn).symm.trans ha
    obtain ⟨h1, h2, -⟩ := Receiver.indicate_keeps s.params.current ind _ hst
    exact .of_lawful (h.works h2 h1) hf
  · exact .of_lawful h hf

theorem State.expire_sound (h : s.calls.Lawful) (hf : F → s.flightLaw) {kind : TimerKind} {c : Chan}
    {f : Env → Chan → Calls → Calls} (hk : kind.runsIn (s.calls.ses c).state = true → (f s.env c s.calls).Lawful) :
    (s.expire kind c f).Sound F := by
  unfold State.expire
  split
  · next hd =>
    unfold Session.due at hd
    rw [Bool.and_eq_true] at hd
    exact State.close_sound (hk hd.2)
  · exact .of_lawful h hf

/-! ### Bodies of commands -/

theorem withSessions_sound {k : Calls} (h : k.Lawful) (c : Chan) (d : Option Chan) : (withSessions c d k s).state.Sound F := by
  rw [withSessions_state]
  exact State.close_sound h

theorem configureBody_sound (h : s.calls.Lawful) (hf : F → s.flightLaw) (hq : s.quietLaw) (a : ConfigArgs) :
    (configureBody a s).state.Sound F := by
  unfold configureBody
  split
  · exact .of_lawful h hf
  · next hn =>
    have ha : (s.calls.ses a.chan).active = false := by
      by_cases hr : s.op = .run
      · simpa [hr] using hn
      · have := (hq hr).1 a.chan
        by_contra hc
        exact ((Session.active_iff _).mp (by simpa using hc)).elim fun h1 h2 => this.elim h1 h2
    have hl := h.configured ha
    have hses : ∀ c, ((s.calls.alter a.chan (Session.configured a)).ses c).state = (s.calls.ses c).state ∧
        ((s.calls.alter a.chan (Session.configured a)).ses c).receiver = (s.calls.ses c).receiver := fun c => by
      rw [Calls.ses_alter]
      split
      · next e => subst e; exact ⟨rfl, rfl⟩
      · exact ⟨rfl, rfl⟩
    rw [carried_state]
    unfold State.configure
    dsimp only
    split
    · exact .of_lawful hl fun hF => State.flightLaw_congr (hf hF) rfl hses
    · refine .of_lawful ?_ fun hF => State.flightLaw_congr (hf hF) ?_ ?_
      · simp only [State.reclassed, State.kick_calls]
        exact (hl.setBatt ..).setOut ..
      · simp [State.reclassed]
      · simpa [State.reclassed] using hses

theorem stopBody_sound (h : s.calls.Lawful) : (stopBody () s).state.Sound F :=
  (State.close_sound (s := { s with op := .stopping }) h.stopAll).same (by simp [stopBody]) (by simp [stopBody])

theorem receiverServiceBody_sound (h : s.calls.Lawful) (a : RxIx × Bool) : (receiverServiceBody a s).state.Sound F := by
  refine State.close_sound ?_
  split
  · exact h.putInService ..
  · exact h.withdraw ..

theorem holdBody_sound (h : s.calls.Lawful) (hf : F → s.flightLaw) (c : Chan) : (holdBody c s).state.Sound F := by
  unfold holdBody
  split
  · next hp => exact withSessions_sound (h.consult hp _) ..
  · exact .of_lawful h hf

theorem retrieveBody_sound (h : s.calls.Lawful) (hf : F → s.flightLaw) (c : Chan) : (retrieveBody c s).state.Sound F := by
  unfold retrieveBody
  split
  · next hp => exact withSessions_sound (h.returnToHeld hp _) ..
  · exact .of_lawful h hf

theorem transferBody_sound (h : s.calls.Lawful) (hf : F → s.flightLaw) (c : Chan) : (transferBody c s).state.Sound F := by
  unfold transferBody
  split
  · next p hp =>
    refine withSessions_sound (h.transfer (fun hr => ?_) ?_ _) ..
    · have := (h.fits c).holds_none (.inl (by simp [hr, SState.holder]))
      simp [this] at hp
    · simp [(h.fits c).holder (by simp [hp])]
  · exact .of_lawful h hf

theorem dropBody_sound (h : s.calls.Lawful) (hf : F → s.flightLaw) (c : Chan) : (dropBody c s).state.Sound F := by
  have hd : (s.calls.ses c).state ≠ .ringing → (s.calls.ses c).state ≠ .idle ∧ (s.calls.ses c).state ≠ .blocked →
      (withSessions c none (s.calls.dropSession s.env c) s).state.Sound F := fun hr hs =>
    withSessions_sound (h.dropSession hr ((h.fits c).used hs) _) ..
  unfold dropBody
  split
  case h_1 | h_2 | h_3 => exact .of_lawful h hf
  case h_4 hs => exact withSessions_sound (h.dropRinging hs _) ..
  all_goals
    next hs => exact hd (by simp [hs]) (by simp [hs])

theorem placeBody_sound (h : s.calls.Lawful) (hf : F → s.flightLaw) (a : Chan × PlaceOn) : (placeBody a s).state.Sound F := by
  unfold placeBody
  split
  · next hm =>
    have hs : (s.calls.ses a.1).state = .hostwait := by
      unfold Calls.mayPlace at hm
      simp only [Bool.and_eq_true, beq_iff_eq] at hm
      exact hm.1
    have hl := h.loose (c := a.1) (by simp [hs, SState.plain])
    have hc := (h.fits a.1).used (by simp [hs])
    split
    · exact withSessions_sound (hl.huntFresh _ _ hc) ..
    · split
      · next d hr =>
        refine withSessions_sound (hl.placeDirect _ hc ?_) ..
        unfold Calls.mayReach at hr
        simp only [Bool.and_eq_true, bne_iff_ne] at hr
        exact hr.1.1.symm
      · exact .of_lawful h hf
  · exact .of_lawful h hf

/-- Two channels in HOSTWAIT are connected (R154). -/
theorem Calls.Lawful.connect {k : Calls} (h : k.Lawful) {a b : Chan} (ha : (k.ses a).state = .hostwait)
    (hb : (k.ses b).state = .hostwait) (hne : a ≠ b) : (k.pair a b).Lawful := by
  have hf : ∀ d, (k.ses d).state = .hostwait → k.bonds d = .free := fun d hd =>
    Session.bond_eq_free.mpr (by simp [hd, SState.plain])
  exact ⟨_, (h.bound.loosen (ds := [a, b]) (by simp)).pair (hf a ha) (hf b hb) hne ((h.fits a).used (by simp [ha]))
    ((h.fits b).used (by simp [hb]))⟩

theorem connectBody_sound (h : s.calls.Lawful) (hf : F → s.flightLaw) {a : Chan × Chan} (hne : a.1 ≠ a.2) :
    (connectBody a s).state.Sound F := by
  unfold connectBody
  split
  · next hs => exact withSessions_sound (h.connect hs.1 hs.2 hne) ..
  · exact .of_lawful h hf

theorem readTwoChans_ne {p : Params} {a : Chan × Chan} (h : readTwoChans p = some a) : a.1 ≠ a.2 := by
  unfold readTwoChans at h
  split at h
  · split at h
    · cases h
    · next hn => cases h; exact hn
  · cases h

theorem conferenceBody_sound (h : s.calls.Lawful) (hf : F → s.flightLaw) (c : Chan) : (conferenceBody c s).state.Sound F := by
  unfold conferenceBody
  split
  · exact .of_lawful h hf
  · next x p hp =>
    split
    · exact .of_lawful h hf
    · next b hb => exact State.close_sound (h.formBridge hp hb)

theorem joinBody_sound (h : s.calls.Lawful) (hf : F → s.flightLaw) (a : BridgeIx × Chan) : (joinBody a s).state.Sound F := by
  unfold joinBody
  split
  · exact .of_lawful h hf
  · next hl =>
    split
    · exact .of_lawful h hf
    · next hb =>
      split
      · next hj => exact State.close_sound (h.joinBridge hb hl hj)
      · exact .of_lawful h hf

theorem blockBody_sound (h : s.calls.Lawful) (hf : F → s.flightLaw) (c : Chan) : (blockBody c s).state.Sound F := by
  unfold blockBody
  split
  · next hs =>
    have hn : (s.calls.ses c).holds = none := (h.fits c).holds_none (.inl (by simp [hs, SState.holder]))
    exact withSessions_sound ((h.loose (by simp [hs, SState.plain])).toBlocked hn) ..
  · exact .of_lawful h hf

theorem Calls.Lawful.enterIdle {k : Calls} {c : Chan} (h : k.Lawful) (hp : (k.ses c).state.plain = true)
    (hn : (k.ses c).holds = none) (e : Env) : (k.enterIdle e c).Lawful := ((h.loose hp).toIdle hn).idleStages ..

theorem restoreBody_sound (h : s.calls.Lawful) (hf : F → s.flightLaw) (c : Chan) : (restoreBody c s).state.Sound F := by
  unfold restoreBody
  split
  · next hs =>
    have hn : (s.calls.ses c).holds = none := (h.fits c).holds_none (.inl (by simp [hs, SState.holder]))
    exact withSessions_sound (h.enterIdle (by simp [hs, SState.plain]) hn _) ..
  · exact .of_lawful h hf

/-! ### Expiries -/

theorem collectionExpiry_sound (h : s.calls.Lawful) (hf : F → s.flightLaw) {kind : TimerKind} (c : Chan)
    (hk : kind.runsIn (s.calls.ses c).state = true → (s.calls.ses c).state = .collecting) :
    (s.expire kind c Calls.collectionExpiry).Sound F :=
  State.expire_sound h hf fun hs => h.actOn (hk hs) _ _

theorem rxWaitExpiry_sound (h : s.calls.Lawful) (hf : F → s.flightLaw) (c : Chan) :
    (s.expire .rxWait c Calls.rxWaitEnd).Sound F :=
  State.expire_sound h hf fun _ => (h.alterDigits c rfl).raise ..

theorem toneoutExpiry_sound (h : s.calls.Lawful) (hf : F → s.flightLaw) (c : Chan) :
    (s.expire .toneout c fun _ => Calls.toLockout).Sound F :=
  State.expire_sound h hf fun hs => by
    have hs : (s.calls.ses c).state = .toneout := by simpa [TimerKind.runsIn] using hs
    exact (h.loose (by simp [hs, SState.plain])).toLockout ((h.fits c).station (by simp [hs]))

theorem guardExpiry_sound (h : s.calls.Lawful) (hf : F → s.flightLaw) (c : Chan) :
    (s.expire .guard c Calls.enterIdle).Sound F :=
  State.expire_sound h hf fun hs => by
    have hs : (s.calls.ses c).state = .releasing := by simpa [TimerKind.runsIn] using hs
    exact h.enterIdle (by simp [hs, SState.plain]) ((h.fits c).holds_none (.inl (by simp [hs, SState.holder]))) _

/-! ### The step -/

theorem State.reset_sound (q : List Instr) (x : Highway) :
    ({ State.reset with pending := q, highway := x } : State).Sound F := by
  obtain ⟨fits, partners, pool, -⟩ := State.reset_recordsLaw
  exact ⟨fits, partners, pool, fun _ r c d hv => nomatch hv⟩

/-- Every command leaves the records and the receivers in step. -/
theorem exec_sound (i : Instr) (h : exec i s = .next t) (hl : s.calls.Lawful) (hq : s.quietLaw)
    (hf : F → s.flightLaw) : t.Sound F := by
  have hs : s.Sound F := .of_lawful hl hf
  have same : ∀ {u : State}, u.calls = s.calls → u.deliveries = s.deliveries → u.Sound F := fun hc hd => hs.same hc hd
  have taken : ∀ {α : Type} {cmd : Cmd} {allowed : OpState → Bool} {args : Params → Option α} {body : α → State → Reply}
      {t : State}, takeCommand cmd (checked allowed args body) s = .next t →
      (∀ p a, args p = some a → (body a s).state.Sound F) → t.Sound F := fun h hb =>
    takeCommand_keeps State.Sound.mail hs (fun p => checked_keeps hs fun a ha _ => hb p a ha) h
  cases i with
  | hardwareReset =>
    dsimp only [exec, execHardwareReset] at h
    injection h with h; subst h; exact State.reset_sound ..
  | resetEnd =>
    dsimp only [exec, execResetEnd] at h
    injection h with h; subst h
    split
    · exact same (by simp) (by simp)
    · exact hs
  | conditionReport byte0 byte1 stop start x =>
    dsimp only [exec, execConditionReport] at h
    refine awake_keeps hs ?_ h
    split
    · split
      · exact State.route_sound hl hf _ _
      · exact same (by simp) (by simp)
    · exact hs
  | frameCompletion =>
    dsimp only [exec, execFrameCompletion] at h
    refine awake_keeps hs ?_ h
    split
    · exact same (by simp) (by simp)
    · exact hs
  | frameSync v x =>
    refine awake_keeps hs ?_ h
    obtain ⟨w, e⟩ := s.highwayFrame_same v x
    rw [e]
    exact same rfl rfl
  | toneStepEnd x =>
    refine awake_keeps hs ?_ h
    unfold State.toneStep
    dsimp only
    split
    · exact same rfl rfl
    · exact hs
  | detectorIndication r ind => exact awake_keeps hs (State.indication_sound hl hf ..) h
  | toneOnMinExpiry r x =>
    dsimp only [exec, execToneOnMinExpiry] at h
    refine awake_keeps hs ?_ h
    split
    · exact State.toneOn_sound hl hf x r
    · exact hs
  | toneGapMinExpiry r =>
    dsimp only [exec, execToneGapMinExpiry] at h
    refine awake_keeps hs ?_ h
    split
    · exact .of_lawful hl.toneGap hf
    · exact hs
  | seizeQualExpiry c x =>
    refine awake_keeps hs ?_ h
    unfold State.seizeQual
    dsimp only
    split
    · exact State.deliver_sound (s := s.setLoopQ _ _) hl hf ..
    · exact hs
  | flashMaxExpiry c x =>
    refine awake_keeps hs ?_ h
    unfold State.flashMax
    dsimp only
    split
    · exact State.deliver_sound (s := s.setLoopQ _ _) hl hf ..
    · exact hs
  | pulseMakeEndExpiry c x =>
    refine awake_keeps hs ?_ h
    unfold State.pulseMakeEnd
    dsimp only
    split
    · exact State.deliver_sound (s := s.setLoopQ _ _) hl hf ..
    · exact hs
  | burstTimerExpiry c x =>
    refine awake_keeps hs ?_ h
    unfold State.burstEnd
    dsimp only
    split
    · split
      · exact State.deliver_sound (s := s.setRingQ _ _) hl hf ..
      · exact same rfl rfl
      all_goals exact hs
    · exact hs
  | gapTimerExpiry c x =>
    refine awake_keeps hs ?_ h
    unfold State.gapEnd
    dsimp only
    split
    · exact State.deliver_sound (s := s.setRingQ _ _) hl hf ..
    · exact hs
  | battSeizeQualExpiry c x =>
    refine awake_keeps hs ?_ h
    unfold State.battOn
    split
    · exact State.deliver_sound (s := { s with calls := _ }) (hl.setBatt ..) hf ..
    · exact hs
  | farOpenMinExpiry c x =>
    refine awake_keeps hs ?_ h
    unfold State.farOpen
    split
    · exact State.deliver_sound (s := { s with calls := _ }) (hl.setBatt ..) hf ..
    · exact hs
  | firstDigitExpiry c =>
    exact awake_keeps hs (State.expire_sound hl hf fun hk => hl.endReorder (by simpa [TimerKind.runsIn] using hk) _) h
  | interdigitExpiry c => exact awake_keeps hs (collectionExpiry_sound hl hf c (by simp [TimerKind.runsIn])) h
  | overlapExpiry c => exact awake_keeps hs (collectionExpiry_sound hl hf c (by simp [TimerKind.runsIn])) h
  | rxWaitExpiry c => exact awake_keeps hs (rxWaitExpiry_sound hl hf c) h
  | cadenceExpiry c => 
    exact awake_keeps hs (State.expire_sound (kind := .cadence) (c := c) hl hf fun hk => hl.cadence hk _) h
  | queueWaitExpiry c =>
    exact awake_keeps hs (State.expire_sound hl hf fun hk => hl.queueOut (by simpa [TimerKind.runsIn] using hk) _) h
  | toneoutExpiry c => exact awake_keeps hs (toneoutExpiry_sound hl hf c) h
  | guardExpiry c => exact awake_keeps hs (guardExpiry_sound hl hf c) h
  | seizeWaitExpiry c =>
    exact awake_keeps hs (State.expire_sound hl hf fun hk => hl.seizeFailed (by simpa [TimerKind.runsIn] using hk) _) h
  | cutThroughExpiry c =>
    exact awake_keeps hs (State.expire_sound hl hf fun hk => hl.cutThrough (by simpa [TimerKind.runsIn] using hk)) h
  | statusRead =>
    dsimp only [exec, execStatusRead] at h
    refine awake_keeps hs ?_ h
    exact same (by simp) (by simp)
  | paramWrite k b =>
    refine awake_keeps hs ?_ h
    exact same (by simp) (by simp)
  | resultRead k =>
    dsimp only [exec, execResultRead] at h
    refine awake_keeps hs ?_ h
    exact same (by simp) (by simp)
  | completionRead =>
    dsimp only [exec, execCompletionRead] at h
    refine awake_keeps hs ?_ h
    exact same (by simp) (by simp)
  | controlWrite b =>
    dsimp only [exec, execControlWrite] at h
    refine awake_keeps hs ?_ h
    exact same rfl rfl
  | ignoredRegisterWrite a b => exact awake_keeps hs hs h
  | unknown code =>
    refine awake_keeps hs ?_ h
    exact same (by simp) (by simp)
  | commandOffer code =>
    refine awake_keeps hs ?_ h
    exact same (by simp) (by simp)
  | start => exact taken h fun _ _ _ => State.close_sound (hl.takeUp _)
  | stop => exact taken h fun _ _ _ => stopBody_sound hl
  | setParam => exact taken h fun _ _ _ => same rfl rfl
  | applyParams =>
    refine taken h fun _ _ _ => ?_
    unfold applyParamsBody
    split
    · exact same rfl rfl
    · exact hs
  | setNoticeMask => exact taken h fun _ _ _ => same rfl rfl
  | configureChannel => exact taken h fun _ a _ => configureBody_sound hl hf hq a
  | block => exact taken h fun _ c _ => blockBody_sound hl hf c
  | restore => exact taken h fun _ c _ => restoreBody_sound hl hf c
  | readParam => exact taken h fun _ _ _ => hs
  | readSession => exact taken h fun _ _ _ => hs
  | readDigits => exact taken h fun _ _ _ => hs
  | readGroup => exact taken h fun _ _ _ => hs
  | readBridge => exact taken h fun _ _ _ => hs
  | writeEntry =>
    refine taken h fun _ a _ => ?_
    unfold writeEntryBody
    split
    · exact hs
    · exact same rfl rfl
  | clearEntry => exact taken h fun _ _ _ => same rfl rfl
  | writeGroup => exact taken h fun _ _ _ => hs.group ..
  | setMembers =>
    refine taken h fun _ a _ => ?_
    unfold setMembersBody
    split
    · exact hs.group ..
    · exact hs
  | addMember =>
    refine taken h fun _ a _ => ?_
    unfold addMemberBody
    dsimp only
    split
    · exact hs
    · split
      · exact hs
      · exact hs.group ..
  | dropMember =>
    refine taken h fun _ a _ => ?_
    unfold dropMemberBody
    split
    · exact hs.group ..
    · exact hs
  | receiverService => exact taken h fun _ a _ => receiverServiceBody_sound hl a
  | hold => exact taken h fun _ c _ => holdBody_sound hl hf c
  | retrieve => exact taken h fun _ c _ => retrieveBody_sound hl hf c
  | transfer => exact taken h fun _ c _ => transferBody_sound hl hf c
  | drop => exact taken h fun _ c _ => dropBody_sound hl hf c
  | place => exact taken h fun _ a _ => placeBody_sound hl hf a
  | connect => exact taken h fun _ a ha => connectBody_sound hl hf (readTwoChans_ne ha)
  | setListen =>
    refine taken h fun _ a _ => ?_
    unfold setListenBody
    split
    · exact .of_lawful (hl.setListen ..) hf
    · exact hs
  | conference => exact taken h fun _ c _ => conferenceBody_sound hl hf c
  | join => exact taken h fun _ a _ => joinBody_sound hl hf a
  | takeNotices =>
    refine taken h fun _ n _ => ?_
    unfold takeNoticesBody
    split
    · exact .of_lawful (hl.congr rfl rfl rfl rfl rfl) hf
    · exact same rfl rfl
  | setWatch => exact taken h fun _ _ _ => same rfl rfl
  | armWatch => exact taken h fun _ _ _ => same rfl rfl
  | disarmWatch => exact taken h fun _ _ _ => same rfl rfl

/-- Every step leaves the records and the receivers in step. -/
theorem step_sound (h : step s = .next t) (hl : s.calls.Lawful) (hq : s.quietLaw) : t.Sound s.flightLaw := by
  have hs : s.Sound s.flightLaw := .of_lawful hl id
  unfold step at h
  split at h
  · injection h with h
    subst h
    unfold State.idleStep
    split
    · exact hs
    · split
      · exact State.close_sound (hl.takeDelivery ..)
      · next c _ _ =>
        obtain ⟨w, e⟩ := s.nextSlot_same c
        rw [e]
        exact hs.same rfl rfl
      · split
        · exact hs.congr (fun c => by rw [State.tick_ses]) (fun r => by rw [State.tick_rx]; exact ⟨rfl, rfl⟩)
            (State.tick_rxQueue s) (State.tick_deliveries s)
        · exact hs.same rfl rfl
  · exact exec_sound _ h hl hq id

end

/-- Settles O57: the ties of the records, moved by each operation as R12 says, keep the laws of partners. -/
theorem everyStepKeepsThePartnersInStep : Obligations.EveryStepKeepsThePartnersInStep := by
  unfold Obligations.EveryStepKeepsThePartnersInStep
  intro s t h hq hr hg hs
  have := step_sound h (State.lawful_of_laws hr hg hs) hq
  exact ⟨this.fits, this.partners⟩

/-- Settles O58: the same ties, for the wait queue and the receivers; and the close of each event drops what is no longer
awaited. -/
theorem everyStepKeepsTheReceiversInStep : Obligations.EveryStepKeepsTheReceiversInStep := by
  unfold Obligations.EveryStepKeepsTheReceiversInStep
  intro s t h hq hr hg hs
  have := step_sound h (State.lawful_of_laws hr hg hs) hq
  exact ⟨this.pool, this.flight⟩

end Sys2Proof.Machine
end

section
/-! The timebase: what a step does on an empty queue, and which commands time makes due. -/

namespace Sys2Proof.Machine

/-! ### The step on an empty queue -/

theorem step_idle {s : State} (h : s.pending = []) : step s = .next s.idleStep := by
  unfold step
  rw [h]

theorem State.idleStep_of_tick {s : State} (hr : s.resetAsserted = false) (hd : s.deliveries = [])
    (hs : s.highway.slot = none) (hn : s.dueCommands = []) : s.idleStep = s.tick := by
  simp [State.idleStep, hr, hd, hs, hn]

/-- What one millisecond leaves unchanged. -/
theorem State.tick_eq (s : State) : s.tick = { s with
    now := s.tick.now
    loopQ := s.tick.loopQ
    ringQ := s.tick.ringQ
    tones := s.tick.tones
    calls := { s.calls with
      sessions := s.tick.calls.sessions, battQ := s.tick.calls.battQ, receivers := s.tick.calls.receivers } } := by
  unfold State.tick
  rfl

theorem State.tick_loopQ (s : State) (c : Chan) :
    look s.tick.loopQ c = { look s.loopQ c with timer := (look s.loopQ c).timer.map fun x => (x.1, x.2 - 1) } := by
  simp only [State.tick, look_every]
  rfl

theorem State.tick_ringQ (s : State) (c : Chan) : look s.tick.ringQ c = { look s.ringQ c with
    burst := (look s.ringQ c).burst.map (· - 1), gap := (look s.ringQ c).gap.map (· - 1) } := by
  simp only [State.tick, look_every]

theorem State.tick_tones (s : State) (i : Fin 5) :
    look s.tick.tones i = { look s.tones i with left := (look s.tones i).left.map (· - 1) } := by
  simp only [State.tick, look_every]

/-- Settles O2: the branches of `State.idleStep`, and the timers that a millisecond counts. -/
theorem emptyQueueRunsTheTimebase : Obligations.EmptyQueueRunsTheTimebase := by
  unfold Obligations.EmptyQueueRunsTheTimebase
  intro s hp
  rw [step_idle hp]
  refine ⟨fun hr => ?held, fun v rest hr hd => ?flying, fun hr hd hs => ?slot, fun hr hd hs hn => ?due,
    fun hr hd hs hn => ?tick⟩
  case held => simp [State.idleStep, hr]
  case flying =>
    have hi : s.idleStep = s.takeFlying v rest := by simp [State.idleStep, hr, hd]
    rw [hi]
    rfl
  case slot =>
    obtain ⟨c, hc⟩ := Option.ne_none_iff_exists'.mp hs
    obtain ⟨w, hw⟩ := s.nextSlot_same c
    refine ⟨s.nextSlot c, by simp [State.idleStep, hr, hd, hc], ?_⟩
    rw [hw]
  case due =>
    unfold State.idleStep
    simp only [hr, hd, hs]
    split
    · contradiction
    · rfl
  case tick =>
    rw [State.idleStep_of_tick hr hd hs hn]
    exact ⟨_, rfl, rfl, fun c => ⟨s.tick_ses c, s.tick_loopQ c, s.tick_ringQ c, s.tick_batt c⟩, s.tick_rx, s.tick_tones,
      s.tick_eq⟩

/-! ### The commands that are due -/

theorem mem_whenDue {b : Bool} {i j : Instr} : j ∈ whenDue b i ↔ b = true ∧ j = i := by
  unfold whenDue
  split <;> simp_all

/-- What is due at a channel, one way for each expiry of its qualifiers and of its record. -/
theorem State.mem_dueAt {s : State} {c : Chan} {i : Instr} : i ∈ s.dueAt c ↔
    ((look s.loopQ c).due .seizeTiming .seizeQual = true ∧ i = .seizeQualExpiry c .now) ∨
    ((look s.loopQ c).due .openTiming .flashMax = true ∧ i = .flashMaxExpiry c .now) ∨
    ((look s.loopQ c).due .offhook .pulseMakeEnd = true ∧ i = .pulseMakeEndExpiry c .now) ∨
    ((look s.ringQ c).burstDue = true ∧ i = .burstTimerExpiry c .now) ∨
    ((look s.ringQ c).gapDue = true ∧ i = .gapTimerExpiry c .now) ∨
    (s.calls.batt c = ⟨.timing, some 0⟩ ∧ i = .battSeizeQualExpiry c .now) ∨
    (s.calls.batt c = ⟨.dropTiming, some 0⟩ ∧ i = .farOpenMinExpiry c .now) ∨
    ((s.calls.ses c).due .firstDigit = true ∧ i = .firstDigitExpiry c) ∨
    ((s.calls.ses c).due .interdigit = true ∧ i = .interdigitExpiry c) ∨
    ((s.calls.ses c).due .overlap = true ∧ i = .overlapExpiry c) ∨
    ((s.calls.ses c).due .rxWait = true ∧ i = .rxWaitExpiry c) ∨
    ((s.calls.ses c).due .cadence = true ∧ i = .cadenceExpiry c) ∨
    ((s.calls.ses c).due .queueWait = true ∧ i = .queueWaitExpiry c) ∨
    ((s.calls.ses c).due .toneout = true ∧ i = .toneoutExpiry c) ∨
    ((s.calls.ses c).due .guard = true ∧ i = .guardExpiry c) ∨
    ((s.calls.ses c).due .seizeWait = true ∧ i = .seizeWaitExpiry c) ∨
    ((s.calls.ses c).due .cutThrough = true ∧ i = .cutThroughExpiry c) := by
  unfold State.dueAt
  simp only [List.mem_append, mem_whenDue, beq_iff_eq, or_assoc]

theorem State.mem_dueAtReceiver {s : State} {r : RxIx} {i : Instr} : i ∈ s.dueAtReceiver r ↔
    ((s.calls.rx r).onDue = true ∧ i = .toneOnMinExpiry r .now) ∨
      ((s.calls.rx r).gapDue = true ∧ i = .toneGapMinExpiry r) := by
  unfold State.dueAtReceiver
  simp only [List.mem_append, mem_whenDue]

theorem Cmd.ofCode_eq_some {b : Byte} {cmd : Cmd} : Cmd.ofCode b = some cmd ↔ cmd.code = b := by
  constructor
  · intro h
    simpa using List.find?_some h
  · rintro rfl
    cases cmd <;> decide

/-- The row of the command in flight is due (log 25). -/
theorem State.mem_dueTaking {s : State} {i : Instr} : i ∈ s.dueTaking ↔
    ∃ (cmd : Cmd) (p : Params), s.mbox.inFlight = some ⟨cmd.code, p⟩ ∧ i = cmd.row := by
  unfold State.dueTaking
  cases hf : s.mbox.inFlight with
  | none => simp
  | some f =>
    simp only [Option.mem_toList, Option.map_eq_some_iff, Cmd.ofCode_eq_some, Option.some.injEq]
    constructor
    · rintro ⟨cmd, hc, rfl⟩
      exact ⟨cmd, f.params, by rw [hc], rfl⟩
    · rintro ⟨cmd, p, rfl, rfl⟩
      exact ⟨cmd, rfl, rfl⟩

theorem State.mem_dueCommands {s : State} {i : Instr} : i ∈ s.dueCommands ↔
    (s.link.flight ≠ none ∧ i = .frameCompletion) ∨
    (∃ x, (look s.tones (toneIx x)).left = some 0 ∧ i = .toneStepEnd x) ∨
    (∃ r, i ∈ s.dueAtReceiver r) ∨ (∃ c, i ∈ s.dueAt c) ∨ i ∈ s.dueTaking := by
  unfold State.dueCommands
  have ht : ∀ x : Tone, x ∈ allTones := fun x => by cases x <;> decide
  simp only [List.mem_append, mem_whenDue, List.mem_flatMap, ht, true_and, mem_allChans, beq_iff_eq, or_assoc,
    Option.isSome_iff_ne_none, allReceivers, List.mem_finRange]

/-- The rows that only time makes due: a timer's end, the end of a frame or of a tone step. -/
def timedRow : Instr → Bool
  | .frameCompletion | .toneStepEnd _ | .toneOnMinExpiry _ _ | .toneGapMinExpiry _ | .seizeQualExpiry _ _
  | .flashMaxExpiry _ _ | .pulseMakeEndExpiry _ _ | .burstTimerExpiry _ _ | .gapTimerExpiry _ _
  | .battSeizeQualExpiry _ _ | .farOpenMinExpiry _ _ | .firstDigitExpiry _ | .interdigitExpiry _ | .overlapExpiry _
  | .rxWaitExpiry _ | .cadenceExpiry _ | .queueWaitExpiry _ | .toneoutExpiry _ | .guardExpiry _ | .seizeWaitExpiry _
  | .cutThroughExpiry _ => true
  | _ => false

/-- No command's row is one of them. -/
theorem Cmd.row_untimed (cmd : Cmd) : timedRow cmd.row = false := by cases cmd <;> rfl

/-- Settles O3: each timed row is due by its own test in `State.dueCommands`, every other row as the taking of the command
in flight. -/
theorem dueCommandsAreThoseRunOut : Obligations.DueCommandsAreThoseRunOut := by
  unfold Obligations.DueCommandsAreThoseRunOut
  intro s i
  rw [State.mem_dueCommands]
  simp only [State.mem_dueAt, State.mem_dueAtReceiver, State.mem_dueTaking]
  by_cases ht : timedRow i = true
  · have hn : ∀ cmd : Cmd, i ≠ cmd.row := fun cmd h => by simp [h, cmd.row_untimed] at ht
    simp only [hn, and_false, exists_false, or_false]
    cases i with
    | frameCompletion => simp
    | toneStepEnd x => simp
    | toneOnMinExpiry r t => simp [Receiver.onDue, and_comm]
    | toneGapMinExpiry r => simp [Receiver.gapDue]
    | seizeQualExpiry c t | flashMaxExpiry c t | pulseMakeEndExpiry c t =>
      simp [LoopQual.due, and_comm]
    | burstTimerExpiry c t => simp [RingQual.burstDue, and_comm]
    | gapTimerExpiry c t => simp [RingQual.gapDue, and_comm]
    | battSeizeQualExpiry c t | farOpenMinExpiry c t => simp [and_comm]
    | firstDigitExpiry c | interdigitExpiry c | overlapExpiry c | rxWaitExpiry c | queueWaitExpiry c | toneoutExpiry c
    | guardExpiry c | seizeWaitExpiry c | cutThroughExpiry c => simp [Session.due, TimerKind.runsIn]
    | cadenceExpiry c => simp [Session.due, TimerKind.runsIn, SState.rings_iff]
    | _ => cases ht
  · cases i with
    | frameCompletion | toneStepEnd _ | toneOnMinExpiry _ _ | toneGapMinExpiry _ | seizeQualExpiry _ _
    | flashMaxExpiry _ _ | pulseMakeEndExpiry _ _ | burstTimerExpiry _ _ | gapTimerExpiry _ _
    | battSeizeQualExpiry _ _ | farOpenMinExpiry _ _ | firstDigitExpiry _ | interdigitExpiry _ | overlapExpiry _
    | rxWaitExpiry _ | cadenceExpiry _ | queueWaitExpiry _ | toneoutExpiry _ | guardExpiry _ | seizeWaitExpiry _
    | cutThroughExpiry _ => exact absurd rfl ht
    | _ => simp

end Sys2Proof.Machine
end

section
/-! Deliveries: when one is taken and when it stays in flight, and the events that mean nothing where they are taken. -/

namespace Sys2Proof.Machine

/-! ### The taking of a delivery -/

theorem State.freshFor_iff (s : State) (v : Delivery) : s.freshFor v ↔ s.deliveries.any v.follows = false := by
  unfold State.freshFor
  rw [List.any_eq_false]
  simp

theorem State.hand_fresh {s : State} {v : Delivery} (h : s.freshFor v) : s.hand .now v = s.close (s.calls.takeDelivery s.env v) :=
  s.hand_now v ((s.freshFor_iff v).mp h)

theorem State.hand_left {t : Taking} {s : State} {v : Delivery} (h : t = .later ∨ ¬s.freshFor v) :
    s.hand t v = { s with deliveries := s.deliveries ++ [v] } := by
  rcases h with rfl | h
  · exact s.hand_later v
  · rw [State.freshFor_iff] at h
    unfold State.hand
    rw [if_neg fun hn => h hn.2]

/-- An event is taken in RUN by a channel of its class, and is nothing elsewhere (R13). -/
theorem Calls.take_eq (e : Env) (c : Chan) (ev : LineEvent) (k : Calls) :
    k.take e c ev = if e.op = .run ∧ (k.ses c).cls = ev.cls then k.event e c ev else k := rfl

/-- An event that does nothing is nothing, taken or not. -/
theorem Calls.take_of_event {e : Env} {c : Chan} {ev : LineEvent} {k : Calls} (h : k.event e c ev = k) :
    k.take e c ev = k := by
  rw [Calls.take_eq, h, ite_self]

theorem Calls.take_of_class {e : Env} {c : Chan} {ev : LineEvent} {k : Calls} (h : (k.ses c).cls ≠ ev.cls) :
    k.take e c ev = k := by
  rw [Calls.take_eq, if_neg fun hn => h hn.2]

theorem Calls.toneDigit_dropped {e : Env} {r : RxIx} {c : Chan} {d : Digit} {k : Calls}
    (h : (k.ses c).state ≠ .collecting ∨ (k.ses c).receiver ≠ some r) : k.toneDigit e r c d = k := by
  unfold Calls.toneDigit
  exact if_neg fun ⟨_, hs, hr⟩ => h.elim (fun h => h hs) fun h => h hr

theorem Calls.pulseDigit_dropped {e : Env} {c : Chan} {d : Digit} {k : Calls}
    (h : (k.ses c).state ≠ .collecting ∨ (k.ses c).digitMode = .tone) : k.pulseDigit e c d = k := by
  unfold Calls.pulseDigit
  exact if_neg fun ⟨_, hs, hm⟩ => h.elim (fun h => h hs) hm

/-- Outside RUN the taking of a delivery does nothing (R13). -/
theorem Calls.takeDelivery_quiet {e : Env} (h : e.op ≠ .run) (v : Delivery) (k : Calls) : k.takeDelivery e v = k := by
  cases v with
  | event c ev =>
    show k.take e c ev = k
    rw [Calls.take_eq, if_neg fun hn => h hn.1]
  | digit r c d =>
    show k.toneDigit e r c d = k
    unfold Calls.toneDigit
    exact if_neg fun hn => h hn.1

/-- What stays in flight over the close of an event (R49, R65, R67). -/
theorem State.mem_close_deliveries {s : State} {k : Calls} {v : Delivery} : v ∈ (s.close k).deliveries ↔
    v ∈ s.deliveries ∧ (∀ r c d, v = .digit r c d → (k.ses c).state = .collecting ∧ (k.ses c).receiver = some r) ∧
      ∀ c, v = .event c .battOn ∨ v = .event c .farOpen → (k.ses c).state = .seizing → (s.calls.ses c).state = .seizing := by
  rw [State.close_deliveries, List.mem_filter]
  refine and_congr_right fun _ => ?_
  cases v with
  | digit r c d =>
    rw [Calls.awaits_digit]
    simp
  | event c ev =>
    rw [Calls.awaits_event]
    cases ev <;> simp [LineEvent.ofBattery]

/-- The TONE_ON_MIN expiry of an assigned receiver (R62, R64). -/
theorem exec_toneOnMinExpiry {t : Taking} {r : RxIx} {c : Chan} {d : Digit} {s : State} (hr : s.resetAsserted = false)
    (hs : (s.calls.rx r).state = .onset) (ht : (s.calls.rx r).timer = some (.toneOnMin, 0))
    (ha : (s.calls.rx r).assigned = some c) (hd : (s.calls.rx r).current = some d) :
    exec (.toneOnMinExpiry r t) s = .next (({ s with calls := { s.calls with
      receivers := put s.calls.receivers r { s.calls.rx r with state := .digit, timer := none } } }).hand t
        (.digit r c d)) := by
  have hdue : (s.calls.rx r).onDue = true := by simp [Receiver.onDue, hs, ht]
  simp only [exec, execToneOnMinExpiry, awake_on _ hr, hdue, if_true, State.toneOn, ha, hd]
  rfl

/-- Settles O4: each clause by the lemma about its operation. -/
theorem deliveriesAreTakenNowOrLater : Obligations.DeliveriesAreTakenNowOrLater := by
  unfold Obligations.DeliveriesAreTakenNowOrLater
  refine ⟨fun t v s => ⟨?now, State.hand_left⟩, fun t c ev s => ⟨rfl, rfl⟩,
    fun t r c d s hr hs ht ha hd => exec_toneOnMinExpiry hr hs ht ha hd,
    fun e v k h => Calls.takeDelivery_quiet h v k, fun e r c d k h => Calls.toneDigit_dropped h,
    fun e c d k h => Calls.take_of_event (Calls.pulseDigit_dropped h), fun v k s => State.mem_close_deliveries, ?lines,
    fun r q c b d d' ev => ⟨?receivers, rfl, rfl⟩⟩
  case now =>
    rintro rfl hf
    exact State.hand_fresh hf
  case lines =>
    intro c d ev ew
    simp only [Delivery.follows, Bool.and_eq_true, beq_iff_eq]
    refine and_congr_right fun _ => ?_
    cases ev <;> cases ew <;> simp [LineEvent.ofBattery]
  case receivers => simp [Delivery.follows]

/-! ### Events that mean nothing -/

/-- A gated effect has what it has from both of its outcomes. -/
theorem exists_awake {P : State → Prop} {f : State → State} {s : State} (hs : P s) (hf : P (f s)) :
    ∃ u, awake f s = .next u ∧ P u := by
  refine ⟨_, rfl, ?_⟩
  split
  · exact hs
  · exact hf

/-- The records are as before but for the battery qualifiers, and the operating state stands. -/
def State.Unheard (s u : State) : Prop := u.op = s.op ∧ u.calls = { s.calls with battQ := u.calls.battQ }

theorem State.Unheard.refl (s : State) : s.Unheard s := ⟨rfl, rfl⟩

/-- Outside RUN a delivery changes no record, taken or not (R13). -/
theorem State.hand_unheard {s u : State} (h : s.Unheard u) (hop : s.op ≠ .run) (t : Taking) (v : Delivery) :
    s.Unheard (u.hand t v) := by
  obtain ⟨ho, hc⟩ := h
  unfold State.hand
  split
  · rw [Calls.takeDelivery_quiet (e := u.env) (by rw [State.env_op, ho]; exact hop)]
    exact ⟨by simpa using ho, by simpa using hc⟩
  · exact ⟨ho, hc⟩

theorem State.deliver_unheard {s u : State} (h : s.Unheard u) (hop : s.op ≠ .run) (t : Taking) (c : Chan)
    (ev : Option LineEvent) : s.Unheard (u.deliver t c ev) := by
  unfold State.deliver
  split
  · exact State.hand_unheard h hop t _
  · exact h

theorem State.route_unheard {s : State} (hop : s.op ≠ .run) (t : Taking) (r : Report) : s.Unheard (s.route t r) := by
  unfold State.route
  split
  case h_1 => exact State.deliver_unheard (u := s.setLoopQ _ _) ⟨rfl, rfl⟩ hop t _ _
  all_goals exact ⟨rfl, rfl⟩

/-- Outside RUN no expiry of a qualifier changes a record (R13). -/
theorem exec_qualifier_unheard {i : Instr} {c : Chan} {t : Taking} {s : State} (hop : s.op ≠ .run)
    (hi : i ∈ [Instr.seizeQualExpiry c t, .flashMaxExpiry c t, .pulseMakeEndExpiry c t, .burstTimerExpiry c t,
        .gapTimerExpiry c t, .battSeizeQualExpiry c t, .farOpenMinExpiry c t]) :
    ∃ u, exec i s = .next u ∧ s.Unheard u := by
  have hd : ∀ {u : State} (ev : Option LineEvent), s.Unheard u → s.Unheard (u.deliver t c ev) :=
    fun ev h => State.deliver_unheard h hop t c ev
  simp only [List.mem_cons, List.not_mem_nil, or_false] at hi
  rcases hi with rfl | rfl | rfl | rfl | rfl | rfl | rfl
  · refine exists_awake (f := State.seizeQual t c) (.refl s) ?_
    unfold State.seizeQual
    dsimp only
    split
    · exact hd _ ⟨rfl, rfl⟩
    · exact .refl s
  · refine exists_awake (f := State.flashMax t c) (.refl s) ?_
    unfold State.flashMax
    dsimp only
    split
    · exact hd _ ⟨rfl, rfl⟩
    · exact .refl s
  · refine exists_awake (f := State.pulseMakeEnd t c) (.refl s) ?_
    unfold State.pulseMakeEnd
    dsimp only
    split
    · exact hd _ ⟨rfl, rfl⟩
    · exact .refl s
  · refine exists_awake (f := State.burstEnd t c) (.refl s) ?_
    unfold State.burstEnd
    dsimp only
    split
    · split
      · exact hd _ ⟨rfl, rfl⟩
      all_goals exact ⟨rfl, rfl⟩
    · exact .refl s
  · refine exists_awake (f := State.gapEnd t c) (.refl s) ?_
    unfold State.gapEnd
    dsimp only
    split
    · exact hd _ ⟨rfl, rfl⟩
    · exact .refl s
  · refine exists_awake (f := State.battOn t c) (.refl s) ?_
    unfold State.battOn
    split
    · exact hd _ ⟨rfl, rfl⟩
    · exact .refl s
  · refine exists_awake (f := State.farOpen t c) (.refl s) ?_
    unfold State.farOpen
    split
    · exact hd _ ⟨rfl, rfl⟩
    · exact .refl s

theorem exec_report_unheard {byte0 byte1 : Byte} {stop start : Bool} {t : Taking} {s : State} (hop : s.op ≠ .run) :
    ∃ u, exec (.conditionReport byte0 byte1 stop start t) s = .next u ∧ s.Unheard u := by
  refine exists_awake (.refl s) ?_
  split
  · split
    · exact State.route_unheard hop ..
    · exact ⟨by simp, by simp⟩
  · exact .refl s

/-- A notice raised, as the statements write it (R181). -/
theorem Calls.raise_eq (e : Env) (n : Notice) (c : Chan) (k : Calls) :
    k.raise e n c = { k with notices := put k.notices c (raisedIn e.mask [n] (look k.notices c)) } := by
  unfold Calls.raise
  split
  · next h => simp [raisedIn, h]
  · next h => simp [raisedIn, h]

theorem Calls.takeDisconnect_ignored {e : Env} {c : Chan} {k : Calls}
    (h : (k.ses c).state ∈ [SState.idle, .blocked, .ringing, .releasing]) : k.takeDisconnect e c = k := by
  simp only [List.mem_cons, List.not_mem_nil, or_false] at h
  rcases h with h | h | h | h <;> simp [Calls.takeDisconnect, h]

theorem Calls.takeSeize_ignored {e : Env} {c : Chan} {k : Calls} (h : (k.ses c).state ∈ [SState.seized, .collecting,
    .hostwait, .outring, .trunkwait, .queued, .talk, .held, .confer, .toneout, .lockout, .releasing]) :
    k.takeSeize e c = k := by
  simp only [List.mem_cons, List.not_mem_nil, or_false] at h
  rcases h with h | h | h | h | h | h | h | h | h | h | h | h <;> simp [Calls.takeSeize, h]

theorem Calls.takeRingGone_ignored {e : Env} {c : Chan} {k : Calls}
    (h : (k.ses c).state ∈ [SState.idle, .blocked, .seizing, .talk, .held, .confer, .releasing] ∨
      (k.ses c).state = .hostwait ∧ (k.levels c).loop = true) : k.takeRingGone e c = k := by
  simp only [List.mem_cons, List.not_mem_nil, or_false] at h
  rcases h with (h | h | h | h | h | h | h) | ⟨h, hl⟩
  case inr => simp [Calls.takeRingGone, h, hl]
  all_goals simp [Calls.takeRingGone, h]

theorem Calls.takeBattOn_ignored {e : Env} {c : Chan} {k : Calls}
    (h : (k.ses c).state ≠ .seizing ∨ ∀ left, (k.ses c).timer ≠ some ⟨.seizeWait, left⟩) : k.takeBattOn e c = k := by
  unfold Calls.takeBattOn
  refine if_neg fun ⟨hs, ht⟩ => h.elim (fun h => h hs) fun h => ?_
  obtain ⟨⟨kind, left⟩, hx, hk⟩ := Option.map_eq_some_iff.mp ht
  cases hk
  exact h left hx

theorem Calls.takeFarOpen_ignored {e : Env} {c : Chan} {k : Calls}
    (h : (k.ses c).state ∈ [SState.idle, .blocked, .ringin, .queued, .releasing] ∨
      (k.ses c).state = .hostwait ∧ (k.levels c).loop = false) : k.takeFarOpen e c = k := by
  simp only [List.mem_cons, List.not_mem_nil, or_false] at h
  rcases h with (h | h | h | h | h) | ⟨h, hl⟩
  case inr => simp [Calls.takeFarOpen, h, hl]
  all_goals simp [Calls.takeFarOpen, h]

/-- Settles O18: outside RUN nothing is taken, and in RUN the rows of R14 and R15 that name no action take none. -/
theorem qualifiedEventsAreIgnored : Obligations.QualifiedEventsAreIgnored := by
  unfold Obligations.QualifiedEventsAreIgnored
  refine ⟨fun i c t s hop hi => ?delivered, fun v rest s hop hp hv => ?flying, fun e c k hrun =>
    ⟨fun hc => ⟨fun ev hev => ?stationOnly, fun d => Calls.take_of_class hc⟩, fun hc ev hev => ?trunkOnly,
      fun hs => Calls.take_of_event (Calls.takeSeize_ignored hs), fun hc hs => ?blocked,
      fun hs => Calls.take_of_event (Calls.takeDisconnect_ignored hs),
      fun hs => Calls.take_of_event (if_neg hs),
      fun hs => Calls.take_of_event (Calls.takeRingGone_ignored hs),
      fun hs => Calls.take_of_event (Calls.takeBattOn_ignored hs),
      fun hs => Calls.take_of_event (Calls.takeFarOpen_ignored hs)⟩⟩
  case delivered =>
    rcases hi with hi | ⟨byte0, byte1, stop, start, rfl⟩
    · exact exec_qualifier_unheard hop hi
    · exact exec_report_unheard hop
  case flying =>
    refine ⟨_, step_idle hp, ?_⟩
    unfold State.idleStep
    split
    · exact ⟨rfl, rfl⟩
    · rw [hv]
      have hk : s.calls.takeDelivery s.env v = s.calls := Calls.takeDelivery_quiet hop v _
      simp [State.takeFlying, hk]
  case stationOnly =>
    simp only [List.mem_cons, List.not_mem_nil, or_false] at hev
    rcases hev with rfl | rfl | rfl <;> exact Calls.take_of_class hc
  case trunkOnly =>
    simp only [List.mem_cons, List.not_mem_nil, or_false] at hev
    rcases hev with rfl | rfl | rfl | rfl <;> exact Calls.take_of_class hc
  case blocked =>
    rw [Calls.take_eq, if_pos ⟨hrun, hc⟩, ← Calls.raise_eq]
    simp [Calls.event, Calls.takeSeize, hs]

end Sys2Proof.Machine
end

section
/-! Entering IDLE by the stages of R27: the line check, the free path, and what they leave of every other channel. -/

namespace Sys2Proof.Machine

/-! ### What a placement leaves of the channels that are IDLE after it -/

/-- A channel that is IDLE in `l` stands as it stood in `k`. -/
def Calls.spares (k l : Calls) : Prop := ∀ d, (l.ses d).state = .idle → k.sameAt d l

/-- `o` is not IDLE in `l`, and a channel that is stands as it stood in `k`. -/
def Calls.settles (o : Chan) (k l : Calls) : Prop := ∀ d, (l.ses d).state = .idle → d ≠ o ∧ k.sameAt d l

theorem Calls.spares_refl (k : Calls) : k.spares k := fun d _ => Calls.sameAt_refl d k

theorem Calls.settles.spares {k l : Calls} {o : Chan} (h : k.settles o l) : k.spares l := fun d hd => (h d hd).2

theorem Calls.spares.trans {k l m : Calls} (h1 : k.spares l) (h2 : l.spares m) : k.spares m := by
  intro d hd
  have hl := h2 d hd
  refine Calls.sameAt_trans (h1 d ?_) hl
  rw [← hl.1.1]
  exact hd

/-- Two in turn, of which the second settles `o`. -/
theorem Calls.settles.after {k l m : Calls} {o : Chan} (h2 : l.settles o m) (h1 : ∀ d, d ≠ o → k.sameAt d l) :
    k.settles o m := fun d hd => ⟨(h2 d hd).1, Calls.sameAt_trans (h1 d (h2 d hd).1) (h2 d hd).2⟩

/-- A channel enters a state that is not IDLE. -/
theorem Calls.enter_settles (k : Calls) (o : Chan) (st : SState) (f : Session → Session)
    (h : (f ((k.ses o).moved st)).state ≠ .idle) : k.settles o (k.enter o st f) := by
  intro d hd
  have hne : d ≠ o := by
    rintro rfl
    exact h (by simpa using hd)
  exact ⟨hne, Calls.sameAt_enter hne ..⟩

theorem Calls.settles.raise {k l : Calls} {o : Chan} (h : k.settles o l) (e : Env) (n : Notice) :
    k.settles o (l.raise e n o) := by
  intro d hd
  obtain ⟨hne, hs⟩ := h d (by simpa using hd)
  exact ⟨hne, Calls.sameAt_trans hs (Calls.sameAt_raise hne ..)⟩

theorem Calls.ring_settles (e : Env) (o d : Chan) (k : Calls) : k.settles o (k.ring e o d) := by
  intro x hx
  have hd : x ≠ d := by
    rintro rfl
    simp [Calls.ring] at hx
  have hd' : d ≠ x := hd.symm
  unfold Calls.ring at hx ⊢
  dsimp only at hx ⊢
  rw [Calls.ses_setOut, Calls.ses_enter_ne _ _ _ _ _ hd'] at hx
  have ho : x ≠ o := by
    rintro rfl
    split at hx
    · next h =>
      rw [Calls.ses_alter_self] at hx
      simp [show (k.ses x).state = .idle from hx, SState.rings] at h
    · rw [Calls.ses_enter_self] at hx
      simp only [Session.startTimer, Session.moved_state] at hx
      split at hx <;> cases hx
  refine ⟨ho, Calls.sameAt_trans ?_ (Calls.sameAt_trans (Calls.sameAt_enter hd ..) (Calls.sameAt_setOut hd ..))⟩
  split
  · exact Calls.sameAt_alter ho ..
  · exact Calls.sameAt_enter ho ..

theorem Calls.sameAt_setBatt {c d : Chan} (h : d ≠ c) (k : Calls) (q : BattQual) : k.sameAt d (k.setBatt c q) :=
  ⟨⟨rfl, rfl, rfl, rfl⟩, by simp [Calls.batt, Calls.setBatt, h.symm]⟩

theorem Calls.seizeTrunk_settles (e : Env) (o t : Chan) (k : Calls) : k.settles o (k.seizeTrunk e o t) := by
  rw [Calls.seizeTrunk_eq]
  intro x hx
  have ho : x ≠ o := by
    rintro rfl
    simp at hx
  have ht : x ≠ t := by
    rintro rfl
    simp [ho.symm, Session.startTimer] at hx
  exact ⟨ho, Calls.sameAt_trans (Calls.sameAt_trans (Calls.sameAt_enter ht ..) (Calls.sameAt_setBatt ht ..))
    (Calls.sameAt_enter ho ..)⟩

theorem Calls.placeOn_settles (e : Env) (o m : Chan) (k : Calls) : k.settles o (k.placeOn e o m) := by
  unfold Calls.placeOn
  split
  · exact k.seizeTrunk_settles e o m
  · exact k.ring_settles e o m

theorem Calls.busyOutcome_settles (e : Env) (o : Chan) (k : Calls) : k.settles o (k.busyOutcome e o) := by
  unfold Calls.busyOutcome
  refine Calls.settles.raise ?_ e .busy
  split
  · exact k.enter_settles o _ _ SState.noConfusion
  · exact k.enter_settles o _ _ SState.noConfusion

theorem Calls.joinQueue_settles (g : GroupIx) (o : Chan) (k : Calls) : k.settles o (k.joinQueue g o) :=
  Calls.settles.after (Calls.enter_settles _ o _ _ SState.noConfusion) fun d _ => Calls.sameAt_groups d k _

/-- Every member of a list is rung. -/
theorem Calls.ringAll_settles (e : Env) (o : Chan) {ms : List Chan} (h : ms ≠ []) (k : Calls) :
    k.settles o (ms.foldl (fun k m => k.ring e o m) k) := by
  induction ms generalizing k with
  | nil => exact absurd rfl h
  | cons m ms ih =>
    cases ms with
    | nil => exact k.ring_settles e o m
    | cons x ms =>
      intro d hd
      obtain ⟨hne, hs⟩ := ih (by simp) (k.ring e o m) d hd
      refine ⟨hne, Calls.sameAt_trans (k.ring_settles e o m d ?_).2 hs⟩
      rw [← hs.1.1]
      exact hd

theorem Calls.choose_settles {e : Env} {g : GroupIx} {o : Chan} {l : List Chan} {k m : Calls}
    (h : k.choose e g o l = some m) : k.settles o m := by
  unfold Calls.choose at h
  split at h
  · obtain ⟨x, -, rfl⟩ := Option.map_eq_some_iff.mp h
    exact k.placeOn_settles e o x
  · obtain ⟨x, -, rfl⟩ := Option.map_eq_some_iff.mp h
    exact Calls.settles.after (Calls.placeOn_settles e o x _) fun d _ => Calls.sameAt_groups d k _
  · split at h
    · cases h
    · next hms =>
      cases h
      exact k.ringAll_settles e o hms

/-- A hunt ends with its originator placed, queued or busy; who is IDLE after it was not touched. -/
theorem Calls.hunt_settles (e : Env) (n : Nat) (g : GroupIx) (o : Chan) (k : Calls) : k.settles o (k.hunt e n g o) := by
  induction n generalizing g k with
  | zero => exact k.busyOutcome_settles e o
  | succ n ih =>
    unfold Calls.hunt
    have hm : ∀ d, d ≠ o → k.sameAt d (k.markGroup g o) := fun d hd => Calls.sameAt_alter hd ..
    refine Calls.settles.after (l := k.markGroup g o) ?_ hm
    dsimp only
    split
    · next h => exact Calls.choose_settles h
    · split
      · exact Calls.joinQueue_settles g o _
      · exact ih _ _
      · exact Calls.busyOutcome_settles e o _

/-! ### The line check and the free path -/

theorem Calls.startDialling_settles (e : Env) (c : Chan) (k : Calls) : k.settles c (k.startDialling e c) := by
  have hr : k.settles c (k.requestReceiver e c) := by
    unfold Calls.requestReceiver
    split
    · exact Calls.settles.after (Calls.enter_settles _ c _ _ SState.noConfusion) fun d _ => Calls.sameAt_setRx ..
    · exact Calls.settles.after (Calls.enter_settles _ c _ _ SState.noConfusion) fun d _ => Calls.sameAt_rxQueue ..
  unfold Calls.startDialling
  split
  · exact k.enter_settles c _ _ SState.noConfusion
  · exact hr
  · exact hr

theorem Calls.seizure_settles (e : Env) (c : Chan) (k : Calls) : k.settles c (k.seizure e c) :=
  Calls.settles.after (Calls.startDialling_settles e c _) fun _ hd => Calls.sameAt_raise hd ..

theorem Calls.incomingCall_settles (e : Env) (t : Chan) (k : Calls) : k.settles t (k.incomingCall e t) := by
  unfold Calls.incomingCall
  have hr : ∀ d, d ≠ t → k.sameAt d (k.raise e .ringin t) := fun _ hd => Calls.sameAt_raise hd ..
  refine Calls.settles.after (l := k.raise e .ringin t) ?_ hr
  dsimp only
  split
  · exact Calls.enter_settles _ t _ _ SState.noConfusion
  · exact Calls.settles.after (Calls.hunt_settles e huntFuel _ t _) fun _ hd => Calls.sameAt_alter hd ..

theorem Calls.lineCheck_spares (e : Env) (c : Chan) (k : Calls) : k.spares (k.lineCheck e c) := by
  unfold Calls.lineCheck
  split
  · split
    · exact (k.seizure_settles e c).spares
    · exact (k.seizure_settles e c).spares
    · exact k.spares_refl
    · exact k.spares_refl
  · split
    · exact (k.incomingCall_settles e c).spares
    · exact k.spares_refl
  · exact k.spares_refl

theorem Calls.freePath_spares (e : Env) (c : Chan) (k : Calls) : k.spares (k.freePath e c) := by
  unfold Calls.freePath
  split
  · unfold Calls.serveQueue
    split
    · exact (Calls.settles.after (Calls.placeOn_settles e _ c _) fun d _ => Calls.sameAt_groups d k _).spares
    · exact k.spares_refl
  · exact k.spares_refl

/-- Stages 2 and 3 of R27 leave every channel as it was that is IDLE after them. -/
theorem Calls.afterIdle_spares (e : Env) (c : Chan) (k : Calls) : k.spares (k.afterIdle e c) := by
  unfold Calls.afterIdle
  split
  · dsimp only
    split
    · exact (k.lineCheck_spares e c).trans (Calls.freePath_spares e c _)
    · exact k.lineCheck_spares e c
  · exact k.spares_refl

theorem Calls.afterIdle_awake {e : Env} {c : Chan} {k : Calls} (h : (k.ses c).state ≠ .idle) : k.afterIdle e c = k :=
  if_neg h

/-- A channel that its line check takes up goes no further. -/
theorem Calls.afterIdle_taken {e : Env} {c : Chan} {k l : Calls} (hc : (k.ses c).state = .idle)
    (hl : k.lineCheck e c = l) (h : k.settles c l) : k.afterIdle e c = l := by
  unfold Calls.afterIdle
  rw [if_pos hc]
  dsimp only
  rw [hl]
  exact if_neg fun hi => (h c hi.1).1 rfl

/-- A channel whose line asks for nothing is offered to the camp-on queues. -/
theorem Calls.afterIdle_offered {e : Env} {c : Chan} {k : Calls} (hc : (k.ses c).state = .idle)
    (hl : k.lineCheck e c = k) (hu : (k.ses c).cls ≠ .unused) : k.afterIdle e c = k.freePath e c := by
  unfold Calls.afterIdle
  rw [if_pos hc]
  dsimp only
  rw [hl, if_pos ⟨hc, hu⟩]

theorem Calls.queueServes_iff {k : Calls} {c : Chan} {g : GroupIx} : k.queueServes c g = true ↔
    c ∈ (k.group g).members ∧ ∃ h, (k.group g).queue.head? = some h ∧ k.eligible (k.group g).method h c = true := by
  unfold Calls.queueServes
  split <;> simp_all

end Sys2Proof.Machine
end

section
/-! Entering IDLE, in the words of the statements (R27): one channel, and a ringing set taken up one after the other. -/

namespace Sys2Proof.Machine

/-! ### Dialling and placement as the statements say them -/

theorem Calls.samePool.trans {k l m : Calls} (h1 : k.samePool l) (h2 : l.samePool m) : k.samePool m :=
  ⟨h2.1.trans h1.1, h2.2.trans h1.2⟩

/-- The start of dialling, after nothing but `c` has changed (R14, R54, R68). -/
theorem State.dials_of_onlyAt {s : State} {c : Chan} {k : Calls} {ns : List Notice} (h : s.calls.onlyAt [c] k)
    (hn : look k.notices c = s.recorded ns c) : s.dials c (k.ses c) ns (k.startDialling s.env c) := by
  obtain ⟨hd, hb, ⟨hp, hq⟩, hg, hbr⟩ := h
  obtain ⟨fd, fb, fg, fbr⟩ := Calls.startDialling_frame s.env c k
  have hrx : ∀ r, s.calls.rx r = k.rx r := fun r => by rw [Calls.rx, Calls.rx, hp]
  refine ⟨fun d hdc => Calls.sameAt_trans (hd d hdc) (fd d (by simpa using hdc)), fb.trans hb, fg.trans hg, fbr.trans hbr,
    fun hm => ?pulse, fun x hm hx hl => ?lent, fun hm hx => ?waits⟩
  case pulse =>
    obtain ⟨pool, st⟩ := k.startDialling_pulse s.env c hm
    rw [← hn, State.timerOf_eq]
    exact ⟨Calls.samePool.trans ⟨hp, hq⟩ pool, st⟩
  case lent =>
    simp only [hrx] at hx hl ⊢
    obtain ⟨h1, h2, st⟩ := k.startDialling_lent s.env c hm x hx hl
    rw [← hn, State.timerOf_eq, ← hp]
    exact ⟨h1.trans hq, h2, st⟩
  case waits =>
    simp only [hrx] at hx
    obtain ⟨h1, h2, st⟩ := k.startDialling_waits s.env c hm hx
    rw [← hn, State.timerOf_eq]
    exact ⟨h1.trans hp, h2.trans (by rw [hq]), st⟩

theorem Calls.seizeTrunk_stands (e : Env) (o t : Chan) (k : Calls) (hne : t ≠ o) (ht : (k.ses t).cls = .trunk) :
    (k.seizeTrunk e o t).stands o { (k.ses o).moved .trunkwait with peer := some t } .none noOutput (look k.notices o) ∧
    (k.seizeTrunk e o t).stands t { (k.ses t).moved .seizing with
        peer := some o, timer := some ⟨.seizeWait, e.time Param.trunkSeizeWait⟩ } .none ⟨false, true⟩ (look k.notices t) := by
  have hne' : o ≠ t := hne.symm
  rw [Calls.seizeTrunk_eq]
  refine ⟨⟨?_, ?_, ?_, ?_⟩, ⟨?_, ?_, ?_, ?_⟩⟩ <;>
    simp [hne, hne', ht, Session.startTimer, Session.listen, Session.levels, noOutput]

theorem Calls.seizeTrunk_batt (e : Env) (o t : Chan) (k : Calls) :
    (k.seizeTrunk e o t).batt t = (k.batt t).prepared e := by
  simp [Calls.seizeTrunk_eq]

/-- An originator that rings nobody is placed on another channel (R99, R117). -/
theorem Calls.placeOn_placedOn (s : State) (o m : Chan) (k : Calls) (hne : m ≠ o)
    (hr : (k.ses o).state.rings = false) : k.placedOn s.env o m (k.placeOn s.env o m) := by
  unfold Calls.placeOn
  split
  · next ht =>
    obtain ⟨so, st⟩ := k.seizeTrunk_stands s.env o m hne ht
    refine ⟨fun d ho hm => ?_, ⟨rfl, rfl⟩, rfl, rfl, fun h => absurd ht h, fun _ => ⟨?_, so, st⟩⟩
    · rw [Calls.seizeTrunk_eq]
      exact Calls.sameAt_trans (Calls.sameAt_trans (Calls.sameAt_enter hm ..) (Calls.sameAt_setBatt hm ..))
        (Calls.sameAt_enter ho ..)
    · rw [Calls.seizeTrunk_batt]
      rfl
  · next ht =>
    obtain ⟨so, sm, hd, hb, hp, hg, hbr⟩ := Calls.ring_first s k o m hne hr
    exact ⟨fun d ho hm => hd d (by simp [ho, hm]), hp, hg, hbr, fun _ => ⟨hb, so, sm⟩, fun h => absurd h ht⟩

/-! ### One channel -/

theorem Calls.toIdle_only (c : Chan) (k : Calls) : k.onlyAt [c] (k.toIdle c) := Calls.onlyAt_enter (by simp) ..

theorem Calls.cls_toIdle (c d : Chan) (k : Calls) : ((k.toIdle c).ses d).cls = (k.ses d).cls :=
  (k.toIdle_reach c).cls d

/-- Whose queue a channel just cleared can serve, as the statements say it (R98, R117). -/
theorem State.serves_iff {s : State} {c : Chan} {f : GroupIx} :
    s.serves c f ↔ (s.calls.ses c).cls ≠ .unused ∧ (s.calls.toIdle c).queueServes c f = true := by
  obtain ⟨hst, -⟩ := s.calls.toIdle_stands c
  have hcls := fun d => Calls.cls_toIdle c d s.calls
  have hg : (s.calls.toIdle c).group f = s.calls.group f := rfl
  simp only [State.serves, Calls.queueServes_iff, Calls.eligible_iff, hg, hcls, hst, Session.moved_state, true_and]
  constructor
  · rintro ⟨hu, hm, h, hh, hne, ht⟩
    exact ⟨hu, hm, h, hh, hu, Ne.symm hne, ht⟩
  · rintro ⟨hu, hm, h, hh, -, hne, ht⟩
    exact ⟨hu, hm, h, hh, Ne.symm hne, ht⟩

/-- In RUN a channel enters IDLE by the clearing stage and the two that follow it. -/
theorem Calls.enterIdle_run {s : State} (h : s.op = .run) (c : Chan) (k : Calls) :
    k.enterIdle s.env c = (k.toIdle c).afterIdle s.env c := by
  unfold Calls.enterIdle Calls.idleStages
  rw [if_pos (by simpa using h)]
  rfl

theorem Calls.enterIdle_outside {s : State} (h : s.op ≠ .run) (c : Chan) (k : Calls) : k.enterIdle s.env c = k.toIdle c := by
  unfold Calls.enterIdle Calls.idleStages
  rw [if_neg (by simpa using h)]

/-- With its line at rest the line check leaves a channel just cleared as it is. -/
theorem State.atRest.lineCheck {s : State} {c : Chan} (h : s.atRest c) :
    (s.calls.toIdle c).lineCheck s.env c = s.calls.toIdle c := by
  refine Calls.lineCheck_rest _ _ _ (fun hc => ?_) fun hc => ?_
  · exact h.1 (by rwa [Calls.cls_toIdle] at hc)
  · exact h.2 (by rwa [Calls.cls_toIdle] at hc)

/-- At rest, and with no group to use it, the channel stays. -/
theorem Calls.enterIdle_stays {s : State} {c : Chan} (h : s.op ≠ .run ∨ s.atRest c ∧ ∀ f, ¬s.serves c f) :
    s.calls.enterIdle s.env c = s.calls.toIdle c := by
  rcases h with h | ⟨hr, hf⟩
  · exact Calls.enterIdle_outside h c _
  · by_cases ho : s.op = .run
    · rw [Calls.enterIdle_run ho]
      have hi : ((s.calls.toIdle c).ses c).state = .idle := by simp [Calls.toIdle]
      by_cases hu : (s.calls.ses c).cls = .unused
      · unfold Calls.afterIdle
        rw [if_pos hi]
        dsimp only
        rw [hr.lineCheck, if_neg fun hn => hn.2 (by rw [Calls.cls_toIdle, hu])]
      · rw [Calls.afterIdle_offered hi hr.lineCheck (by rwa [Calls.cls_toIdle])]
        have hn : allGroups.find? ((s.calls.toIdle c).queueServes c) = none := by
          rw [List.find?_eq_none]
          exact fun g _ hg => hf g (State.serves_iff.mpr ⟨hu, hg⟩)
        unfold Calls.freePath
        rw [hn]
    · exact Calls.enterIdle_outside ho c _

/-- A station found off-hook is taken as seized (R27, R14). -/
theorem State.enterIdle_dials {s : State} {c : Chan} (ho : s.op = .run) (hc : (s.calls.ses c).cls = .station)
    (hq : (look s.loopQ c).state = .offhook ∨ (look s.loopQ c).state = .openTiming) :
    s.dials c ((s.calls.ses c).moved .idle) [.seize] (s.calls.enterIdle s.env c) := by
  have hl : (s.calls.toIdle c).lineCheck s.env c = (s.calls.toIdle c).seizure s.env c := by
    unfold Calls.lineCheck
    rw [Calls.cls_toIdle, hc, State.env_loopQ]
    rcases hq with hq | hq <;> rw [hq]
  rw [Calls.enterIdle_run ho, Calls.afterIdle_taken (by simp [Calls.toIdle]) hl (Calls.seizure_settles s.env c _)]
  have hk : s.calls.onlyAt [c] ((s.calls.toIdle c).raise s.env .seize c) :=
    Calls.onlyAt_trans (Calls.toIdle_only c _) (Calls.onlyAt_raise (by simp) ..)
  have hn := Calls.notices_raise_self s s.env rfl .seize c (s.calls.toIdle c) rfl
  have := State.dials_of_onlyAt hk hn
  have hs : ((s.calls.toIdle c).raise s.env .seize c).ses c = (s.calls.ses c).moved .idle := by
    rw [Calls.ses_raise]
    exact (s.calls.toIdle_stands c).1
  rwa [hs] at this

/-- A trunk found ringing is taken as an incoming call (R27, R114). -/
theorem Calls.enterIdle_incoming {s : State} {c : Chan} (ho : s.op = .run) (hc : (s.calls.ses c).cls = .trunk)
    (hq : (look s.ringQ c).state = .inBurst) :
    s.calls.enterIdle s.env c = (s.calls.toIdle c).incomingCall s.env c := by
  have hl : (s.calls.toIdle c).lineCheck s.env c = (s.calls.toIdle c).incomingCall s.env c := by
    unfold Calls.lineCheck
    rw [Calls.cls_toIdle, hc, State.env_ringQ]
    exact if_pos hq
  rw [Calls.enterIdle_run ho, Calls.afterIdle_taken (by simp [Calls.toIdle]) hl (Calls.incomingCall_settles s.env c _)]

/-- A channel just cleared, with a notice raised on it. -/
theorem State.cleared_raise (s : State) (n : Notice) (c : Chan) :
    s.calls.onlyAt [c] ((s.calls.toIdle c).raise s.env n c) ∧
      ((s.calls.toIdle c).raise s.env n c).stands c ((s.calls.ses c).moved .idle) .none noOutput (s.recorded [n] c) :=
  ⟨Calls.onlyAt_trans (Calls.toIdle_only c _) (Calls.onlyAt_raise (by simp) ..),
    Calls.stands_raise s n (s.calls.toIdle_stands c)⟩

/-- The beginning of an attempt changes nothing of a channel just cleared. -/
theorem Session.moved_idle_fresh (r : Session) :
    { r.moved .idle with tried := 0, curGroup := none } = r.moved .idle := rfl

/-- The lowest-numbered group with a property. -/
theorem allGroups_find {p : GroupIx → Bool} {g : GroupIx} (hg : p g = true) (hl : ∀ f < g, p f = false) :
    allGroups.find? p = some g := by
  unfold allGroups
  rw [List.find?_eq_some_iff_getElem]
  refine ⟨hg, g, by simp, by simp, fun j hj => ?_⟩
  simpa using hl ⟨j, by omega⟩ (by simpa [Fin.lt_def] using hj)

/-- A channel at rest is placed for the head of the first queue that can use it (R27, R117). -/
theorem Calls.enterIdle_serves {s : State} {c h : Chan} {g : GroupIx} {q : List Chan} (ho : s.op = .run)
    (hr : s.atRest c) (hg : s.serves c g) (hl : ∀ f < g, ¬s.serves c f) (hq : (s.calls.group g).queue = h :: q) :
    s.calls.enterIdle s.env c = ((s.calls.toIdle c).alterGroup g fun x => { x with
      queue := q, position := if x.method = .circular then x.members.idxOf c else x.position }).placeOn s.env h c := by
  obtain ⟨hu, hs⟩ := State.serves_iff.mp hg
  have hf : allGroups.find? ((s.calls.toIdle c).queueServes c) = some g :=
    allGroups_find hs fun f hf => by simpa [State.serves_iff, hu] using hl f hf
  rw [Calls.enterIdle_run ho, Calls.afterIdle_offered (by simp [Calls.toIdle]) hr.lineCheck (by rwa [Calls.cls_toIdle])]
  unfold Calls.freePath Calls.serveQueue
  rw [hf]
  have hq' : ((s.calls.toIdle c).group g).queue = h :: q := hq
  simp only [hq']

/-- A channel that enters IDLE by the operation of R27 has entered it as the statements say. -/
theorem State.enterIdle_entersIdle (s : State) (c : Chan) : s.entersIdle c (s.calls.enterIdle s.env c) := by
  refine ⟨fun h => ?stays, fun ho hc hq => State.enterIdle_dials ho hc hq, fun ho hc hq => ?incoming,
    fun g h q ho hr hg hl hq hh => ?served⟩
  case stays =>
    rw [Calls.enterIdle_stays h]
    exact ⟨Calls.toIdle_only c _, s.calls.toIdle_stands c⟩
  case incoming =>
    rw [Calls.enterIdle_incoming ho hc hq]
    obtain ⟨only, st⟩ := s.cleared_raise .ringin c
    have ha : ((s.calls.toIdle c).ses c).answerGroup = (s.calls.ses c).answerGroup := by
      rw [(s.calls.toIdle_stands c).1]
      rfl
    unfold Calls.incomingCall
    dsimp only
    rw [ha]
    constructor
    · intro hn
      rw [hn]
      refine ⟨Calls.onlyAt_trans only (Calls.onlyAt_enter (by simp) ..), ?_⟩
      obtain ⟨h1, -, h3, h4⟩ := st
      have := Calls.stands_enter c .hostwait id ((s.calls.toIdle c).raise s.env .ringin c)
      rw [h1, h3, h4] at this
      simpa [Calls.toHostwait, Session.listen, Session.levels, noOutput] using this
    · intro g hg
      rw [hg]
      refine ⟨_, Calls.onlyAt_trans only (Calls.onlyAt_alter (c := c) (by simp) ..), ?_, rfl⟩
      obtain ⟨h1, h2, h3, h4⟩ := st
      refine ⟨?_, h2, h3, h4⟩
      rw [Calls.ses_alter_self, h1, Session.moved_idle_fresh]
  case served =>
    have hserves := hg
    obtain ⟨-, -, h', hh', hne, -⟩ := hg
    obtain rfl : h' = h := by simpa [hq] using hh'.symm
    rw [Calls.enterIdle_serves ho hr hserves hl hq]
    obtain ⟨od, ob, op, -, obr⟩ := Calls.toIdle_only c s.calls
    obtain ⟨h1, h2, h3, h4⟩ := s.calls.toIdle_stands c
    refine ⟨(s.calls.toIdle c).alterGroup g _, fun d hd => Calls.sameAt_trans (od d hd) (Calls.sameAt_groups d _ _), ob,
      op, obr, fun f hf => ?_, ?_,
      ⟨h1, h2, h3, h4⟩, Calls.placeOn_placedOn s h' c _ (Ne.symm hne) ?_⟩
    · rw [Calls.group_alterGroup, if_neg (Ne.symm hf)]
      rfl
    · rw [Calls.group_alterGroup_self]
      rfl
    · show (((s.calls.toIdle c).ses h').state).rings = false
      rw [(od h' (by simpa using hne)).1.1, hh]
      rfl

/-! ### Channels taken up one after the other -/

/-- A channel that IDLE holds as its clearing stage leaves it. -/
def Calls.clearedAt (k : Calls) (d : Chan) : Prop := k.stands d ((k.ses d).moved .idle) .none noOutput (look k.notices d)

theorem Calls.clearedAt.sameAt {k l : Calls} {d : Chan} (h : k.clearedAt d) (hs : k.sameAt d l) : l.clearedAt d := by
  have := Calls.stands_of_sameAt hs h
  unfold Calls.clearedAt
  rwa [hs.1.1, hs.1.2.2.2]

/-- The clearing stage changes nothing of a channel that it has cleared. -/
theorem Calls.clearedAt.toIdle {k : Calls} {d : Chan} (h : k.clearedAt d) : k.toIdle d = k := by
  obtain ⟨h1, h2, h3, -⟩ := h
  unfold Calls.toIdle Calls.enter
  have hl : ((k.ses d).moved .idle).listen = look k.listen d := by rw [h2]; rfl
  have hv : ((k.ses d).moved .idle).levels (k.levels d) = look k.out d := by rw [show look k.out d = noOutput from h3]; rfl
  have hs : (k.ses d).moved .idle = look k.sessions d := h1.symm
  simp only [id, hl, hv]
  rw [hs]
  simp only [put_look]

/-- Stations cleared to IDLE go through stages 2 and 3 of R27 as the statements say (R107, R108, R118). -/
theorem State.takenUp_fold {s : State} (ho : s.op = .run) (ds : List Chan) (k : Calls)
    (h : ∀ d ∈ ds, (k.ses d).state = .idle → k.clearedAt d) :
    s.takenUp ds k (ds.foldl (fun k d => k.afterIdle s.env d) k) := by
  induction ds generalizing k with
  | nil => rfl
  | cons d ds ih =>
    refine ⟨k.afterIdle s.env d, fun hd => ?_, fun hd => Calls.afterIdle_awake hd, ih _ fun x hx hi => ?_⟩
    · have he := State.enterIdle_entersIdle { s with calls := k } d
      have hk : k.enterIdle s.env d = k.afterIdle s.env d := by
        rw [Calls.enterIdle_run ho, (h d (by simp) hd).toIdle]
      rwa [show ({ s with calls := k } : State).calls.enterIdle ({ s with calls := k } : State).env d =
        k.afterIdle s.env d from hk] at he
    · have hs := k.afterIdle_spares s.env d x hi
      exact (h x (by simp [hx]) (by rw [← hs.1.1]; exact hi)).sameAt hs

theorem State.takenUp_stages {s : State} (ho : s.op = .run) (ds : List Chan) (k : Calls)
    (h : ∀ d ∈ ds, (k.ses d).state = .idle → k.clearedAt d) : s.takenUp ds k (k.idleStages s.env ds) := by
  unfold Calls.idleStages
  rw [if_pos (by simpa using ho)]
  exact State.takenUp_fold ho ds k h

/-! ### The guard's end, and RESTORE -/

/-- Settles O26: the expiry enters IDLE by the operation of R27. -/
theorem guardExpiryReturnsToIdle : Obligations.GuardExpiryReturnsToIdle := by
  unfold Obligations.GuardExpiryReturnsToIdle
  intro c s hr hs ht
  refine ⟨_, ?_, s.enterIdle_entersIdle c⟩
  rw [← State.expire_due .guard c Calls.enterIdle ht (by rw [hs]; rfl)]
  exact awake_on _ hr

end Sys2Proof.Machine
end

section
/-! The commands that configure, block and restore a channel (R7, R156, R157). -/

namespace Sys2Proof.Machine

/-! ### The parameters of CONFIGURE_CHANNEL -/

theorem readClass_code {b : Byte} {x : ChanClass} (h : b.toNat = x.code) : readClass b = some x := by
  unfold readClass readCode
  rw [h]
  cases x <;> rfl

theorem readDigitMode_code {b : Byte} {x : DigitMode} (h : b.toNat = x.code) : readDigitMode b = some x := by
  unfold readDigitMode readCode
  rw [h]
  cases x <;> rfl

theorem readFlashMode_code {b : Byte} {x : FlashMode} (h : b.toNat = x.code) : readFlashMode b = some x := by
  unfold readFlashMode readCode
  rw [h]
  cases x <;> rfl

theorem readConfig_eq_some {a : ConfigArgs} {p : Params} (h0 : (look p 0).toNat = a.chan)
    (h1 : (look p 1).toNat = a.cls.code) (h2 : (look p 2).toNat = a.digitMode.code)
    (h3 : (look p 3).toNat = a.serviceClass) (h4 : (look p 4).toNat = a.flashMode.code)
    (h5 : look p 5 = optByte a.answerGroup) : readConfig p = some a := by
  unfold readConfig
  rw [readFin_eq_some h0, readClass_code h1, readDigitMode_code h2, readFin_eq_some h3, readFlashMode_code h4,
    readOptFin_optByte (by decide) h5]

/-! ### What the commands do -/

theorem outsideStopping_of_ne {o : OpState} (h : o ≠ .stopping) : outsideStopping o = true := by
  simpa [outsideStopping] using h

/-- With a frame in flight the transmitter picks nothing. -/
theorem State.kick_busy {s : State} (h : s.link.flight.isSome = true) : s.kick = s := if_pos h

/-- Idle, with a STATUS_REQUEST pending and no CLEAR_ALL, it sends the request. -/
theorem State.kick_status {s : State} (hf : s.link.flight = none) (hc : s.link.clearPending = false)
    (hs : s.link.statusPending = true) :
    s.kick = { s with link := { s.link with statusPending := false, flight := some .statusRequest } } := by
  unfold State.kick State.pick
  simp [hf, hc, hs]

/-- A command whose effect closes an event and names one channel in its result (08, section 8.7). -/
theorem reply_session (c : Chan) (k : Calls) (s : State) :
    (withSessions c none k s).state.mail (Mailbox.post (withSessions c none k s).code (withSessions c none k s).bytes) =
      (s.close k).mail (Mailbox.post .ok [byteOf c, byteOf (k.ses c).state.code, 0xFF, 0xFF]) := by
  rw [withSessions_state, withSessions_code, withSessions_bytes]
  rfl

theorem exec_configureChannel {a : ConfigArgs} {s : State} {p : Params} (ht : s.taking .configureChannel p)
    (ho : s.op ≠ .stopping) (ha : readConfig p = some a) : exec .configureChannel s =
      .next ((configureBody a s).state.mail (Mailbox.post (configureBody a s).code (configureBody a s).bytes)) :=
  takeChecked _ ht ha (outsideStopping_of_ne ho)

theorem configureBody_refused {a : ConfigArgs} {s : State} (ho : s.op = .run)
    (hs : (s.calls.ses a.chan).active = true) : configureBody a s = refuse .badState s := if_pos ⟨ho, hs⟩

theorem configureBody_done {a : ConfigArgs} {s : State} (h : ¬(s.op = .run ∧ (s.calls.ses a.chan).active = true)) :
    configureBody a s = carried [] (s.configure a) := if_neg h

theorem State.configure_sameClass {a : ConfigArgs} {s : State} (h : a.cls = (s.calls.ses a.chan).cls) :
    s.configure a = { s with calls := s.calls.alter a.chan (Session.configured a) } := if_pos h

/-- With a change of class the channel's qualifiers and levels are reset before the transmitter picks (R7). -/
theorem State.configure_newClass {a : ConfigArgs} {s : State} (h : a.cls ≠ (s.calls.ses a.chan).cls) :
    s.configure a = State.kick { s with
      calls := ((s.calls.alter a.chan (Session.configured a)).setBatt a.chan .reset).setOut a.chan .rest
      loopQ := put s.loopQ a.chan .reset
      ringQ := put s.ringQ a.chan .reset
      link := { s.link with statusPending := true } } := if_neg h

theorem exec_block {c : Chan} {s : State} {p : Params} (ht : s.taking .block p) (ho : s.op ≠ .stopping)
    (hc : (look p 0).toNat = c) :
    exec .block s = .next ((blockBody c s).state.mail (Mailbox.post (blockBody c s).code (blockBody c s).bytes)) :=
  takeChecked _ ht (readChan_eq_some hc) (outsideStopping_of_ne ho)

theorem exec_restore {c : Chan} {s : State} {p : Params} (ht : s.taking .restore p) (ho : s.op ≠ .stopping)
    (hc : (look p 0).toNat = c) :
    exec .restore s = .next ((restoreBody c s).state.mail (Mailbox.post (restoreBody c s).code (restoreBody c s).bytes)) :=
  takeChecked _ ht (readChan_eq_some hc) (outsideStopping_of_ne ho)

/-- What stands at a channel that BLOCK has taken out of use (R156). -/
theorem Calls.toBlocked_stands (c : Chan) (k : Calls) :
    (k.enter c .blocked id).stands c ((k.ses c).moved .blocked) .none noOutput (look k.notices c) := by
  have := Calls.stands_enter c .blocked id k
  simpa [Session.listen, Session.levels, noOutput] using this

/-- Settles O40: the three commands by their effects. -/
theorem channelsAreConfiguredBlockedAndRestored : Obligations.ChannelsAreConfiguredBlockedAndRestored := by
  unfold Obligations.ChannelsAreConfiguredBlockedAndRestored
  refine ⟨fun a s p ht ho h0 h1 h2 h3 h4 h5 => ?configure, fun c s p ht ho hc => ?block, fun c s p ht ho hc => ?restore⟩
  case configure =>
    rw [exec_configureChannel ht ho (readConfig_eq_some h0 h1 h2 h3 h4 h5)]
    refine ⟨fun hr hi hb => ?_, fun hfree => ⟨_, rfl, fun hcls => ?_, fun hcls hf => ?_, fun hcls hf hcp => ?_⟩⟩
    · rw [configureBody_refused hr ((Session.active_iff _).mpr ⟨hi, hb⟩)]
      rfl
    all_goals
      have hok : ¬(s.op = .run ∧ (s.calls.ses a.chan).active = true) := by
        rw [Session.active_iff]
        rintro ⟨hr, hi, hb⟩
        rcases hfree with h | h | h
        · simp [hr] at h
        · exact hi h
        · exact hb h
      rw [configureBody_done hok]
    · rw [State.configure_sameClass hcls]
      rfl
    · rw [State.configure_newClass hcls, State.kick_busy (by exact hf)]
      rfl
    · rw [State.configure_newClass hcls, State.kick_status (by exact hf) (by exact hcp) (by rfl)]
      rfl
  case block =>
    rw [exec_block ht ho hc]
    refine ⟨fun hi => ?_, fun hi => ⟨_, ?_, Calls.onlyAt_enter (by simp) _ .blocked id, s.calls.toBlocked_stands c⟩⟩
    · rw [show blockBody c s = refuse .badState s from if_neg hi]
      rfl
    · rw [show blockBody c s = withSessions c none (s.calls.enter c .blocked id) s from if_pos hi, reply_session,
        (s.calls.toBlocked_stands c).1]
      rfl
  case restore =>
    rw [exec_restore ht ho hc]
    refine ⟨fun hb => ?_, fun hb => ⟨_, ?_, s.enterIdle_entersIdle c⟩⟩
    · rw [show restoreBody c s = refuse .badState s from if_neg hb]
      rfl
    · rw [show restoreBody c s = withSessions c none (s.calls.enterIdle s.env c) s from if_pos hb, reply_session]

end Sys2Proof.Machine
end

section
/-! STOP: what it clears, and what it leaves (R28, R67, R120, R138, R172). -/

namespace Sys2Proof.Machine

/-- What the close of an event leaves unchanged: everything but the records, the deliveries in flight, the watches and
the transmitter's pick. -/
theorem State.close_eq (s : State) (k : Calls) : s.close k = { s with
    calls := k
    deliveries := (s.close k).deliveries
    attn := { s.attn with watches := (s.close k).attn.watches }
    link := { s.link with
      position := (s.close k).link.position
      clearPending := (s.close k).link.clearPending
      statusPending := (s.close k).link.statusPending
      flight := (s.close k).link.flight } } := by
  unfold State.close State.kick
  split
  · rfl
  · unfold State.pick
    split
    · rfl
    · split
      · rfl
      · split <;> rfl

theorem State.endStopping_eq (s : State) : s.endStopping = { s with op := s.endStopping.op } := by
  unfold State.endStopping
  split <;> rfl

theorem State.endStopping_op_agree {s : State} (ho : s.op = .stopping) (h : s.agree = true) : s.endStopping.op = .config := by
  unfold State.endStopping
  rw [if_pos ⟨ho, h⟩]

theorem State.endStopping_op_differ {s : State} (ho : s.op = .stopping) (h : ¬s.agree = true) :
    s.endStopping.op = .stopping := by
  unfold State.endStopping
  rw [if_neg fun hn => h hn.2, ho]

/-! ### The records that STOP leaves -/

/-- No session is left but in IDLE or BLOCKED. -/
theorem Calls.stopAll_quiet (k : Calls) (c : Chan) :
    (k.stopAll.ses c).state = .idle ∨ (k.stopAll.ses c).state = .blocked := by
  rw [Calls.stopAll_ses]
  split
  · exact .inl rfl
  · next h =>
    rw [Session.active_iff] at h
    by_cases hi : (k.ses c).state = .idle
    · exact .inl hi
    · exact .inr (not_not.mp fun hb => h ⟨hi, hb⟩)

theorem Calls.stopAll_stands {k : Calls} {c : Chan} (h : (k.ses c).active = true) :
    k.stopAll.stands c ((k.ses c).moved .idle) .none noOutput (look k.notices c) := by
  refine ⟨?_, ?_, ?_, ?_⟩
  · rw [Calls.stopAll_ses, if_pos h]
  · rw [Calls.stopAll_listen, if_pos h]
  · rw [Calls.stopAll_levels, if_pos h]
    rfl
  · rw [Calls.stopAll_notices]

theorem Calls.stopAll_sameAt {k : Calls} {c : Chan} (h : ¬(k.ses c).active = true) : k.sameAt c k.stopAll := by
  refine ⟨⟨?_, ?_, ?_, ?_⟩, ?_⟩
  · rw [Calls.stopAll_ses, if_neg h]
  · rw [Calls.stopAll_listen, if_neg h]
  · rw [Calls.stopAll_levels, if_neg h]
  · rw [Calls.stopAll_notices]
  · rw [Calls.batt, Calls.stopAll_battQ]
    rfl

theorem RxState.assigned_iff (x : RxState) : x.assigned = true ↔ x ∉ [RxState.free, .offline] := by
  cases x <;> simp [RxState.assigned]

theorem Receiver.stopped_idle {x : Receiver} (h : x.state = .free ∨ x.state = .offline) : x.stopped = x := by
  unfold Receiver.stopped
  rw [if_neg]
  rcases h with h | h <;> simp [h, RxState.assigned]

theorem Receiver.stopped_freed {x : Receiver} (h : x.state ∉ [RxState.free, .offline]) (hs : x.service = .inService) :
    x.stopped = .freed := by
  unfold Receiver.stopped
  rw [if_pos ((RxState.assigned_iff _).mpr h), if_pos hs]

theorem Receiver.stopped_retired {x : Receiver} (h : x.state ∉ [RxState.free, .offline]) (hs : x.service ≠ .inService) :
    x.stopped = .retired := by
  unfold Receiver.stopped
  rw [if_pos ((RxState.assigned_iff _).mpr h), if_neg hs]

/-- Settles O46: the state of `stopBody`, field by field. -/
theorem stopClearsTheCalls : Obligations.StopClearsTheCalls := by
  unfold Obligations.StopClearsTheCalls
  intro s p ht ho
  have hx : exec .stop s = .next ((stopBody () s).state.mail (Mailbox.post .ok [byteOf (stopBody () s).state.op.code])) :=
    takeChecked stopBody ht (a := ()) rfl (by rw [ho]; rfl)
  have hb : (stopBody () s).state = ({ s with op := .stopping }.close s.calls.stopAll).endStopping := rfl
  generalize hu : ({ s with op := .stopping } : State).close s.calls.stopAll = u at hb
  have huop : u.op = .stopping := by rw [← hu, State.close_op]
  have hucalls : u.calls = s.calls.stopAll := by rw [← hu, State.close_calls]
  have husent : u.link.sent = s.link.sent := by rw [← hu, State.close_sent]
  have hagree : u.agree = true ↔ ∀ c, s.calls.stopAll.levels c = look s.link.sent c := by
    rw [State.agree_iff, hucalls, husent]
  rw [hb] at hx
  refine ⟨_, hx, ?_⟩
  have hcalls : (u.endStopping.mail (Mailbox.post .ok [byteOf u.endStopping.op.code])).calls = s.calls.stopAll := by
    rw [← hucalls, ← State.endStopping_calls u]
    rfl
  rw [hcalls]
  refine ⟨fun c hi hbl => Calls.stopAll_stands ((Session.active_iff _).mpr ⟨hi, hbl⟩), fun c hq => ?quiet,
    fun r => ?receivers, Calls.stopAll_rxQueue _, Calls.stopAll_group _, Calls.stopAll_members _, Calls.stopAll_battQ _,
    fun h => State.endStopping_op_agree huop (hagree.mpr h), fun h => ?differ, ?mbox, fun v => ?deliveries, ?frame⟩
  case quiet =>
    refine Calls.stopAll_sameAt ?_
    rw [Session.active_iff]
    exact fun hn => hq.elim hn.1 hn.2
  case receivers =>
    rw [Calls.stopAll_rx]
    exact ⟨Receiver.stopped_idle, Receiver.stopped_freed, Receiver.stopped_retired⟩
  case differ =>
    refine State.endStopping_op_differ huop fun ha => ?_
    obtain ⟨c, hc⟩ := h
    exact hc (hagree.mp ha c)
  case mbox =>
    show (u.endStopping.mbox).post _ _ = _
    rw [State.endStopping_mbox, ← hu, State.close_mbox]
    rfl
  case deliveries =>
    show v ∈ u.endStopping.deliveries ↔ _
    rw [State.endStopping_deliveries, ← hu, State.mem_close_deliveries]
    have hq : ∀ {c st}, (s.calls.stopAll.ses c).state = st → st ≠ .idle → st ≠ .blocked → False := fun h hi hb =>
      (Calls.stopAll_quiet s.calls _).elim (fun h' => hi (h.symm.trans h')) fun h' => hb (h.symm.trans h')
    exact and_congr_right fun _ => ⟨fun h r c d hv => hq (h.1 r c d hv).1 (by decide) (by decide),
      fun h => ⟨fun r c d hv => absurd hv (h r c d), fun c _ hs => (hq hs (by decide) (by decide)).elim⟩⟩
  case frame =>
    have he := State.close_eq { s with op := .stopping } s.calls.stopAll
    rw [hu] at he
    have hw := State.endStopping_eq u
    generalize u.endStopping = w at hw
    rw [hw, he]
    rfl

end Sys2Proof.Machine
end

section
/-! Events that concern one line: a seizure from IDLE, the session timers that run out, and an incoming call. -/

namespace Sys2Proof.Machine

/-! ### The rows that deliver an event -/

/-- The state with the loop qualifier of `c` off-hook, as its SEIZE_QUAL expiry leaves it (R40). -/
def State.offHookAt (s : State) (c : Chan) : State :=
  { s with loopQ := put s.loopQ c { look s.loopQ c with state := .offhook, pulses := 0, timer := none } }

/-- The state with the ring qualifier of `c` at rest, as its gap timer's expiry leaves it (R47). -/
def State.ringGoneAt (s : State) (c : Chan) : State :=
  { s with ringQ := put s.ringQ c { look s.ringQ c with state := .ringIdle, gap := none } }

/-- The state with the ring qualifier of `c` in its burst, as its burst timer's expiry leaves it (R46). -/
def State.inBurstAt (s : State) (c : Chan) : State :=
  { s with ringQ := put s.ringQ c { look s.ringQ c with state := .inBurst, burst := none } }

/-- An event of its class, fresh, is taken in RUN where it is delivered (R13, log 1). -/
theorem State.deliver_fresh {s : State} {c : Chan} {v : LineEvent} (ho : s.op = .run)
    (hc : (s.calls.ses c).cls = v.cls) (hf : s.freshFor (.event c v)) :
    s.deliver .now c (some v) = s.close (s.calls.event s.env c v) :=
  State.deliver_run c v s ((s.freshFor_iff _).mp hf) ho hc

theorem exec_seize {s : State} {c : Chan} (hr : s.resetAsserted = false) (ho : s.op = .run)
    (hc : (s.calls.ses c).cls = .station) (hq : (look s.loopQ c).state = .seizeTiming)
    (ht : (look s.loopQ c).timer = some (.seizeQual, 0)) (hf : s.freshFor (.event c .seize)) :
    exec (.seizeQualExpiry c .now) s = .next ((s.offHookAt c).close (s.calls.takeSeize (s.offHookAt c).env c)) := by
  rw [exec_seizeQualExpiry .now c hr hq ht]
  exact congrArg _ (State.deliver_fresh (s := s.offHookAt c) ho hc hf)

theorem exec_ringBurst {s : State} {c : Chan} (hr : s.resetAsserted = false) (ho : s.op = .run)
    (hc : (s.calls.ses c).cls = .trunk) (hq : (look s.ringQ c).state = .burstTiming)
    (hb : (look s.ringQ c).burst = some 0) (hf : s.freshFor (.event c .ringBurst)) :
    exec (.burstTimerExpiry c .now) s =
      .next ((s.inBurstAt c).close (s.calls.takeRingBurst (s.inBurstAt c).env c)) := by
  rw [exec_burstTimerExpiry .now c hr hq hb]
  exact congrArg _ (State.deliver_fresh (s := s.inBurstAt c) ho hc hf)

theorem exec_ringGone {s : State} {c : Chan} (hr : s.resetAsserted = false) (ho : s.op = .run)
    (hc : (s.calls.ses c).cls = .trunk) (hq : (look s.ringQ c).state = .gapTiming)
    (hi : (look s.ringQ c).inCheck = false) (hg : (look s.ringQ c).gap = some 0)
    (hf : s.freshFor (.event c .ringGone)) :
    exec (.gapTimerExpiry c .now) s =
      .next ((s.ringGoneAt c).close (s.calls.takeRingGone (s.ringGoneAt c).env c)) := by
  rw [exec_gapTimerExpiry .now c hr hq hi hg]
  exact congrArg _ (State.deliver_fresh (s := s.ringGoneAt c) ho hc hf)

/-! ### A seizure -/

/-- The SEIZE of an IDLE station raises its notice and begins to dial (R14). -/
theorem State.seizure_dials (s : State) (c : Chan) :
    s.dials c (s.calls.ses c) [.seize] (s.calls.seizure s.env c) := by
  have hk : s.calls.onlyAt [c] (s.calls.raise s.env .seize c) := Calls.onlyAt_raise (by simp) ..
  have hd := State.dials_of_onlyAt hk (Calls.notices_raise_self s s.env rfl .seize c s.calls rfl)
  rwa [Calls.ses_raise] at hd

/-- Settles O19: the seizure as a start of dialling. -/
theorem seizureBeginsDialling : Obligations.SeizureBeginsDialling := by
  unfold Obligations.SeizureBeginsDialling
  intro c s hr ho hc hi hq ht hf
  have hs : s.calls.takeSeize (s.offHookAt c).env c = s.calls.seizure (s.offHookAt c).env c := by
    simp [Calls.takeSeize, hi]
  obtain ⟨others, batt, groups, bridges, pulse, lent, waits⟩ := (s.offHookAt c).seizure_dials c
  refine ⟨_, by rw [exec_seize hr ho hc hq ht hf, hs]; rfl, fun d hd => others d (by simpa using hd), batt, groups,
    bridges, pulse, fun hm r => lent r hm, waits⟩

/-! ### Session timers -/

theorem exec_expiry {s : State} {i : Instr} {kind : TimerKind} {c : Chan} {f : Env → Chan → Calls → Calls}
    (hx : exec i s = awake (State.expire kind c f) s) (hr : s.resetAsserted = false)
    (ht : (s.calls.ses c).timer = some ⟨kind, 0⟩) (hs : kind.runsIn (s.calls.ses c).state = true) :
    exec i s = .next (s.close (f s.env c s.calls)) := by
  rw [hx, awake_on _ hr, State.expire_due kind c f ht hs]

/-- The end of RX_WAIT leaves the station waiting (R5, R55). -/
theorem State.rxWaitEnd_stands (s : State) (c : Chan) : s.calls.onlyAt [c] (s.calls.rxWaitEnd s.env c) ∧
    (s.calls.rxWaitEnd s.env c).stands c { s.calls.ses c with timer := none } (look s.calls.listen c)
      (s.calls.levels c) (s.recorded [.rxwait] c) :=
  ⟨Calls.onlyAt_trans (Calls.onlyAt_alter (c := c) (by simp) ..) (Calls.onlyAt_raise (by simp) ..),
    Calls.stands_raise s .rxwait ⟨Calls.ses_alter_self .., rfl, rfl, rfl⟩⟩

theorem Calls.toLockout_stands (c : Chan) (k : Calls) :
    (k.toLockout c).stands c ((k.ses c).moved .lockout) .none noOutput (look k.notices c) := by
  have := Calls.stands_enter c .lockout id k
  simpa [Calls.toLockout, Session.listen, Session.levels, noOutput] using this

theorem Calls.returnReceiver_frame (e : Env) (r : RxIx) (k : Calls) : (k.returnReceiver e r).battQ = k.battQ ∧
    (k.returnReceiver e r).groups = k.groups ∧ (k.returnReceiver e r).bridges = k.bridges := by
  unfold Calls.returnReceiver
  split
  · exact ⟨rfl, rfl, rfl⟩
  · exact ⟨rfl, rfl, rfl⟩
  · split <;> exact ⟨rfl, rfl, rfl⟩

/-- A collection is given up (R57, R58): `c` waits for no receiver itself. -/
theorem State.giveUp_collection {s : State} {c : Chan} (hst : (s.calls.ses c).state = .collecting)
    (hq : c ∉ s.calls.rxQueue) : s.gaveUp c [c] (s.calls.giveUp s.env c) := by
  unfold State.gaveUp
  cases hr : (s.calls.ses c).receiver with
  | none =>
    have he : s.calls.giveUp s.env c = s.calls := by simp [Calls.giveUp, hst, hr]
    rw [he, hst]
    simp [State.othersStand, Calls.samePool, Calls.sameAt_refl]
  | some r =>
    have he : s.calls.giveUp s.env c = (s.calls.alter c fun x => { x with receiver := none }).returnReceiver s.env r := by
      simp [Calls.giveUp, hst, hr]
    have hb := Calls.returnReceiver_back s r [c] (s.calls.alter c fun x => { x with receiver := none }) rfl rfl
      (fun d hd => Calls.sameAt_alter (by simpa using hd) ..) fun d hd => by
        simpa using ne_of_mem_of_not_mem hd hq
    obtain ⟨batt, groups, bridges⟩ := Calls.returnReceiver_frame s.env r (s.calls.alter c fun x => { x with receiver := none })
    rw [he, hst]
    simp [batt, groups, bridges, hb]

/-- What a collection gives up is another channel's. -/
theorem Calls.linked_collecting {k : Calls} {c d : Chan} (hst : (k.ses c).state = .collecting) (h : k.linked c d) :
    d ∈ k.rxQueue := by
  simpa [Calls.linked, hst] using h

/-- Settles O25: each expiry by its operation on the records. -/
theorem waitsAndTonesRunOut : Obligations.WaitsAndTonesRunOut := by
  unfold Obligations.WaitsAndTonesRunOut
  refine fun c s hr => ⟨fun hs ht => ?wait, fun hs ht => ?tone, fun hs ht hq => ?digit⟩
  case wait =>
    exact ⟨_, exec_expiry (f := Calls.rxWaitEnd) rfl hr ht (by rw [hs]; rfl), s.rxWaitEnd_stands c⟩
  case tone =>
    exact ⟨_, exec_expiry (f := fun _ => Calls.toLockout) rfl hr ht (by rw [hs]; rfl),
      Calls.onlyAt_enter (by simp) .., s.calls.toLockout_stands c⟩
  case digit =>
    refine ⟨_, exec_expiry (f := Calls.endReorder) rfl hr ht (by rw [hs]; rfl),
      State.gaveUp_trans s c [c] _ _ (State.giveUp_collection hs hq) (Calls.onlyAt_enter (by simp) ..) (by simp)
        fun d hd => ?_, Calls.endReorder_stands s c hs hq⟩
    simpa using ne_of_mem_of_not_mem (Calls.linked_collecting hs hd) hq

end Sys2Proof.Machine
end

section
/-! What a channel gives up when it leaves its state (R11, R20), and the abandonment of an unanswered trunk (R22). -/

namespace Sys2Proof.Machine

/-! ### Lines at rest -/

/-- The stages 2 and 3 of R27 do nothing for channels at rest when nobody is queued. -/
theorem State.idleStages_atRest {s : State} {cs : List Chan} {k : Calls}
    (hk : ∀ d, (k.ses d).cls = (s.calls.ses d).cls) (hq : ∀ g, (k.group g).queue = []) (hr : ∀ d ∈ cs, s.atRest d) :
    k.idleStages s.env cs = k :=
  Calls.idleStages_rest s.env cs k (fun d hd hc => (hr d hd).1 (by rwa [hk] at hc))
    (fun d hd hc => (hr d hd).2 (by rwa [hk] at hc)) hq

/-- What asks for something at a line is told by its class and its own qualifiers. -/
theorem State.atRest.congr {s u : State} {d : Chan} (h : s.atRest d) (hc : (u.calls.ses d).cls = (s.calls.ses d).cls)
    (hl : look u.loopQ d = look s.loopQ d) (hr : look u.ringQ d = look s.ringQ d) : u.atRest d := by
  unfold State.atRest
  rw [hc, hl, hr]
  exact h

/-- A group record is its entry in the table. -/
theorem Calls.group_of_groups {k l : Calls} (h : l.groups = k.groups) (g : GroupIx) : l.group g = k.group g := by
  unfold Calls.group
  rw [h]

/-! ### Giving up -/

/-- What `c` gives up is no other's than another channel's, when it is no partner or holder of itself and waits for no
receiver while it collects. -/
theorem Calls.linked_ne {k : Calls} {c d : Chan} (hp : (k.ses c).peer ≠ some c) (hh : (k.ses c).heldBy ≠ some c)
    (hq : (k.ses c).state = .collecting → c ∉ k.rxQueue) (h : k.linked c d) : d ≠ c := by
  rintro rfl
  rcases h with ⟨hs, hd⟩ | ⟨hs, hd⟩ | ⟨-, hd⟩ | ⟨-, hd⟩ | ⟨-, b, -, -, hd⟩
  · exact hq hs hd
  · rw [hd.1] at hs
    simp at hs
  · exact hp hd
  · exact hh hd
  · exact hd rfl

/-- An originator's ringing set is given up (R11): its stations are cleared to IDLE. -/
theorem State.giveUp_ringing {s : State} {c : Chan} (hst : (s.calls.ses c).state ∈ [SState.outring, .ringin]) :
    s.gaveUp c [c] (s.calls.giveUp s.env c) := by
  have he : s.calls.giveUp s.env c = s.calls.clearRinging c := by
    simp only [List.mem_cons, List.not_mem_nil, or_false] at hst
    rcases hst with h | h <;> simp [Calls.giveUp, h]
  have hc : ∀ d, s.calls.ringsFor c d → d ≠ c := by
    rintro d hd rfl
    rw [hd.1] at hst
    simp at hst
  obtain ⟨only, batt, pool, groups, bridges⟩ := Calls.foldIdle_only (s.calls.ringSet c) s.calls
  have rung : (∀ d, s.calls.ringsFor c d → (s.calls.clearRinging c).stands d ((s.calls.ses d).moved .idle) .none noOutput
      (s.noticesAt d)) ∧ ∀ d, d ∉ [c] → ¬s.calls.ringsFor c d → s.calls.sameAt d (s.calls.clearRinging c) := by
    refine ⟨fun d hd => ?_, fun d hd hn => ?_⟩
    · exact Calls.stands_of_sameAt (Calls.sameAt_alter (hc d hd) ..)
        (Calls.foldIdle_stands _ s.calls d ((Calls.mem_ringSet_iff ..).mpr hd))
    · exact Calls.sameAt_trans (only d (by rwa [Calls.mem_ringSet_iff])) (Calls.sameAt_alter (by simpa using hd) ..)
  have frame : (s.calls.clearRinging c).battQ = s.calls.battQ ∧ s.calls.samePool (s.calls.clearRinging c) ∧
      (s.calls.clearRinging c).groups = s.calls.groups ∧ (s.calls.clearRinging c).bridges = s.calls.bridges :=
    ⟨batt, pool, groups, bridges⟩
  obtain ⟨batt', pool', groups', bridges'⟩ := frame
  rw [he]
  unfold State.gaveUp
  simp only [List.mem_cons, List.not_mem_nil, or_false] at hst
  rcases hst with hst | hst <;> rw [hst] <;> simp [batt', pool', groups', bridges'] <;> simpa using rung

/-- A channel gives up what its state holds, as the statements say it (R11, R20). -/
theorem State.giveUp_gaveUp {s : State} {c : Chan} (hp : (s.calls.ses c).peer ≠ some c)
    (hh : (s.calls.ses c).heldBy ≠ some c) (hq : (s.calls.ses c).state = .collecting → c ∉ s.calls.rxQueue) :
    s.gaveUp c [c] (s.calls.giveUp s.env c) := by
  by_cases hst : (s.calls.ses c).state ∈ [SState.outring, .ringin]
  · exact State.giveUp_ringing hst
  · exact Calls.giveUp_gaveUp s c s.calls rfl ⟨hp, hh, hq, fun h => absurd h hst⟩

/-- A station that an originator gives up is another channel, of its ringing set. -/
theorem Calls.mem_returning {k : Calls} {c d : Chan} (h : d ∈ k.returning c) :
    (k.ses c).state ∈ [SState.outring, .ringin] ∧ k.ringsFor c d ∧ d ≠ c := by
  unfold Calls.returning at h
  split at h
  · next hr =>
    have hd := (Calls.mem_ringSet_iff ..).mp h
    refine ⟨by simpa [SState.rings_iff] using hr, hd, ?_⟩
    rintro rfl
    rw [hd.1] at hr
    cases hr
  · cases h

/-- The stations that an originator gives up return to IDLE as stage 1 of R27 leaves them. -/
theorem State.gaveUp.clearedAt {s : State} {c d : Chan} {cs : List Chan} {k : Calls} (h : s.gaveUp c cs k)
    (hd : d ∈ s.calls.returning c) : k.clearedAt d := by
  obtain ⟨hst, hr, -⟩ := Calls.mem_returning hd
  obtain ⟨-, -, -, -, -, -, -, hring, -⟩ := h
  obtain ⟨h1, h2, h3, -⟩ := (hring hst).1 d hr
  exact ⟨by rw [h1, Session.moved_idle_twice], h2, h3, rfl⟩

/-- No group's queue changes where the state given up is not QUEUED. -/
theorem State.gaveUp.noQueue {s : State} {c : Chan} {cs : List Chan} {k : Calls} (h : s.gaveUp c cs k)
    (hs : (s.calls.ses c).state ∈ [SState.outring, .ringin]) (hq : s.noQueue) (g : GroupIx) : (k.group g).queue = [] := by
  obtain ⟨-, -, hg, -⟩ := h
  rw [Calls.group_of_groups (hg (by rintro h; simp [h] at hs)) g]
  exact hq g

/-- With the lines of a ringing set at rest and nobody queued, giving it up leads to nothing more (R27). -/
theorem State.idleStages_returning {s : State} {c : Chan} {k : Calls} (hm : s.mayGiveUp c) (hg : s.gaveUp c [c] k)
    (hk : Reach s.calls k) : k.idleStages s.env (s.calls.returning c) = k := by
  obtain ⟨-, -, -, hrest⟩ := hm
  by_cases hst : (s.calls.ses c).state ∈ [SState.outring, .ringin]
  · obtain ⟨hq, hd⟩ := hrest hst
    exact State.idleStages_atRest hk.cls (hg.noQueue hst hq) fun d hd' => hd d (Calls.mem_returning hd').2.1
  · have hr : s.calls.returning c = [] := List.eq_nil_iff_forall_not_mem.mpr fun d hd => hst (Calls.mem_returning hd).1
    rw [hr, Calls.idleStages_nil]

/-- What `c` may give up is told by the records, the queues and the qualifiers of the other lines. -/
theorem State.mayGiveUp.congr {s u : State} {c : Chan} (h : s.mayGiveUp c) (hs : u.calls.sessions = s.calls.sessions)
    (hx : u.calls.rxQueue = s.calls.rxQueue) (hg : u.calls.groups = s.calls.groups)
    (hl : ∀ d, d ≠ c → look u.loopQ d = look s.loopQ d ∧ look u.ringQ d = look s.ringQ d) : u.mayGiveUp c := by
  have hses : ∀ d, u.calls.ses d = s.calls.ses d := fun d => by rw [Calls.ses, hs]; rfl
  obtain ⟨hp, hh, hq, hrest⟩ := h
  unfold State.mayGiveUp
  rw [hses c, hx]
  refine ⟨hp, hh, hq, fun hst => ⟨fun g => ?_, fun d hd => ?_⟩⟩
  · rw [Calls.group_of_groups hg]
    exact (hrest hst).1 g
  · have hd' : s.calls.ringsFor c d := by simpa [Calls.ringsFor, hses] using hd
    have hne : d ≠ c := by
      rintro rfl
      rw [hd'.1] at hst
      simp at hst
    exact ((hrest hst).2 d hd').congr (by rw [hses]) (hl d hne).1 (hl d hne).2

/-- Only fields that RELEASING clears differ in the record of a channel that has given up its state. -/
theorem Calls.giveUp_moved_releasing (e : Env) {c : Chan} {k : Calls} (hp : (k.ses c).peer ≠ some c)
    (hq : (k.ses c).state = .collecting → c ∉ k.rxQueue) :
    ((k.giveUp e c).ses c).moved .releasing = (k.ses c).moved .releasing := by
  rw [(Calls.giveUp_own e c k hp hq).1]
  simp [Session.moved, SState.hasPeer, SState.rings]

/-- What stands at a channel that enters RELEASING when only what RELEASING clears has changed of its record (R16). -/
theorem State.toReleasing_stands {s : State} {c : Chan} {k : Calls}
    (hm : (k.ses c).moved .releasing = (s.calls.ses c).moved .releasing) (hc : (k.ses c).cls = (s.calls.ses c).cls)
    (hn : look k.notices c = s.noticesAt c) : (k.toReleasing s.env c).stands c
      { (s.calls.ses c).moved .releasing with timer := s.guardOf c } .none noOutput (s.noticesAt c) := by
  have hst := Calls.toReleasing_stands s.env c k
  rw [hm, hc, hn, ← State.guardOf_eq] at hst
  exact hst

theorem Calls.onlyAt_toReleasing_raise (e : Env) (n : Notice) (c : Chan) (k : Calls) :
    k.onlyAt [c] ((k.toReleasing e c).raise e n c) :=
  Calls.onlyAt_trans (Calls.onlyAt_enter (by simp) ..) (Calls.onlyAt_raise (by simp) ..)

/-- What stands at a channel that gives up its state for RELEASING (R16, R20). -/
theorem State.giveUp_releasing {s : State} {c : Chan} (hp : (s.calls.ses c).peer ≠ some c)
    (hq : (s.calls.ses c).state = .collecting → c ∉ s.calls.rxQueue) :
    ((s.calls.giveUp s.env c).toReleasing s.env c).stands c
      { (s.calls.ses c).moved .releasing with timer := s.guardOf c } .none noOutput (s.noticesAt c) :=
  State.toReleasing_stands (Calls.giveUp_moved_releasing s.env hp hq) ((s.calls.giveUp_reach s.env c).cls c)
    (Calls.giveUp_own s.env c s.calls hp hq).2

/-! ### An incoming call -/

/-- An IDLE trunk with no answer group waits for the host (R114). -/
theorem State.incomingCall_waits {s : State} {c : Chan} (hc : (s.calls.ses c).cls = .trunk)
    (ha : (s.calls.ses c).answerGroup = none) : s.calls.onlyAt [c] (s.calls.incomingCall s.env c) ∧
      (s.calls.incomingCall s.env c).stands c ((s.calls.ses c).moved .hostwait) .none ⟨false, (s.calls.levels c).loop⟩
        (s.recorded [.ringin] c) := by
  have he : s.calls.incomingCall s.env c = (s.calls.raise s.env .ringin c).toHostwait c := by
    unfold Calls.incomingCall
    rw [ha]
  rw [he]
  refine ⟨Calls.onlyAt_trans (Calls.onlyAt_raise (by simp) ..) (Calls.onlyAt_enter (by simp) ..), ?_⟩
  obtain ⟨h1, h2, h3, h4⟩ := Calls.stands_enter c .hostwait id (s.calls.raise s.env .ringin c)
  rw [Calls.ses_raise] at h1 h2 h3
  refine ⟨h1, h2, ?_, h4.trans (Calls.notices_raise_self s s.env rfl .ringin c s.calls rfl)⟩
  rw [Calls.toHostwait, h3]
  simp [Session.levels, hc]

/-- An abandonment that frees no ringing set (R22). -/
theorem Calls.abandon_of_not_rings {e : Env} {c : Chan} {k l : Calls} (hl : k.giveUp e c = l)
    (hs : (k.ses c).state.rings = false) : k.abandon e c = (l.toReleasing e c).raise e .abandon c := by
  have hr : k.returning c = [] := by simp [Calls.returning, hs]
  unfold Calls.abandon
  dsimp only
  rw [hr, Calls.idleStages_nil, hl]

/-- The abandonment of a trunk, when what it gives up leads to nothing more (R22). -/
theorem State.abandon_gaveUp {s : State} {c : Chan} (hp : (s.calls.ses c).peer ≠ some c)
    (hh : (s.calls.ses c).heldBy ≠ some c) (hq : (s.calls.ses c).state = .collecting → c ∉ s.calls.rxQueue)
    (hi : ∀ k, Reach s.calls k → s.gaveUp c [c] k → k.idleStages s.env (s.calls.returning c) = k) :
    s.gaveUp c [c] (s.calls.abandon s.env c) ∧ (s.calls.abandon s.env c).stands c
      { (s.calls.ses c).moved .releasing with timer := s.guardOf c } .none noOutput (s.recorded [.abandon] c) := by
  have hg := State.gaveUp_trans s c [c] _ _ (State.giveUp_gaveUp hp hh hq)
    (Calls.onlyAt_toReleasing_raise s.env .abandon c (s.calls.giveUp s.env c)) (by simp)
    fun d hd => by simpa using Calls.linked_ne hp hh hq hd
  have hk : Reach s.calls (((s.calls.giveUp s.env c).toReleasing s.env c).raise s.env .abandon c) :=
    ((s.calls.giveUp_reach s.env c).trans (Calls.toReleasing_reach ..)).trans (Calls.raise_reach ..)
  have he : s.calls.abandon s.env c = ((s.calls.giveUp s.env c).toReleasing s.env c).raise s.env .abandon c := hi _ hk hg
  rw [he]
  exact ⟨hg, Calls.stands_raise s .abandon (State.giveUp_releasing hp hq)⟩

/-- Settles O24: an incoming call with no answer group, and the three states from which it is abandoned. -/
theorem incomingCallWaitsOrIsAbandoned : Obligations.IncomingCallWaitsOrIsAbandoned := by
  unfold Obligations.IncomingCallWaitsOrIsAbandoned
  intro c s hr ho hc
  refine ⟨fun hi ha hq hb hf => ?burst, fun hq hi hg hf => ⟨fun hs hm => ?ringing, fun hs hv => ?waiting, fun hs => ?queued⟩⟩
  case burst =>
    rw [exec_ringBurst hr ho hc hq hb hf, show s.calls.takeRingBurst (s.inBurstAt c).env c = _ from if_pos hi]
    exact ⟨_, rfl, State.incomingCall_waits (s := s.inBurstAt c) hc ha⟩
  all_goals rw [exec_ringGone hr ho hc hq hi hg hf]
  case ringing =>
    have ht : s.calls.takeRingGone (s.ringGoneAt c).env c = s.calls.abandon (s.ringGoneAt c).env c := by
      simp [Calls.takeRingGone, hs]
    rw [ht]
    have hm' : (s.ringGoneAt c).mayGiveUp c :=
      hm.congr rfl rfl rfl fun d hd => ⟨rfl, look_put_ne _ _ _ _ (Ne.symm hd)⟩
    obtain ⟨hp, hh, hx, -⟩ := hm
    exact ⟨_, rfl, State.abandon_gaveUp (s := s.ringGoneAt c) hp hh hx fun k hk hg =>
      State.idleStages_returning hm' hg hk⟩
  case waiting =>
    have ht : s.calls.takeRingGone (s.ringGoneAt c).env c = s.calls.abandon (s.ringGoneAt c).env c := by
      simp [Calls.takeRingGone, hs, hv]
    have hg : s.calls.giveUp (s.ringGoneAt c).env c = s.calls := by simp [Calls.giveUp, hs]
    rw [ht, Calls.abandon_of_not_rings hg (by rw [hs]; rfl)]
    exact ⟨_, rfl, Calls.onlyAt_toReleasing_raise .., Calls.stands_raise (s.ringGoneAt c) .abandon
      (State.toReleasing_stands (s := s.ringGoneAt c) rfl rfl rfl)⟩
  case queued =>
    have ht : s.calls.takeRingGone (s.ringGoneAt c).env c = s.calls.abandon (s.ringGoneAt c).env c := by
      simp [Calls.takeRingGone, hs]
    have hg : s.calls.giveUp (s.ringGoneAt c).env c = s.calls.leaveQueues c := by simp [Calls.giveUp, hs]
    rw [ht, Calls.abandon_of_not_rings hg (by rw [hs]; rfl)]
    obtain ⟨only, batt, pool, groups, bridges⟩ :=
      Calls.onlyAt_toReleasing_raise (s.ringGoneAt c).env .abandon c (s.calls.leaveQueues c)
    refine ⟨_, rfl, fun d hd => Calls.sameAt_trans (Calls.sameAt_groups ..) (only d (by simpa using hd)), batt, pool,
      bridges, fun g => ?_, Calls.stands_raise (s.ringGoneAt c) .abandon
      (State.toReleasing_stands (s := s.ringGoneAt c) rfl rfl rfl)⟩
    rw [Calls.group_of_groups groups, Calls.group_leaveQueues]

end Sys2Proof.Machine
end

section
/-! The cadence of a ringing set (R106, R107), and the answer of one of its stations (R108). -/

namespace Sys2Proof.Machine

/-! ### The cadence -/

/-- The ringing set of an originator does not change when its record keeps its state and its partner. -/
theorem Calls.ringsFor_alter {k : Calls} {c : Chan} {f : Session → Session} (hs : (f (k.ses c)).state = (k.ses c).state)
    (hp : (f (k.ses c)).peer = (k.ses c).peer) (o d : Chan) : (k.alter c f).ringsFor o d ↔ k.ringsFor o d := by
  unfold Calls.ringsFor
  by_cases hd : c = d
  · subst hd
    rw [Calls.ses_alter_self, hs, hp]
  · rw [Calls.ses_alter_ne _ _ _ _ hd]

/-- The phase of a ringing set turned: its stations' ring outputs, and the originator's own fields, alone. -/
theorem Calls.turned {k : Calls} {c : Chan} {f : Session → Session} (on : Bool)
    (hs : (f (k.ses c)).state = (k.ses c).state) (hp : (f (k.ses c)).peer = (k.ses c).peer) :
    (k.alter c f).ringOutputs c on = { k with
      sessions := ((k.alter c f).ringOutputs c on).sessions, out := ((k.alter c f).ringOutputs c on).out } ∧
    ((k.alter c f).ringOutputs c on).ses c = f (k.ses c) ∧
    (∀ d, d ≠ c → ((k.alter c f).ringOutputs c on).ses d = k.ses d) ∧
    (∀ d, k.ringsFor c d → ((k.alter c f).ringOutputs c on).levels d = ⟨on, false⟩) ∧
    ∀ d, ¬k.ringsFor c d → ((k.alter c f).ringOutputs c on).levels d = k.levels d := by
  have hm : ∀ d, d ∈ (k.alter c f).ringSet c ↔ k.ringsFor c d := fun d => by
    rw [Calls.mem_ringSet_iff, Calls.ringsFor_alter hs hp]
  refine ⟨?_, by simp, fun d hd => by simp [Ne.symm hd], fun d hd => ?_, fun d hd => ?_⟩
  · rw [Calls.ringOutputs_out]
    rfl
  · rw [Calls.ringOutputs_levels, if_pos ((hm d).mpr hd)]
  · rw [Calls.ringOutputs_levels, if_neg fun h => hd ((hm d).mp h)]
    rfl

/-- No group is left to go on to (R107). -/
theorem Calls.noAnswerGroup_eq_none {k : Calls} {o : Chan} (h : ∀ g n, (k.ses o).curGroup = some g →
    (k.group g).noAnswer = some n → (k.ses o).tried.getLsbD n = true) : k.noAnswerGroup o = none := by
  unfold Calls.noAnswerGroup
  split
  · next g hg =>
    unfold Calls.untried
    split
    · next n hn => rw [if_pos (h g n hg hn)]
    · rfl
  · rfl

/-- What the last cycle of an originator's cadence leaves, but for the notice (R106): its count of cycles. -/
def Session.cycled (r : Session) : Session := { r with cycles := min (r.cycles + 1) 15 }

theorem Calls.cadence_on {e : Env} {o : Chan} {k : Calls} (h : (k.ses o).phaseOn = true) : k.cadence e o =
    (k.alter o fun r => { r with phaseOn := false }.startTimer .cadence (e.time Param.ringOffTime)).ringOutputs o
      false := if_pos h

theorem Calls.cadence_off {e : Env} {o : Chan} {k : Calls} (h : (k.ses o).phaseOn = false) : k.cadence e o =
    if e.time Param.noAnswerCycles ≤ min ((k.ses o).cycles + 1) 15 then (k.alter o Session.cycled).noAnswer e o
    else ((k.alter o Session.cycled).alter o fun r =>
      { r with phaseOn := true }.startTimer .cadence (e.time Param.ringOnTime)).ringOutputs o true := by
  unfold Calls.cadence
  rw [if_neg (by simp [h])]
  rfl

/-- The no-answer outcome of a station with no group left (R107). -/
theorem Calls.noAnswer_station {e : Env} {o : Chan} {k : Calls} (hg : (k.raise e .noanswer o).noAnswerGroup o = none)
    (hc : (k.ses o).cls ≠ .trunk) : k.noAnswer e o =
      (((k.raise e .noanswer o).clearRinging o).toToneout e .busy o).idleStages e
        ((k.raise e .noanswer o).ringSet o) := by
  unfold Calls.noAnswer
  dsimp only
  rw [hg, Calls.ses_raise]
  simp only [if_neg hc]

/-- The no-answer outcome of a trunk with no group left, whose stations ring again (R107). -/
theorem Calls.noAnswer_again {e : Env} {o d : Chan} {k : Calls} (hg : (k.raise e .noanswer o).noAnswerGroup o = none)
    (hc : (k.ses o).cls = .trunk) (hd : (k.raise e .noanswer o).ringsFor o d) : k.noAnswer e o =
      ((k.raise e .noanswer o).alter o fun r =>
        { r with cycles := 0, phaseOn := true }.startTimer .cadence (e.time Param.ringOnTime)).ringOutputs o true := by
  have hne : (k.raise e .noanswer o).ringSet o ≠ [] := List.ne_nil_of_mem ((Calls.mem_ringSet_iff ..).mpr hd)
  unfold Calls.noAnswer
  dsimp only
  rw [hg, Calls.ses_raise]
  simp only [if_pos hc, if_neg hne]

/-- An originator whose ringing set is given up and that hears busy tone (R107): the stations of the set in IDLE. -/
theorem Calls.clearRinging_toToneout (e : Env) {c : Chan} {k : Calls} (hst : (k.ses c).state ≠ .ringing) :
    ((k.clearRinging c).toToneout e .busy c).stands c
      { (k.ses c).moved .toneout with toneKind := .busy, timer := some ⟨.toneout, e.time Param.toneoutTime⟩ }
      (.tone .busy) noOutput (look k.notices c) ∧
    (∀ d, k.ringsFor c d → ((k.clearRinging c).toToneout e .busy c).stands d ((k.ses d).moved .idle) .none noOutput
      (look k.notices d)) ∧
    (∀ d, d ≠ c → ¬k.ringsFor c d → k.sameAt d ((k.clearRinging c).toToneout e .busy c)) ∧
    ((k.clearRinging c).toToneout e .busy c).battQ = k.battQ ∧ k.samePool ((k.clearRinging c).toToneout e .busy c) ∧
    ((k.clearRinging c).toToneout e .busy c).groups = k.groups ∧
    ((k.clearRinging c).toToneout e .busy c).bridges = k.bridges := by
  have hne : ∀ d, k.ringsFor c d → d ≠ c := by
    rintro d hd rfl
    exact hst hd.1
  obtain ⟨only, batt, pool, groups, bridges⟩ := Calls.foldIdle_only (k.ringSet c) k
  have last : ∀ d, d ≠ c → ((k.ringSet c).foldl (fun k d => k.toIdle d) k).sameAt d
      ((k.clearRinging c).toToneout e .busy c) := fun d hd =>
    Calls.sameAt_trans (Calls.sameAt_alter hd ..) (Calls.sameAt_enter hd ..)
  refine ⟨?_, fun d hd => ?_, fun d hd hn => ?_, batt, pool, groups, bridges⟩
  · obtain ⟨⟨h1, -, -, h4⟩, -⟩ := only c (by rw [Calls.mem_ringSet_iff]; exact fun h => hst h.1)
    have hst' := Calls.toToneout_stands e .busy c (k.clearRinging c)
    have hs : (k.clearRinging c).ses c = (k.ses c).noRinging := by
      unfold Calls.clearRinging
      rw [Calls.ses_alter_self, h1]
    rw [hs, show look (k.clearRinging c).notices c = look k.notices c from h4] at hst'
    simpa [Session.moved, Session.noRinging, SState.hasPeer, SState.rings] using hst'
  · exact Calls.stands_of_sameAt (last d (hne d hd))
      (Calls.foldIdle_stands _ k d ((Calls.mem_ringSet_iff ..).mpr hd))
  · exact Calls.sameAt_trans (only d (by rwa [Calls.mem_ringSet_iff])) (last d hd)

/-- Settles O33: the branches of the cadence's end. -/
theorem cadenceTurnsThePhase : Obligations.CadenceTurnsThePhase := by
  unfold Obligations.CadenceTurnsThePhase
  intro c s hr hs ht
  have hx : exec (.cadenceExpiry c) s = .next (s.close (s.calls.cadence s.env c)) :=
    exec_expiry (f := Calls.cadence) rfl hr ht (by rcases hs with hs | hs <;> rw [hs] <;> rfl)
  rw [hx]
  refine ⟨fun hp => ⟨_, rfl, ?off⟩, fun hp hlt => ⟨_, rfl, ?on⟩, fun hp hle hn => ?last⟩
  case off =>
    rw [Calls.cadence_on hp, State.timerOf_eq]
    exact Calls.turned false rfl rfl
  case on =>
    rw [Calls.cadence_off hp, if_neg (by simpa using Nat.not_le.mpr hlt), Calls.alter_alter, State.timerOf_eq]
    exact Calls.turned true rfl rfl
  case last =>
    rw [Calls.cadence_off hp, if_pos (by simpa using hle)]
    generalize hk : s.calls.alter c Session.cycled = k
    have hses : k.ses c = (s.calls.ses c).cycled := by rw [← hk, Calls.ses_alter_self]
    have hrings : ∀ d, (k.raise s.env .noanswer c).ringsFor c d ↔ s.calls.ringsFor c d := fun d => by
      rw [← Calls.ringsFor_alter (k := s.calls) (c := c) (f := Session.cycled) rfl rfl, hk]
      simp [Calls.ringsFor]
    obtain ⟨hsame, hbatt, hpool, hgroups, hbridges⟩ : s.calls.onlyAt [c] (k.raise s.env .noanswer c) :=
      Calls.onlyAt_trans (hk ▸ Calls.onlyAt_alter (by simp) ..) (Calls.onlyAt_raise (by simp) ..)
    have hnot : look (k.raise s.env .noanswer c).notices c = s.recorded [.noanswer] c :=
      Calls.notices_raise_self s s.env rfl .noanswer c k (by rw [← hk]; rfl)
    have hgroup := Calls.group_of_groups hgroups
    have hg : (k.raise s.env .noanswer c).noAnswerGroup c = none := Calls.noAnswerGroup_eq_none fun g n hg hgn => by
      rw [Calls.ses_raise, hses] at hg ⊢
      rw [hgroup] at hgn
      exact hn g n hg hgn
    refine ⟨fun hc hq hrest => ⟨_, rfl, ?_⟩, fun hc ⟨d, hd⟩ => ⟨_, rfl, ?_⟩⟩
    · have hst : ((k.raise s.env .noanswer c).ses c).state ≠ .ringing := by
        rw [Calls.ses_raise, hses]
        rcases hs with h | h <;> simp [Session.cycled, h]
      obtain ⟨own, rung, others, batt, pool, groups, bridges⟩ :=
        (k.raise s.env .noanswer c).clearRinging_toToneout s.env hst
      rw [Calls.noAnswer_station hg (by rw [hses]; simp [Session.cycled, hc])]
      have hk' : Reach s.calls k := hk ▸ (Move.fields _ c _ ⟨rfl, rfl, rfl, rfl, rfl, rfl, rfl⟩).reach
      have hreach := ((hk'.trans (k.raise_reach s.env .noanswer c)).trans (Calls.clearRinging_reach c _)).trans
        (Calls.toToneout_reach s.env .busy c _)
      rw [State.idleStages_atRest hreach.cls (fun g => ?_) fun d hd => hrest d ((hrings d).mp ((Calls.mem_ringSet_iff ..).mp hd))]
      · refine ⟨batt.trans hbatt, hpool.trans pool, groups.trans hgroups, bridges.trans hbridges, ?_, fun d hd => ?_,
          fun d hd hn => Calls.sameAt_trans (hsame d (by simpa using hd)) (others d hd fun h => hn ((hrings d).mp h))⟩
        · rw [hnot, Calls.ses_raise, hses, ← State.timerOf_eq] at own
          exact own
        · have hdc : d ≠ c := by
            rintro rfl
            rcases hs with h | h <;> simp [hd.1] at h
          obtain ⟨⟨h1, -, -, h4⟩, -⟩ := hsame d (by simpa using hdc)
          have := rung d ((hrings d).mpr hd)
          rw [h1, h4] at this
          exact this
      · rw [Calls.group_of_groups groups, hgroup]
        exact hq g
    · rw [Calls.noAnswer_again hg (by rw [hses]; exact hc) ((hrings d).mpr hd)]
      obtain ⟨frame, own, others, on, off⟩ := Calls.turned (k := k.raise s.env .noanswer c) (c := c) (f := fun r =>
        { r with cycles := 0, phaseOn := true }.startTimer .cadence (s.env.time Param.ringOnTime)) true rfl rfl
      have hnl := congrArg Calls.notices frame
      have hkn : k.raise s.env .noanswer c = { s.calls with
          sessions := (k.raise s.env .noanswer c).sessions, notices := (k.raise s.env .noanswer c).notices } := by
        rw [Calls.raise_eq, ← hk]
        rfl
      refine ⟨?_, ?_, ?_, fun d hd => ?_, fun d hd => ?_, fun d hd => on d ((hrings d).mpr hd), fun d hd => ?_⟩
      · rw [hnl]
        exact frame.trans (by rw [hkn])
      · rw [own, Calls.ses_raise, hses, State.timerOf_eq]
        rfl
      · rw [hnl]
        exact hnot
      · rw [hnl]
        exact (hsame d (by simpa using hd)).1.2.2.2
      · rw [others d hd]
        exact (hsame d (by simpa using hd)).1.1
      · rw [off d fun h => hd ((hrings d).mp h)]
        rw [Calls.levels, Calls.raise_out, ← hk]
        rfl

end Sys2Proof.Machine
end

section
/-! Parties joined: the answer of a RINGING station (R108). -/

namespace Sys2Proof.Machine

/-! ### Two-party connections -/

theorem Calls.toTalk_stands (c p : Chan) (k : Calls) : (k.toTalk c p).stands c
    { (k.ses c).moved .talk with peer := some p } (.slot p) ⟨false, (k.ses c).cls == .trunk⟩ (look k.notices c) := by
  have := Calls.stands_enter c .talk (fun r => { r with peer := some p }) k
  simpa [Calls.toTalk, Session.listen, Session.levels] using this

/-- Two channels joined: each in TALK with the other (R12, R123). -/
theorem Calls.pair_stands {a b : Chan} (h : a ≠ b) (k : Calls) :
    (k.pair a b).stands a { (k.ses a).moved .talk with peer := some b } (.slot b) ⟨false, (k.ses a).cls == .trunk⟩
      (look k.notices a) ∧
    (k.pair a b).stands b { (k.ses b).moved .talk with peer := some a } (.slot a) ⟨false, (k.ses b).cls == .trunk⟩
      (look k.notices b) := by
  have hb := (k.toTalk a b).toTalk_stands b a
  rw [show (k.toTalk a b).ses b = k.ses b from Calls.ses_enter_ne _ _ _ _ _ h] at hb
  exact ⟨Calls.stands_of_sameAt (Calls.sameAt_enter h ..) (k.toTalk_stands a b), hb⟩

theorem Calls.onlyAt_pair {cs : List Chan} {a b : Chan} (ha : a ∈ cs) (hb : b ∈ cs) (k : Calls) :
    k.onlyAt cs (k.pair a b) := Calls.onlyAt_trans (Calls.onlyAt_enter ha ..) (Calls.onlyAt_enter hb ..)

theorem Calls.onlyAt.mono {cs ds : List Chan} {k l : Calls} (h : k.onlyAt cs l) (hs : cs ⊆ ds) : k.onlyAt ds l :=
  ⟨fun d hd => h.1 d fun hc => hd (hs hc), h.2⟩

/-! ### What another line's qualifier does not change -/

/-- A hunt does not read the loop qualifiers. -/
theorem Calls.hunt_loopQ (e : Env) (q : Vector LoopQual 32) (n : Nat) (g : GroupIx) (o : Chan) (k : Calls) :
    k.hunt { e with loopQ := q } n g o = k.hunt e n g o := by
  induction n generalizing g k with
  | zero => rfl
  | succ n ih =>
    unfold Calls.hunt
    simp only [ih]
    rfl

/-- Entering IDLE reads the loop qualifier of its own channel alone. -/
theorem State.entersIdle_loopQ {s : State} {q : Vector LoopQual 32} {d : Chan} {m : Calls}
    (hq : look q d = look s.loopQ d) (h : ({ s with loopQ := q } : State).entersIdle d m) : s.entersIdle d m := by
  have hrest : s.atRest d → ({ s with loopQ := q } : State).atRest d := fun h => h.congr rfl hq rfl
  obtain ⟨stays, dials, incoming, served⟩ := h
  refine ⟨fun h => stays (h.imp id fun h => ⟨hrest h.1, h.2⟩), fun ho hc hl => dials ho hc (by rw [hq]; exact hl),
    fun ho hc hr => ?_, fun g h q ho hr => served g h q ho (hrest hr)⟩
  obtain ⟨waits, hunts⟩ := incoming ho hc hr
  refine ⟨waits, fun g hg => ?_⟩
  obtain ⟨k0, only, st, hm⟩ := hunts g hg
  exact ⟨k0, only, st, hm.trans (Calls.hunt_loopQ s.env q huntFuel g d k0)⟩

theorem State.takenUp_loopQ {s : State} {q : Vector LoopQual 32} {ds : List Chan} {k l : Calls}
    (hq : ∀ d ∈ ds, look q d = look s.loopQ d) (h : ({ s with loopQ := q } : State).takenUp ds k l) :
    s.takenUp ds k l := by
  induction ds generalizing k with
  | nil => exact h
  | cons d ds ih =>
    obtain ⟨m, hi, hb, hm⟩ := h
    exact ⟨m, fun hd => State.entersIdle_loopQ (s := { s with calls := k }) (hq d (by simp)) (hi hd), hb,
      ih (fun x hx => hq x (by simp [hx])) hm⟩

/-! ### The answer -/

/-- The records when a RINGING station and its originator talk and the other stations of the set are cleared (R108). -/
def Calls.answered (e : Env) (c o : Chan) (others : List Chan) (k : Calls) : Calls :=
  others.foldl (fun k d => k.toIdle d) ((k.pair c o).raise e .answer o)

theorem Calls.answer_eq (e : Env) (c o : Chan) (k : Calls) : k.answer e c o =
    (k.answered e c o ((k.ringSet o).filter (· ≠ c))).idleStages e ((k.ringSet o).filter (· ≠ c)) := rfl

/-- What stands once a RINGING station has answered (R108). -/
theorem State.answered_stands {s : State} {c o : Chan} {others : List Chan} (hco : c ≠ o) (hc : c ∉ others)
    (ho : o ∉ others) :
    (s.calls.answered s.env c o others).stands c { (s.calls.ses c).moved .talk with peer := some o } (.slot o)
      ⟨false, (s.calls.ses c).cls == .trunk⟩ (s.noticesAt c) ∧
    (s.calls.answered s.env c o others).stands o { (s.calls.ses o).moved .talk with peer := some c } (.slot c)
      ⟨false, (s.calls.ses o).cls == .trunk⟩ (s.recorded [.answer] o) ∧
    (∀ d ∈ others, (s.calls.answered s.env c o others).stands d ((s.calls.ses d).moved .idle) .none noOutput
      (s.noticesAt d)) ∧
    s.calls.onlyAt (c :: o :: others) (s.calls.answered s.env c o others) := by
  have only := Calls.foldIdle_only others ((s.calls.pair c o).raise s.env .answer o)
  have first : s.calls.onlyAt [c, o] ((s.calls.pair c o).raise s.env .answer o) :=
    Calls.onlyAt_trans (Calls.onlyAt_pair (by simp) (by simp) _) (Calls.onlyAt_raise (by simp) ..)
  obtain ⟨sc, so⟩ := Calls.pair_stands hco s.calls
  refine ⟨Calls.stands_of_sameAt (Calls.sameAt_trans (Calls.sameAt_raise hco ..) (only.1 c hc)) sc,
    Calls.stands_of_sameAt (only.1 o ho) (Calls.stands_raise s .answer so), fun d hd => ?_, ?_⟩
  · have hd' := Calls.foldIdle_stands others ((s.calls.pair c o).raise s.env .answer o) d hd
    obtain ⟨⟨h1, -, -, h4⟩, -⟩ :=
      first.1 d (by simpa using ⟨ne_of_mem_of_not_mem hd hc, ne_of_mem_of_not_mem hd ho⟩)
    rw [h1, h4] at hd'
    exact hd'
  · exact Calls.onlyAt_trans (first.mono (by simp)) (only.mono (by simp))

/-- The other stations of the ringing set of `o`. -/
theorem Calls.mem_ringSet_others {k : Calls} {c o d : Chan} :
    d ∈ (k.ringSet o).filter (· ≠ c) ↔ d ≠ c ∧ k.ringsFor o d := by
  rw [List.mem_filter, Calls.mem_ringSet_iff, decide_eq_true_eq, and_comm]

/-- Settles O20: the answer, and the other stations of the set as they are taken up. -/
theorem answerJoinsTheParties : Obligations.AnswerJoinsTheParties := by
  unfold Obligations.AnswerJoinsTheParties
  intro c o s unrung hr ho hc hs hp hos hq ht hf hun
  have hx : s.calls.takeSeize (s.offHookAt c).env c = s.calls.answer (s.offHookAt c).env c o := by
    simp [Calls.takeSeize, hs, hp]
  have hlist : unrung = (s.calls.ringSet o).filter (· ≠ c) := by
    rw [hun, Calls.ringSet, List.filter_filter]
    exact List.filter_congr fun d _ => by simp
  have hmem : ∀ d, d ∈ unrung ↔ d ≠ c ∧ s.calls.ringsFor o d := fun d => by rw [hlist, Calls.mem_ringSet_others]
  have hco : c ≠ o := by
    rintro rfl
    simp [hs] at hos
  have hcu : c ∉ unrung := fun h => ((hmem c).mp h).1 rfl
  have hou : o ∉ unrung := fun h => by simp [((hmem o).mp h).2.1] at hos
  obtain ⟨sc, so, rung, only, batt, pool, groups, bridges⟩ :=
    State.answered_stands (s := s.offHookAt c) (others := unrung) hco hcu hou
  have hloop : ∀ d, d ≠ c → look (s.offHookAt c).loopQ d = look s.loopQ d := fun d hd => look_put_ne _ _ _ _ (Ne.symm hd)
  rw [exec_seize hr ho hc hq ht hf, hx, Calls.answer_eq, ← hlist]
  refine ⟨(s.offHookAt c).calls.answered (s.offHookAt c).env c o unrung, _, rfl, ?_, so,
    fun d hd hro => rung d ((hmem d).mpr ⟨hd, hro⟩), fun d hd hdo hro => only d ?_, batt, pool, groups, bridges, ?_,
    fun hnq hrest => ?_⟩
  · rw [show ((s.offHookAt c).calls.ses c).cls = .station from hc] at sc
    exact sc
  · simp [hd, hdo, hmem, hro]
  · refine State.takenUp_loopQ (q := (s.offHookAt c).loopQ) (fun d hd => hloop d ((hmem d).mp hd).1)
      (State.takenUp_stages (s := s.offHookAt c) ho unrung _ fun d hd _ => ?_)
    obtain ⟨h1, h2, h3, -⟩ := rung d hd
    exact ⟨by rw [h1, Session.moved_idle_twice], h2, h3, rfl⟩
  · have hreach : Reach s.calls (s.calls.answered (s.offHookAt c).env c o unrung) :=
      ((s.calls.pair_reach c o).trans (Calls.raise_reach ..)).trans (Calls.foldIdle_reach ..)
    refine State.idleStages_atRest (s := s.offHookAt c) hreach.cls (fun g => ?_) fun d hd => ?_
    · exact (Calls.group_of_groups groups g ▸ hnq g)
    · obtain ⟨hdc, hro⟩ := (hmem d).mp hd
      exact (hrest d hdc hro).congr rfl (hloop d hdc) rfl

end Sys2Proof.Machine
end

section
/-! Leaving a call (R16, R18, R20, R21, R150, R151, R152): the rows by which a party leaves, and a party that holds
nobody. -/

namespace Sys2Proof.Machine

/-! ### The rows -/

/-- What becomes of the channel itself in each way of leaving (R16, R150, R151, R152). -/
def Leaving.last (e : Env) (c : Chan) (cls : ChanClass) : Leaving → Calls → Calls
  | .hangUp | .farOpen => fun k => (k.toReleasing e c).raise e .release c
  | .drop => if cls = .trunk then Calls.toReleasing e c else Calls.toLockout c
  | .transfer => Calls.toHostwait c

/-- The records that a way of leaving leaves. -/
def Leaving.left (s : State) (c : Chan) (x : Leaving) : Calls :=
  (x.delivered s c).calls.unwind (x.delivered s c).env (x == .transfer) c
    (x.last (x.delivered s c).env c (s.calls.ses c).cls)

theorem Calls.takeDisconnect_release {e : Env} {c : Chan} {k : Calls} (h : (k.ses c).state ∈ [SState.seized, .collecting,
    .hostwait, .outring, .trunkwait, .queued, .talk, .held, .confer, .toneout, .lockout]) :
    k.takeDisconnect e c = k.release e c := by
  simp only [List.mem_cons, List.not_mem_nil, or_false] at h
  rcases h with h | h | h | h | h | h | h | h | h | h | h <;> simp [Calls.takeDisconnect, h]

theorem Calls.takeFarOpen_release {e : Env} {c : Chan} {k : Calls}
    (h : (k.ses c).state ∈ [SState.seizing, .talk, .held, .confer] ∨ (k.ses c).state = .hostwait ∧ (k.levels c).loop = true) :
    k.takeFarOpen e c = k.release e c := by
  simp only [List.mem_cons, List.not_mem_nil, or_false] at h
  rcases h with (h | h | h | h) | ⟨h, hl⟩
  case inr => simp [Calls.takeFarOpen, h, hl]
  all_goals simp [Calls.takeFarOpen, h]

theorem exec_hangUp {s : State} {c : Chan} {p : Params} (hr : Leaving.hangUp.ready s c p)
    (hl : Leaving.hangUp.leaves s c) : exec (.flashMaxExpiry c .now) s =
      .next ((Leaving.hangUp.delivered s c).close (Leaving.hangUp.left s c)) := by
  obtain ⟨hres, ho, hc, hq, ht, hf⟩ := hr
  rw [exec_flashMaxExpiry .now c hres hq ht]
  have hd := State.deliver_fresh (s := Leaving.hangUp.delivered s c) (c := c) (v := .disconnect) ho hc hf
  rw [show (Leaving.hangUp.delivered s c).calls.event (Leaving.hangUp.delivered s c).env c .disconnect = _ from
    Calls.takeDisconnect_release hl] at hd
  exact congrArg _ hd

theorem exec_farOpen {s : State} {c : Chan} {p : Params} (hr : Leaving.farOpen.ready s c p)
    (hl : Leaving.farOpen.leaves s c) : exec (.farOpenMinExpiry c .now) s =
      .next ((Leaving.farOpen.delivered s c).close (Leaving.farOpen.left s c)) := by
  obtain ⟨hres, ho, hc, hb, hf⟩ := hr
  rw [exec_farOpenMinExpiry .now c hres hb]
  have hd := State.deliver_fresh (s := Leaving.farOpen.delivered s c) (c := c) (v := .farOpen) ho hc hf
  rw [show (Leaving.farOpen.delivered s c).calls.event (Leaving.farOpen.delivered s c).env c .farOpen = _ from
    Calls.takeFarOpen_release hl] at hd
  exact congrArg _ hd

/-- DROP clears the session of every channel that has one, but for a RINGING station (R151, R152). -/
theorem dropBody_session {s : State} {c : Chan} (h : (s.calls.ses c).state ∉ [SState.idle, .blocked, .releasing, .ringing]) :
    dropBody c s = withSessions c none (s.calls.dropSession s.env c) s := by
  unfold dropBody
  split <;> simp_all

theorem exec_drop {s : State} {c : Chan} {p : Params} (ht : s.taking .drop p) (ho : s.op = .run)
    (hc : (look p 0).toNat = c) :
    exec .drop s = .next ((dropBody c s).state.mail (Mailbox.post (dropBody c s).code (dropBody c s).bytes)) :=
  takeChecked _ ht (readChan_eq_some hc) (by rw [ho]; rfl)

theorem exec_transfer {s : State} {c : Chan} {p : Params} (ht : s.taking .transfer p) (ho : s.op = .run)
    (hc : (look p 0).toNat = c) : exec .transfer s =
      .next ((transferBody c s).state.mail (Mailbox.post (transferBody c s).code (transferBody c s).bytes)) :=
  takeChecked _ ht (readChan_eq_some hc) (by rw [ho]; rfl)

theorem exec_drop_session {s : State} {c : Chan} {p : Params} (h : Option Chan) (hr : Leaving.drop.ready s c p)
    (hl : Leaving.drop.leaves s c) : exec .drop s = .next (Leaving.drop.result s c h (Leaving.drop.left s c)) := by
  obtain ⟨ht, ho, hc⟩ := hr
  have hs : (s.calls.ses c).state ∉ [SState.idle, .blocked, .releasing, .ringing] := by
    intro hs
    rcases hl with ⟨-, hl⟩ | ⟨-, hl⟩ <;> simp only [List.mem_cons, List.not_mem_nil, or_false] at hs <;>
      rcases hs with hs | hs | hs | hs <;> simp [hs] at hl
  rw [exec_drop ht ho hc, dropBody_session hs, reply_session]
  rfl

theorem exec_transfer_held {s : State} {c h : Chan} {p : Params} (hr : Leaving.transfer.ready s c p)
    (hh : (s.calls.ses c).holds = some h) :
    exec .transfer s = .next (Leaving.transfer.result s c (some h) (Leaving.transfer.left s c)) := by
  obtain ⟨ht, ho, hc⟩ := hr
  have hb : transferBody c s = withSessions c (some h) (s.calls.unwind s.env true c (Calls.toHostwait c)) s := by
    unfold transferBody
    rw [hh]
  rw [exec_transfer ht ho hc, hb, withSessions_state, withSessions_code, withSessions_bytes]
  rfl

/-- Each way of leaving, taken by its row: the held party is handed on, what the state held is given up, and the channel
itself ends (R16). -/
theorem Leaving.exec_row {x : Leaving} {s : State} {c : Chan} {p : Params} {h : Option Chan} (hr : x.ready s c p)
    (hl : x.leaves s c) (hh : x = .transfer → (s.calls.ses c).holds = h ∧ h ≠ none) :
    exec (x.row c) s = .next (x.result s c h (x.left s c)) := by
  cases x with
  | hangUp => exact exec_hangUp hr hl
  | farOpen => exact exec_farOpen hr hl
  | drop => exact exec_drop_session h hr hl
  | transfer =>
    obtain ⟨hh, hn⟩ := hh rfl
    obtain ⟨d, rfl⟩ := Option.ne_none_iff_exists'.mp hn
    exact exec_transfer_held hr hh

/-! ### A party that holds nobody -/

theorem Session.moved_holds_none {r : Session} (h : r.holds = none) (st : SState) : (r.moved st).holds = none := by
  show (if st = .releasing ∨ st = .idle then none else r.holds) = none
  rw [h, ite_self]

/-- A channel that holds nobody holds nobody when any channel has entered another state. -/
theorem Calls.enter_holds_none {k : Calls} {d : Chan} (h : (k.ses d).holds = none) (c : Chan) (st : SState)
    {f : Session → Session} (hf : ∀ r, (f r).holds = r.holds) : ((k.enter c st f).ses d).holds = none := by
  rw [Calls.ses_enter]
  split
  · rw [hf]
    exact Session.moved_holds_none (by simp_all) st
  · exact h

theorem Calls.alter_holds_none {k : Calls} {d : Chan} (h : (k.ses d).holds = none) (c : Chan) {f : Session → Session}
    (hf : ∀ r, r.holds = none → (f r).holds = none) : ((k.alter c f).ses d).holds = none := by
  rw [Calls.ses_alter]
  split
  · exact hf _ (by simp_all)
  · exact h

theorem Calls.foldIdle_holds_none {d : Chan} (l : List Chan) {k : Calls} (h : (k.ses d).holds = none) :
    ((l.foldl (fun k d => k.toIdle d) k).ses d).holds = none := by
  induction l generalizing k with
  | nil => exact h
  | cons c l ih => exact ih (k.enter_holds_none h c .idle fun _ => rfl)

theorem Calls.toReleasing_holds_none {k : Calls} {d : Chan} (h : (k.ses d).holds = none) (e : Env) (c : Chan) :
    ((k.toReleasing e c).ses d).holds = none := k.enter_holds_none h c .releasing fun _ => rfl

theorem Calls.toToneout_holds_none {k : Calls} {d : Chan} (h : (k.ses d).holds = none) (e : Env) (t : ToneOut)
    (c : Chan) : ((k.toToneout e t c).ses d).holds = none := k.enter_holds_none h c .toneout fun _ => rfl

theorem Calls.toTalk_holds_none {k : Calls} {d : Chan} (h : (k.ses d).holds = none) (c p : Chan) :
    ((k.toTalk c p).ses d).holds = none := k.enter_holds_none h c .talk fun _ => rfl

theorem Calls.returnReceiver_holds_none {k : Calls} {d : Chan} (h : (k.ses d).holds = none) (e : Env) (r : RxIx) :
    ((k.returnReceiver e r).ses d).holds = none := by
  unfold Calls.returnReceiver
  split
  · exact h
  · exact h
  · split
    · next x q _ =>
      exact Calls.enter_holds_none (k := ({ k with rxQueue := q } : Calls).setRx r _) h x .collecting fun _ => rfl
    · exact h

/-- Giving up a state makes nobody a holder. -/
theorem Calls.giveUp_holds_none {k : Calls} {d : Chan} (h : (k.ses d).holds = none) (e : Env) (c : Chan) :
    ((k.giveUp e c).ses d).holds = none := by
  have hclear : ((k.clearRinging c).ses d).holds = none :=
    Calls.alter_holds_none (Calls.foldIdle_holds_none _ h) c fun _ => id
  have hrx : ((k.alter c fun x => { x with receiver := none }).ses d).holds = none := k.alter_holds_none h c fun _ => id
  have hpeer : ((k.alter c fun x => { x with peer := none }).ses d).holds = none := k.alter_holds_none h c fun _ => id
  unfold Calls.giveUp
  split
  · exact h
  · split
    · exact Calls.returnReceiver_holds_none hrx e _
    · exact h
  · exact hclear
  · exact hclear
  · split
    · exact Calls.toReleasing_holds_none hpeer e _
    · exact h
  · exact h
  · split
    · unfold Calls.dropPartner
      split
      · exact Calls.toReleasing_holds_none hpeer e _
      · exact Calls.toToneout_holds_none hpeer e _ _
    · exact h
  · unfold Calls.freeHolder
    split
    · exact k.alter_holds_none h _ fun _ _ => rfl
    · exact h
  · unfold Calls.leaveBridge
    split
    · exact h
    · split
      · exact Calls.toTalk_holds_none (Calls.toTalk_holds_none (k := k.setMembers _ []) h _ _) _ _
      · exact h
  · split
    · exact Calls.toToneout_holds_none hpeer e _ _
    · exact h
  all_goals exact h

/-- `r'` is a record that holds nobody, and but for that differs from `r` in fields of the state it leaves alone. -/
def Session.spent (r r' : Session) : Prop := r' = { r with
  receiver := r'.receiver, peer := r'.peer, holds := none, ringCount := r'.ringCount, phaseOn := r'.phaseOn
  cycles := r'.cycles, timer := r'.timer }

/-- `c` has handed on whom it held and raised nothing: only its own end is left to come (R16). -/
def State.spentAt (s : State) (c : Chan) (k : Calls) : Prop :=
  Session.spent (s.calls.ses c) (k.ses c) ∧ look k.notices c = s.noticesAt c

theorem Session.spent.cls {r r' : Session} (h : r.spent r') : r'.cls = r.cls := by
  rw [h]

/-- A record that is spent enters the states of R16, R150 and R151 as the record it was. -/
theorem Session.spent.moved {r r' : Session} (h : r.spent r') {st : SState}
    (hst : st ∈ [SState.releasing, .lockout, .hostwait]) : r'.moved st = { r.moved st with holds := none } := by
  simp only [List.mem_cons, List.not_mem_nil, or_false] at hst
  rw [h]
  rcases hst with rfl | rfl | rfl <;> simp [Session.moved, SState.hasPeer, SState.rings]

theorem State.spentAt_self {s : State} {c : Chan} (h : (s.calls.ses c).holds = none) : s.spentAt c s.calls := by
  refine ⟨?_, rfl⟩
  unfold Session.spent
  rw [← h]

/-- Giving up its state spends a record. -/
theorem State.spentAt.giveUp {s : State} {c : Chan} {k : Calls} (h : s.spentAt c k) (e : Env)
    (hp : (k.ses c).peer ≠ some c) (hq : (k.ses c).state = .collecting → c ∉ k.rxQueue) :
    s.spentAt c (k.giveUp e c) := by
  obtain ⟨hs, hn⟩ := h
  obtain ⟨own, hn'⟩ := Calls.giveUp_own e c k hp hq
  refine ⟨?_, hn'.trans hn⟩
  have hh : (k.ses c).holds = none := by rw [hs]
  unfold Session.spent
  rw [← Calls.giveUp_holds_none hh e c, congrArg Session.timer own]
  refine own.trans ?_
  rw [show k.ses c = _ from hs]

/-- The channel itself alone changes at its own end. -/
theorem Leaving.last_only (x : Leaving) (e : Env) (c : Chan) (cls : ChanClass) (k : Calls) :
    k.onlyAt [c] (x.last e c cls k) := by
  cases x with
  | hangUp | farOpen => exact Calls.onlyAt_toReleasing_raise ..
  | drop =>
    show k.onlyAt [c] ((if cls = .trunk then Calls.toReleasing e c else Calls.toLockout c) k)
    split <;> exact Calls.onlyAt_enter (by simp) ..
  | transfer => exact Calls.onlyAt_enter (by simp) ..

theorem Leaving.last_reach (x : Leaving) (e : Env) (c : Chan) (cls : ChanClass) (k : Calls) :
    Reach k (x.last e c cls k) := by
  cases x with
  | hangUp | farOpen => exact (k.toReleasing_reach e c).trans (Calls.raise_reach ..)
  | drop =>
    show Reach k ((if cls = .trunk then Calls.toReleasing e c else Calls.toLockout c) k)
    split
    · exact k.toReleasing_reach e c
    · exact k.toLockout_reach c
  | transfer => exact k.toHostwait_reach c

/-- A way of leaving reads and changes no session record before the Session Table does. -/
theorem Leaving.delivered_calls (x : Leaving) (s : State) (c : Chan) :
    (x.delivered s c).calls = { s.calls with battQ := (x.delivered s c).calls.battQ } := by
  cases x <;> rfl

theorem Leaving.delivered_ses (x : Leaving) (s : State) (c d : Chan) : (x.delivered s c).calls.ses d = s.calls.ses d := by
  cases x <;> rfl

theorem Leaving.delivered_op (x : Leaving) (s : State) (c : Chan) : (x.delivered s c).op = s.op := by
  cases x <;> rfl

/-- The qualifiers of the other lines stand as they were. -/
theorem Leaving.delivered_lines (x : Leaving) (s : State) (c d : Chan) (h : d ≠ c) :
    look (x.delivered s c).loopQ d = look s.loopQ d ∧ look (x.delivered s c).ringQ d = look s.ringQ d := by
  cases x with
  | hangUp => exact ⟨look_put_ne _ _ _ _ (Ne.symm h), rfl⟩
  | farOpen | drop | transfer => exact ⟨rfl, rfl⟩

theorem Leaving.op_run {x : Leaving} {s : State} {c : Chan} {p : Params} (h : x.ready s c p) : s.op = .run := by
  cases x with
  | hangUp | farOpen | drop | transfer => exact h.2.1

/-- The end of a channel whose record is spent (R16, R150, R151, R152). -/
theorem Leaving.last_gone {x : Leaving} {s : State} {c : Chan} {k : Calls} (h : s.spentAt c k)
    (hc : x = .transfer → (s.calls.ses c).cls ≠ .trunk) :
    x.gone s c (x.last (x.delivered s c).env c (s.calls.ses c).cls k) := by
  obtain ⟨hs, hn⟩ := h
  have hrel : (k.ses c).moved .releasing = (s.calls.ses c).moved .releasing := by
    rw [hs.moved (by simp)]
    simp [Session.moved]
  cases x with
  | hangUp =>
    exact Calls.stands_raise s .release (State.toReleasing_stands (s := Leaving.hangUp.delivered s c) hrel hs.cls hn)
  | farOpen =>
    exact Calls.stands_raise s .release (State.toReleasing_stands (s := Leaving.farOpen.delivered s c) hrel hs.cls hn)
  | drop =>
    refine ⟨fun hc => ?_, fun hc => ?_⟩
    · rw [show Leaving.drop.last _ c (s.calls.ses c).cls = _ from if_pos hc]
      exact State.toReleasing_stands hrel hs.cls hn
    · rw [show Leaving.drop.last _ c (s.calls.ses c).cls = _ from if_neg hc]
      have hst := k.toLockout_stands c
      rw [hs.moved (by simp), hn] at hst
      exact hst
  | transfer =>
    have hst := Calls.stands_enter c .hostwait id k
    have hl : ((k.ses c).moved .hostwait).levels (k.levels c) = noOutput := by
      simp [Session.levels, noOutput, hs.cls, hc rfl]
    rw [id, hl, hs.moved (by simp), hn] at hst
    exact hst

/-- A party that holds nobody gives up its state, ends, and the stations it rang go through stages 2 and 3 of R27. -/
theorem Calls.unwind_alone {e : Env} {park : Bool} {c : Chan} {last : Calls → Calls} {k : Calls}
    (h : (k.ses c).holds = none) : k.unwind e park c last = (last (k.giveUp e c)).idleStages e (k.returning c) := by
  have hk : k.handOnHeld e park c = k := by
    unfold Calls.handOnHeld
    rw [h]
  unfold Calls.unwind
  dsimp only
  rw [hk]

/-- The stations that `c` rings, listed as the statements list them. -/
theorem Calls.returning_eq (k : Calls) (c : Chan) : k.returning c = (List.finRange 32).filter (fun d =>
    (k.ses c).state ∈ [SState.outring, .ringin] ∧ (k.ses d).state = .ringing ∧ (k.ses d).peer = some c) := by
  unfold Calls.returning
  split
  · next h =>
    refine List.filter_congr fun d _ => ?_
    have hst : (k.ses c).state ∈ [SState.outring, .ringin] := by simpa [SState.rings_iff] using h
    simp [hst]
  · next h =>
    have hst : (k.ses c).state ∉ [SState.outring, .ringin] := by simpa [SState.rings_iff] using h
    simp [hst]

/-- Settles O21: the release in its stages (R16), by what giving up leaves. -/
theorem leavingGivesUpWhatTheStateHeld : Obligations.LeavingGivesUpWhatTheStateHeld := by
  unfold Obligations.LeavingGivesUpWhatTheStateHeld
  intro x c s p unrung hx hr hl hh hp hb hq hun
  have hses := x.delivered_ses s c
  have hcalls := x.delivered_calls s c
  have hop : (x.delivered s c).op = .run := (x.delivered_op s c).trans (Leaving.op_run hr)
  have hgone : ∀ k, s.spentAt c k → x.gone s c (x.last (x.delivered s c).env c (s.calls.ses c).cls k) :=
    fun k hk => Leaving.last_gone hk fun h => absurd h hx
  rw [Leaving.exec_row (h := none) hr hl fun h => absurd h hx, Leaving.left]
  have hlines := x.delivered_lines s c
  generalize x.delivered s c = u at hses hcalls hop hgone hlines ⊢
  have hrx : u.calls.rxQueue = s.calls.rxQueue := by rw [hcalls]
  have hp' : (u.calls.ses c).peer ≠ some c := by rwa [hses]
  have hb' : (u.calls.ses c).heldBy ≠ some c := by rwa [hses]
  have hq' : (u.calls.ses c).state = .collecting → c ∉ u.calls.rxQueue := by rwa [hses, hrx]
  have hun' : unrung = u.calls.returning c := by
    rw [hun, Calls.returning_eq]
    simp only [hses]
  have hg := State.gaveUp_trans u c [c] _ _ (State.giveUp_gaveUp hp' hb' hq')
    (x.last_only u.env c (s.calls.ses c).cls _) (by simp) fun d hd => by simpa using Calls.linked_ne hp' hb' hq' hd
  have hspent : s.spentAt c (u.calls.giveUp u.env c) :=
    State.spentAt.giveUp (by rw [hcalls]; exact State.spentAt_self hh) u.env hp' hq'
  have hk := (u.calls.giveUp_reach u.env c).trans (x.last_reach u.env c (s.calls.ses c).cls _)
  rw [Calls.unwind_alone (by rwa [hses]), ← hun']
  refine ⟨_, _, rfl, hgone _ hspent, hg, State.takenUp_stages hop unrung _ fun d hd _ => hg.clearedAt (hun' ▸ hd), fun hm => ?_⟩
  rw [hun']
  exact State.idleStages_returning (hm.congr (by rw [hcalls]) hrx (by rw [hcalls]) hlines) hg hk

end Sys2Proof.Machine
end

section
/-! What an operation leaves of channels it does not concern: giving up a state beside a party that has been handed on,
and the stages of R27 beside a channel that no placement can reach. -/

namespace Sys2Proof.Machine

/-! ### The same operation on records that differ at a few channels -/

theorem Calls.onlyAt.enter {cs : List Chan} {k l : Calls} (h : k.onlyAt cs l) (t : Chan) (st : SState)
    (f : Session → Session) : (k.enter t st f).onlyAt cs (l.enter t st f) := by
  refine ⟨fun d hd => ?_, h.2⟩
  obtain ⟨⟨h1, h2, h3, h4⟩, h5⟩ := h.1 d hd
  by_cases ht : t = d
  · subst ht
    refine ⟨⟨?_, ?_, ?_, h4⟩, h5⟩ <;> simp [h1, h3]
  · refine ⟨⟨?_, ?_, ?_, h4⟩, h5⟩ <;> simp [ht, h1, h2, h3]

theorem Calls.onlyAt.alter {cs : List Chan} {k l : Calls} (h : k.onlyAt cs l) (t : Chan) (f : Session → Session) :
    (k.alter t f).onlyAt cs (l.alter t f) := by
  refine ⟨fun d hd => ?_, h.2⟩
  obtain ⟨⟨h1, h2, h3, h4⟩, h5⟩ := h.1 d hd
  refine ⟨⟨?_, h2, h3, h4⟩, h5⟩
  by_cases ht : t = d
  · subst ht
    simp [h1]
  · simp [ht, h1]

theorem Calls.onlyAt.foldIdle {cs : List Chan} (ds : List Chan) {k l : Calls} (h : k.onlyAt cs l) :
    (ds.foldl (fun k d => k.toIdle d) k).onlyAt cs (ds.foldl (fun k d => k.toIdle d) l) := by
  induction ds generalizing k l with
  | nil => exact h
  | cons d ds ih => exact ih (h.enter d .idle id)

theorem Calls.onlyAt.setRx {cs : List Chan} {k l : Calls} (h : k.onlyAt cs l) (r : RxIx) (x : Receiver) :
    (k.setRx r x).onlyAt cs (l.setRx r x) := by
  obtain ⟨only, batt, ⟨hr, hq⟩, groups, bridges⟩ := h
  exact ⟨only, batt, ⟨by rw [Calls.setRx, hr]; rfl, hq⟩, groups, bridges⟩

theorem Calls.onlyAt.setRxQueue {cs : List Chan} {k l : Calls} (h : k.onlyAt cs l) (q : List Chan) :
    ({ k with rxQueue := q } : Calls).onlyAt cs { l with rxQueue := q } := by
  obtain ⟨only, batt, ⟨hr, -⟩, groups, bridges⟩ := h
  exact ⟨only, batt, ⟨hr, rfl⟩, groups, bridges⟩

theorem Calls.onlyAt.leaveQueues {cs : List Chan} {k l : Calls} (h : k.onlyAt cs l) (c : Chan) :
    (k.leaveQueues c).onlyAt cs (l.leaveQueues c) := by
  obtain ⟨only, batt, pool, groups, bridges⟩ := h
  exact ⟨only, batt, pool, by rw [Calls.leaveQueues, groups]; rfl, bridges⟩

theorem Calls.onlyAt.rx {cs : List Chan} {k l : Calls} (h : k.onlyAt cs l) (r : RxIx) : l.rx r = k.rx r := by
  obtain ⟨-, -, ⟨hr, -⟩, -, -⟩ := h
  rw [Calls.rx, hr]
  rfl

theorem Calls.onlyAt.returnReceiver {cs : List Chan} {k l : Calls} (h : k.onlyAt cs l) (e : Env) (r : RxIx) :
    (k.returnReceiver e r).onlyAt cs (l.returnReceiver e r) := by
  have hq : l.rxQueue = k.rxQueue := h.2.2.1.2
  unfold Calls.returnReceiver
  rw [h.rx r, hq]
  split
  · exact h.setRx r _
  · exact h.setRx r _
  · split
    · next x q _ =>
      unfold Calls.lend
      rw [show Calls.rx { l with rxQueue := q } r = Calls.rx { k with rxQueue := q } r from h.rx r]
      exact ((h.setRxQueue q).setRx r _).enter x _ _
    · exact h.setRx r _

/-- The states of a holder that pass no party on, and TRUNKWAIT: what they give up is no session of a partner in TALK, of a
holder or of a bridge. -/
def SState.aside : List SState := [.seized, .collecting, .hostwait, .outring, .trunkwait, .queued, .toneout, .lockout]

/-- Giving up a state does the same beside a few other channels, when the channel itself and its ringing set stand. -/
theorem Calls.onlyAt.giveUp {cs : List Chan} {k l : Calls} {c : Chan} (h : k.onlyAt cs l) (e : Env)
    (hst : (l.ses c).state = (k.ses c).state) (hrx : (l.ses c).receiver = (k.ses c).receiver)
    (hp : (l.ses c).peer = (k.ses c).peer) (hring : l.ringSet c = k.ringSet c) (ha : (k.ses c).state ∈ SState.aside) :
    (k.giveUp e c).onlyAt cs (l.giveUp e c) := by
  have hq : l.rxQueue = k.rxQueue := h.2.2.1.2
  unfold Calls.giveUp
  rw [hst, hrx, hp, hq]
  split
  case h_1 => exact h.setRxQueue _
  case h_2 =>
    split
    · exact (h.alter c _).returnReceiver e _
    · exact h
  case h_3 | h_4 =>
    unfold Calls.clearRinging
    rw [hring]
    exact (h.foldIdle _).alter c _
  case h_5 =>
    split
    · exact (h.alter c _).enter _ _ _
    · exact h
  case h_6 => exact h.leaveQueues c
  case h_7 hs | h_8 hs | h_9 hs | h_10 hs => simp [hs, SState.aside] at ha
  all_goals exact h

/-- A channel that is not given up with the state of another stands. -/
theorem Calls.giveUp_sameAt {k : Calls} {c d : Chan} (e : Env) (hd : d ≠ c) (hn : ¬k.linked c d)
    (ha : (k.ses c).state ∈ SState.aside) : k.sameAt d (k.giveUp e c) := by
  unfold Calls.giveUp
  split
  case h_1 => exact Calls.sameAt_rxQueue ..
  case h_2 hs =>
    split
    · refine Calls.sameAt_trans (Calls.sameAt_alter hd ..) (Calls.sameAt_returnReceiver e _ d _ fun hq => ?_)
      exact hn (.inl ⟨hs, hq⟩)
    · exact Calls.sameAt_refl d k
  case h_3 hs | h_4 hs =>
    refine Calls.sameAt_trans ((Calls.foldIdle_only (k.ringSet c) k).1 d fun hm => ?_) (Calls.sameAt_alter hd ..)
    exact hn (.inr (.inl ⟨by simp [hs], (Calls.mem_ringSet_iff ..).mp hm⟩))
  case h_5 hs =>
    split
    · next t ht =>
      refine Calls.sameAt_trans (Calls.sameAt_alter hd ..) (Calls.sameAt_enter ?_ _ _ _)
      rintro rfl
      exact hn (.inr (.inr (.inl ⟨by simp [hs], ht⟩)))
    · exact Calls.sameAt_refl d k
  case h_6 => exact Calls.sameAt_groups ..
  case h_7 hs | h_8 hs | h_9 hs | h_10 hs => simp [hs, SState.aside] at ha
  all_goals exact Calls.sameAt_refl d k

/-! ### A channel out of the reach of a placement -/

/-- No placement concerns `c`: it is not IDLE, so that no hunt chooses it, and nobody's queue holds it. -/
def Calls.outOfReach (c : Chan) (k : Calls) : Prop := (k.ses c).state ≠ .idle ∧ ∀ g, c ∉ (k.group g).queue

/-- `c` stands, and stays out of reach. -/
def Calls.passes (c : Chan) (k l : Calls) : Prop := k.outOfReach c → k.sameAt c l ∧ l.outOfReach c

theorem Calls.passes_refl (c : Chan) (k : Calls) : k.passes c k := fun h => ⟨Calls.sameAt_refl c k, h⟩

theorem Calls.passes.trans {c : Chan} {k l m : Calls} (h1 : k.passes c l) (h2 : l.passes c m) : k.passes c m := by
  intro h
  obtain ⟨s1, r1⟩ := h1 h
  obtain ⟨s2, r2⟩ := h2 r1
  exact ⟨Calls.sameAt_trans s1 s2, r2⟩

/-- Where `c` stands and no queue gains it, it passes. -/
theorem Calls.passes_of_sameAt {c : Chan} {k l : Calls} (h : k.sameAt c l)
    (hq : ∀ g, c ∈ (l.group g).queue → c ∈ (k.group g).queue) : k.passes c l := fun ⟨hi, hn⟩ =>
  ⟨h, by rwa [h.1.1], fun g hc => hn g (hq g hc)⟩

theorem Calls.ring_passes (e : Env) {c o m : Chan} (k : Calls) (ho : c ≠ o) (hm : c ≠ m) : k.passes c (k.ring e o m) := by
  refine Calls.passes_of_sameAt ?_ fun g => ?_
  · unfold Calls.ring
    refine Calls.sameAt_trans (Calls.sameAt_trans ?_ (Calls.sameAt_enter hm ..)) (Calls.sameAt_setOut hm ..)
    split
    · exact Calls.sameAt_alter ho ..
    · exact Calls.sameAt_enter ho ..
  · unfold Calls.ring
    split <;> exact id

theorem Calls.seizeTrunk_passes (e : Env) {c o t : Chan} (k : Calls) (ho : c ≠ o) (ht : c ≠ t) :
    k.passes c (k.seizeTrunk e o t) := by
  rw [Calls.seizeTrunk_eq]
  exact Calls.passes_of_sameAt (Calls.sameAt_trans (Calls.sameAt_trans (Calls.sameAt_enter ht ..)
    (Calls.sameAt_setBatt ht ..)) (Calls.sameAt_enter ho ..)) fun _ => id

theorem Calls.placeOn_passes (e : Env) {c o m : Chan} (k : Calls) (ho : c ≠ o) (hm : c ≠ m) :
    k.passes c (k.placeOn e o m) := by
  unfold Calls.placeOn
  split
  · exact k.seizeTrunk_passes e ho hm
  · exact k.ring_passes e ho hm

theorem Calls.busyOutcome_passes (e : Env) {c o : Chan} (k : Calls) (ho : c ≠ o) : k.passes c (k.busyOutcome e o) := by
  unfold Calls.busyOutcome
  refine Calls.passes_of_sameAt (Calls.sameAt_trans ?_ (Calls.sameAt_raise ho ..)) fun g => ?_
  · split <;> exact Calls.sameAt_enter ho ..
  · rw [Calls.group_raise]
    split <;> exact id

theorem Calls.joinQueue_passes (g : GroupIx) {c o : Chan} (k : Calls) (ho : c ≠ o) : k.passes c (k.joinQueue g o) := by
  unfold Calls.joinQueue
  refine Calls.passes_of_sameAt (Calls.sameAt_trans (Calls.sameAt_groups ..) (Calls.sameAt_enter ho ..)) fun f => ?_
  rw [Calls.group_enter, Calls.group_alterGroup]
  split
  · next hg =>
    subst hg
    simp [ho]
  · exact id

/-- A member that a hunt chooses is IDLE. -/
theorem Calls.eligible_ne {k : Calls} {method : Method} {c o m : Chan} (h : k.eligible method o m = true)
    (hc : (k.ses c).state ≠ .idle) : c ≠ m := by
  rintro rfl
  exact hc (Calls.eligible_iff.mp h).2.1

theorem Calls.ringAll_passes (e : Env) {c o : Chan} (ho : c ≠ o) (ms : List Chan) (hm : c ∉ ms) (k : Calls) :
    k.passes c (ms.foldl (fun k m => k.ring e o m) k) := by
  induction ms generalizing k with
  | nil => exact k.passes_refl c
  | cons m ms ih =>
    simp only [List.mem_cons, not_or] at hm
    exact (k.ring_passes e ho hm.1).trans (ih hm.2 _)

theorem Calls.choose_passes {e : Env} {g : GroupIx} {c o : Chan} {l : List Chan} {k m : Calls} (ho : c ≠ o)
    (h : k.choose e g o l = some m) : k.passes c m := by
  intro hr
  have hne : ∀ {method x}, k.eligible method o x = true → c ≠ x := fun hx => Calls.eligible_ne hx hr.1
  revert hr
  show k.passes c m
  unfold Calls.choose at h
  split at h
  · obtain ⟨x, hx, rfl⟩ := Option.map_eq_some_iff.mp h
    exact k.placeOn_passes e ho (hne (List.find?_some hx))
  · obtain ⟨x, hx, rfl⟩ := Option.map_eq_some_iff.mp h
    refine Calls.passes.trans (l := k.alterGroup g _) (Calls.passes_of_sameAt (Calls.sameAt_groups ..) fun f => ?_)
      (Calls.placeOn_passes e _ ho (hne (List.find?_some hx)))
    rw [Calls.group_alterGroup]
    split
    · next hg => subst hg; exact id
    · exact id
  · split at h
    · cases h
    · cases h
      exact k.ringAll_passes e ho _ fun hm => hne (List.mem_filter.mp hm).2 rfl

theorem Calls.hunt_passes (e : Env) {c o : Chan} (ho : c ≠ o) (n : Nat) (g : GroupIx) (k : Calls) :
    k.passes c (k.hunt e n g o) := by
  induction n generalizing g k with
  | zero => exact k.busyOutcome_passes e ho
  | succ n ih =>
    unfold Calls.hunt
    have hm : k.passes c (k.markGroup g o) := Calls.passes_of_sameAt (Calls.sameAt_alter ho ..) fun _ => id
    refine hm.trans ?_
    dsimp only
    split
    · next h => exact Calls.choose_passes ho h
    · split
      · exact Calls.joinQueue_passes g _ ho
      · exact ih _ _
      · exact Calls.busyOutcome_passes e _ ho

theorem Calls.incomingCall_passes (e : Env) {c t : Chan} (ht : c ≠ t) (k : Calls) : k.passes c (k.incomingCall e t) := by
  unfold Calls.incomingCall
  have hr : k.passes c (k.raise e .ringin t) :=
    Calls.passes_of_sameAt (Calls.sameAt_raise ht ..) fun g => by rw [Calls.group_raise]; exact id
  refine hr.trans ?_
  dsimp only
  split
  · exact Calls.passes_of_sameAt (Calls.sameAt_enter ht ..) fun _ => id
  · exact Calls.passes.trans (l := (k.raise e .ringin t).newAttempt t)
      (Calls.passes_of_sameAt (Calls.sameAt_alter ht ..) fun _ => id) (Calls.hunt_passes e ht huntFuel _ _)

theorem Calls.seizure_passes (e : Env) {c d : Chan} (hd : c ≠ d) (k : Calls) : k.passes c (k.seizure e d) :=
  Calls.passes_of_sameAt (k.seizure_frame e d hd) fun g => by
    rw [Calls.seizure, Calls.group_of_groups (Calls.startDialling_frame e d _).2.2.1, Calls.group_raise]
    exact id

theorem Calls.lineCheck_passes (e : Env) {c d : Chan} (hd : c ≠ d) (k : Calls) : k.passes c (k.lineCheck e d) := by
  unfold Calls.lineCheck
  split
  · split
    · exact k.seizure_passes e hd
    · exact k.seizure_passes e hd
    · exact k.passes_refl c
    · exact k.passes_refl c
  · split
    · exact k.incomingCall_passes e hd
    · exact k.passes_refl c
  · exact k.passes_refl c

theorem Calls.freePath_passes (e : Env) {c d : Chan} (hd : c ≠ d) (k : Calls) : k.passes c (k.freePath e d) := by
  unfold Calls.freePath
  split
  · next g _ =>
    unfold Calls.serveQueue
    split
    · next x q hq =>
      intro hr
      have hx : c ≠ x := by
        rintro rfl
        exact hr.2 g (by simp [hq])
      revert hr
      refine Calls.passes.trans (l := k.alterGroup g _) (Calls.passes_of_sameAt (Calls.sameAt_groups ..) fun f => ?_)
        (Calls.placeOn_passes e _ hx hd)
      rw [Calls.group_alterGroup]
      split
      · next hg =>
        subst hg
        rw [hq]
        exact List.mem_cons_of_mem x
      · exact id
    · exact k.passes_refl c
  · exact k.passes_refl c

/-- The stages of R27 for other channels leave one out of reach as it is. -/
theorem Calls.idleStages_passes (e : Env) {c : Chan} (ds : List Chan) (hd : c ∉ ds) (k : Calls) :
    k.passes c (k.idleStages e ds) := by
  have hone : ∀ d, c ≠ d → ∀ k : Calls, k.passes c (k.afterIdle e d) := by
    intro d hd k
    unfold Calls.afterIdle
    split
    · dsimp only
      split
      · exact (k.lineCheck_passes e hd).trans (Calls.freePath_passes e hd _)
      · exact k.lineCheck_passes e hd
    · exact k.passes_refl c
  unfold Calls.idleStages
  split
  · induction ds generalizing k with
    | nil => exact k.passes_refl c
    | cons d ds ih =>
      simp only [List.mem_cons, not_or] at hd
      exact (hone d hd.1 k).trans (ih hd.2 _)
  · exact k.passes_refl c

end Sys2Proof.Machine
end

section
/-! A holder leaves (R16, R144, R145, R146, R150): what becomes of the party that it holds. -/

namespace Sys2Proof.Machine

/-! ### The stages of a release -/

theorem Calls.unwind_holder {e : Env} {park : Bool} {c h : Chan} {last : Calls → Calls} {k k1 : Calls}
    (hh : (k.ses c).holds = some h) (hk : k.handOn e park c h = k1) :
    k.unwind e park c last = (last (k1.giveUp e c)).idleStages e (k1.returning c) := by
  have h1 : k.handOnHeld e park c = k1 := by
    unfold Calls.handOnHeld
    rw [hh]
    exact hk
  unfold Calls.unwind
  dsimp only
  rw [h1]

/-- With no ringing set to give up, the release ends with the channel's own end. -/
theorem Calls.unwind_passed {e : Env} {park : Bool} {c h : Chan} {last : Calls → Calls} {k k1 k2 : Calls}
    (hh : (k.ses c).holds = some h) (hk : k.handOn e park c h = k1) (hr : k1.returning c = [])
    (hg : k1.giveUp e c = k2) : k.unwind e park c last = last k2 := by
  rw [Calls.unwind_holder hh hk, hr, Calls.idleStages_nil, hg]

theorem Calls.returning_of_not_rings {k : Calls} {c : Chan} (h : (k.ses c).state.rings = false) : k.returning c = [] := by
  simp [Calls.returning, h]

theorem Calls.returning_of_nobody {k : Calls} {c : Chan} (h : k.ringSet c = []) : k.returning c = [] := by
  unfold Calls.returning
  rw [h, ite_self]

/-- What stands at a party in TALK stays when the party does. -/
theorem State.talksWith.sameAt {s : State} {a b : Chan} {ns : List Notice} {k l : Calls} (h : s.talksWith a b ns k)
    (hs : k.sameAt a l) : s.talksWith a b ns l := by
  have := Calls.stands_of_sameAt hs h
  unfold State.talksWith
  rwa [hs.1.1]

/-- The two parties of a connection. -/
theorem State.pair_talks {s : State} {a b : Chan} {k : Calls} (hab : a ≠ b) (ha : s.calls.sameAt a k)
    (hb : s.calls.sameAt b k) : s.talksWith a b [] (k.pair a b) ∧ s.talksWith b a [] (k.pair a b) ∧
      ((k.pair a b).ses a).holds = (s.calls.ses a).holds ∧ ((k.pair a b).ses b).holds = (s.calls.ses b).holds := by
  obtain ⟨sa, sb⟩ := Calls.pair_stands hab k
  rw [ha.1.1, ha.1.2.2.2] at sa
  rw [hb.1.1, hb.1.2.2.2] at sb
  have hha : ((k.pair a b).ses a).holds = (s.calls.ses a).holds := by rw [sa.1]; simp [Session.moved]
  have hhb : ((k.pair a b).ses b).holds = (s.calls.ses b).holds := by rw [sb.1]; simp [Session.moved]
  refine ⟨?_, ?_, hha, hhb⟩
  · unfold State.talksWith
    rw [hha]
    exact sa
  · unfold State.talksWith
    rw [hhb]
    exact sb

/-- A notice raised on a party in TALK. -/
theorem State.talksWith.raise {s : State} {a b : Chan} {k : Calls} (h : s.talksWith a b [] k) (n : Notice) :
    s.talksWith a b [n] (k.raise s.env n a) := by
  unfold State.talksWith at h ⊢
  rw [Calls.ses_raise]
  exact Calls.stands_raise s n h

/-! ### In TALK -/

/-- A holder in TALK leaves its held party to its partner (R144). -/
theorem State.unwind_talk {s : State} {c h q : Chan} (hs : (s.calls.ses c).state = .talk)
    (hp : (s.calls.ses c).peer = some q) (hh : (s.calls.ses c).holds = some h) (hhc : h ≠ c) (hqc : q ≠ c) (hqh : q ≠ h)
    (park : Bool) (last : Calls → Calls) : ∃ k, s.calls.unwind s.env park c last = last k ∧ s.spentAt c k ∧
      s.calls.onlyAt [c, h, q] k ∧ s.talksWith h q [.transfer] k ∧ s.talksWith q h [] k ∧
      (k.ses h).holds = (s.calls.ses h).holds ∧ (k.ses q).holds = (s.calls.ses q).holds := by
  have hk0 : ∀ d, d ≠ c → s.calls.sameAt d
      ((s.calls.alter c fun x => { x with holds := none }).alter c fun x => { x with peer := none }) := fun d hd =>
    Calls.sameAt_trans (Calls.sameAt_alter hd ..) (Calls.sameAt_alter hd ..)
  obtain ⟨th, tq, hh', hq'⟩ := State.pair_talks hqh.symm (hk0 h hhc) (hk0 q hqc)
  have hk : s.calls.handOn s.env park c h = (((s.calls.alter c fun x => { x with holds := none }).alter c fun x =>
      { x with peer := none }).pair h q).raise s.env .transfer h := by
    unfold Calls.handOn
    simp only [hs, hp]
  generalize hk1 : (((s.calls.alter c fun x => { x with holds := none }).alter c fun x =>
      { x with peer := none }).pair h q).raise s.env .transfer h = k1 at hk
  have hc : k1.ses c = { s.calls.ses c with holds := none, peer := none } ∧ look k1.notices c = s.noticesAt c := by
    have hsame : ((s.calls.alter c fun x => { x with holds := none }).alter c fun x => { x with peer := none }).sameAt c
        k1 := hk1 ▸ Calls.sameAt_trans ((Calls.onlyAt_pair (cs := [h, q]) (by simp) (by simp) _).1 c
          (by simp [hhc.symm, hqc.symm])) (Calls.sameAt_raise hhc.symm ..)
    exact ⟨by rw [hsame.1.1, Calls.ses_alter_self, Calls.ses_alter_self], hsame.1.2.2.2⟩
  have hg : k1.giveUp s.env c = k1 := by simp [Calls.giveUp, hc.1, hs]
  refine ⟨k1, Calls.unwind_passed hh hk (Calls.returning_of_not_rings ?_) hg, ⟨?_, hc.2⟩, ?_, ?_, ?_, ?_, ?_⟩
  · rw [hc.1]
    simp [hs, SState.rings]
  · unfold Session.spent
    rw [hc.1]
  · rw [← hk1]
    exact Calls.onlyAt_trans (Calls.onlyAt_trans (Calls.onlyAt_trans (Calls.onlyAt_alter (c := c) (by simp) ..)
      (Calls.onlyAt_alter (c := c) (by simp) ..)) (Calls.onlyAt_pair (by simp) (by simp) _)) (Calls.onlyAt_raise (by simp) ..)
  · rw [← hk1]
    exact th.raise .transfer
  · rw [← hk1]
    exact tq.sameAt (Calls.sameAt_raise hqh ..)
  · rw [← hk1, Calls.ses_raise]
    exact hh'
  · rw [← hk1, Calls.ses_raise]
    exact hq'

/-! ### The originator's role passed whole -/

/-- A ringing set that follows another originator: only partners change. -/
theorem Calls.foldPeer_frame (h : Chan) (l : List Chan) (k : Calls) :
    (l.foldl (fun k d => k.alter d fun x => { x with peer := some h }) k) =
      { k with sessions := (l.foldl (fun k d => k.alter d fun x => { x with peer := some h }) k).sessions } := by
  induction l generalizing k with
  | nil => rfl
  | cons d l ih => exact ih (k.alter d fun x => { x with peer := some h })

theorem Calls.foldPeer_ses (h : Chan) (l : List Chan) (k : Calls) {d : Chan} (hd : d ∈ l) :
    (l.foldl (fun k d => k.alter d fun x => { x with peer := some h }) k).ses d = { k.ses d with peer := some h } := by
  induction l generalizing k with
  | nil => cases hd
  | cons c l ih =>
    rw [List.foldl_cons]
    by_cases hl : d ∈ l
    · rw [ih _ hl, Calls.ses_alter]
      split <;> rfl
    · have hc : d = c := by simpa [hl] using hd
      rw [Calls.ses_foldPeer l _ hl, hc, Calls.ses_alter_self]

/-- The records when the ringing set of `c` has passed to `h` (R145): the set names `h`, `h` rings it as `c` did. -/
theorem Calls.passRinging_stands {k : Calls} {c h : Chan} (hc : (k.ses c).state ≠ .ringing)
    (hh : (k.ses h).state ≠ .ringing) (hne : h ≠ c) :
    (k.passRinging c h).ses c = { (k.ses c).noRinging with timer := none } ∧
    look (k.passRinging c h).notices c = look k.notices c ∧
    (k.passRinging c h).stands h { (k.ses h).moved .outring with
        ringCount := (k.ses c).ringCount, phaseOn := (k.ses c).phaseOn, cycles := (k.ses c).cycles
        timer := (k.ses c).timer, curGroup := (k.ses c).curGroup, tried := (k.ses c).tried }
      (.tone .ringback) noOutput (look k.notices h) ∧
    (∀ d, k.ringsFor c d → (k.passRinging c h).stands d { k.ses d with peer := some h } (look k.listen d) (k.levels d)
      (look k.notices d)) ∧
    (∀ d, d ∉ [c, h] → ¬k.ringsFor c d → k.sameAt d (k.passRinging c h)) ∧
    (k.passRinging c h).battQ = k.battQ ∧ k.samePool (k.passRinging c h) ∧ (k.passRinging c h).groups = k.groups ∧
    (k.passRinging c h).bridges = k.bridges := by
  have hmem : ∀ d, d ∈ k.ringSet c ↔ k.ringsFor c d := Calls.mem_ringSet_iff k c
  have hcn : c ∉ k.ringSet c := fun hm => hc ((hmem c).mp hm).1
  have hhn : h ∉ k.ringSet c := fun hm => hh ((hmem h).mp hm).1
  have frame := Calls.foldPeer_frame h (k.ringSet c) k
  have moved := fun d => Calls.foldPeer_ses h (k.ringSet c) k (d := d)
  have kept := fun d => Calls.ses_foldPeer (h := h) (k.ringSet c) k (d := d)
  refine ⟨Calls.ses_passRinging k hne hc, ?_⟩
  unfold Calls.passRinging
  dsimp only
  generalize (k.ringSet c).foldl (fun k d => k.alter d fun x => { x with peer := some h }) k = k1 at frame moved kept ⊢
  have hsame : ∀ d, d ∉ k.ringSet c → k.sameAt d k1 := fun d hd =>
    ⟨⟨kept d hd, by rw [frame], by rw [frame]; rfl, by rw [frame]⟩, by rw [frame]; rfl⟩
  have hlast : ∀ d, d ∉ [c, h] → k1.sameAt d ((k1.enter h .outring fun x => { x with
      ringCount := (k.ses c).ringCount, phaseOn := (k.ses c).phaseOn, cycles := (k.ses c).cycles
      timer := (k.ses c).timer, curGroup := (k.ses c).curGroup, tried := (k.ses c).tried }).alter c fun x =>
      { x.noRinging with timer := none }) := fun d hd => by
    simp only [List.mem_cons, List.not_mem_nil, or_false, not_or] at hd
    exact Calls.sameAt_trans (Calls.sameAt_enter hd.2 ..) (Calls.sameAt_alter hd.1 ..)
  refine ⟨?_, ?_, fun d hd => ?_, fun d hd hn => Calls.sameAt_trans (hsame d fun hm => hn ((hmem d).mp hm)) (hlast d hd),
    ?_, ⟨?_, ?_⟩, ?_, ?_⟩
  · exact (hsame c hcn).1.2.2.2
  · have hst := Calls.stands_enter h .outring (fun x => { x with
      ringCount := (k.ses c).ringCount, phaseOn := (k.ses c).phaseOn, cycles := (k.ses c).cycles
      timer := (k.ses c).timer, curGroup := (k.ses c).curGroup, tried := (k.ses c).tried }) k1
    rw [(hsame h hhn).1.1, (hsame h hhn).1.2.2.2] at hst
    exact Calls.stands_of_sameAt (Calls.sameAt_alter hne ..) hst
  · have hdc : d ∉ [c, h] := by
      simp only [List.mem_cons, List.not_mem_nil, or_false, not_or]
      exact ⟨fun h => hc (h ▸ hd.1), fun h => hh (h ▸ hd.1)⟩
    exact Calls.stands_of_sameAt (hlast d hdc)
      ⟨moved d ((hmem d).mpr hd), by rw [frame], by rw [frame]; rfl, by rw [frame]⟩
  all_goals
    rw [frame]
    rfl

/-- A holder in OUTRING passes its ringing set to a held party that is no trunk (R145). -/
theorem State.unwind_passRinging {s : State} {c h : Chan} (hs : (s.calls.ses c).state = .outring)
    (hh : (s.calls.ses c).holds = some h) (hst : (s.calls.ses h).state = .held) (hhc : h ≠ c)
    (ht : (s.calls.ses h).cls ≠ .trunk) (park : Bool) (last : Calls → Calls) :
    ∃ k, s.calls.unwind s.env park c last = last k ∧ s.spentAt c k ∧
      (∀ d, d ∉ [c, h] → ¬s.calls.ringsFor c d → s.calls.sameAt d k) ∧ k.battQ = s.calls.battQ ∧ s.calls.samePool k ∧
      k.groups = s.calls.groups ∧ k.bridges = s.calls.bridges ∧
      (∀ d, s.calls.ringsFor c d → k.stands d { s.calls.ses d with peer := some h } (look s.calls.listen d)
        (s.calls.levels d) (s.noticesAt d)) ∧
      k.stands h { (s.calls.ses h).moved .outring with
          ringCount := (s.calls.ses c).ringCount, phaseOn := (s.calls.ses c).phaseOn, cycles := (s.calls.ses c).cycles
          timer := (s.calls.ses c).timer, curGroup := (s.calls.ses c).curGroup, tried := (s.calls.ses c).tried }
        (.tone .ringback) noOutput (s.recorded [.transfer] h) := by
  have hsame : ∀ d, d ≠ c → s.calls.sameAt d (s.calls.alter c fun x => { x with holds := none }) := fun d hd =>
    Calls.sameAt_alter hd ..
  have hrings : ∀ d, (s.calls.alter c fun x => { x with holds := none }).ringsFor c d ↔ s.calls.ringsFor c d :=
    Calls.ringsFor_alter (f := fun x => { x with holds := none }) rfl rfl c
  have hc0 : (s.calls.alter c fun x => { x with holds := none }).ses c = { s.calls.ses c with holds := none } :=
    Calls.ses_alter_self ..
  obtain ⟨own, note, role, rung, others, batt, pool, groups, bridges⟩ :=
    Calls.passRinging_stands (k := s.calls.alter c fun x => { x with holds := none }) (c := c) (h := h)
      (by rw [hc0]; simp [hs]) (by rw [(hsame h hhc).1.1]; simp [hst]) hhc
  have hk : s.calls.handOn s.env park c h =
      ((s.calls.alter c fun x => { x with holds := none }).passRinging c h).raise s.env .transfer h := by
    unfold Calls.handOn
    simp only [hs, if_neg ht]
  generalize hk1 : (s.calls.alter c fun x => { x with holds := none }).passRinging c h = k1 at *
  have hnone : (k1.raise s.env .transfer h).ringSet c = [] := by
    refine List.eq_nil_iff_forall_not_mem.mpr fun d hd => ?_
    obtain ⟨hdr, hdp⟩ := (Calls.mem_ringSet_iff ..).mp hd
    rw [Calls.ses_raise] at hdr hdp
    by_cases hdm : d ∈ [c, h]
    · simp only [List.mem_cons, List.not_mem_nil, or_false] at hdm
      rcases hdm with rfl | rfl
      · simp [own, hc0, Session.noRinging, hs] at hdr
      · simp [role.1] at hdr
    · by_cases hro : (s.calls.alter c fun x => { x with holds := none }).ringsFor c d
      · rw [(rung d hro).1] at hdp
        exact hhc (Option.some.inj hdp)
      · obtain ⟨⟨h1, -⟩, -⟩ := others d hdm hro
        exact hro ⟨by rw [← h1, hdr], by rw [← h1, hdp]⟩
  have hg : (k1.raise s.env .transfer h).giveUp s.env c = (k1.raise s.env .transfer h).alter c Session.noRinging := by
    have hsc : ((k1.raise s.env .transfer h).ses c).state = .outring := by rw [Calls.ses_raise, own, hc0]; exact hs
    unfold Calls.giveUp Calls.clearRinging
    simp only [hsc, hnone]
    rfl
  refine ⟨_, Calls.unwind_passed hh hk (Calls.returning_of_nobody hnone) hg, ?_, ?_⟩
  · refine ⟨?_, ?_⟩
    · unfold Session.spent
      rw [Calls.ses_alter_self, Calls.ses_raise, own, hc0]
      rfl
    · exact (Calls.sameAt_raise hhc.symm s.env .transfer k1).1.2.2.2.trans note
  · have hend : ∀ d, d ∉ [c, h] → k1.sameAt d ((k1.raise s.env .transfer h).alter c Session.noRinging) := fun d hd => by
      simp only [List.mem_cons, List.not_mem_nil, or_false, not_or] at hd
      exact Calls.sameAt_trans (Calls.sameAt_raise hd.2 ..) (Calls.sameAt_alter hd.1 ..)
    have hrest := Calls.onlyAt_trans (Calls.onlyAt_raise (cs := [c, h]) (c := h) (by simp) s.env .transfer k1)
      (Calls.onlyAt_alter (c := c) (by simp) _ Session.noRinging)
    obtain ⟨-, batt', pool', groups', bridges'⟩ := hrest
    refine ⟨fun d hd hn => ?_, batt'.trans batt, Calls.samePool.trans pool pool', groups'.trans groups,
      bridges'.trans bridges, fun d hd => ?_, ?_⟩
    · exact Calls.sameAt_trans (hsame d (by simp_all)) (Calls.sameAt_trans
        (others d hd fun h => hn ((hrings d).mp h)) (hend d hd))
    · have hdc : d ∉ [c, h] := by
        simp only [List.mem_cons, List.not_mem_nil, or_false]
        rintro (rfl | rfl)
        · exact absurd (hs.symm.trans hd.1) (by decide)
        · exact absurd (hst.symm.trans hd.1) (by decide)
      have hr := rung d ((hrings d).mpr hd)
      rw [(hsame d (by simp_all)).1.1] at hr
      exact Calls.stands_of_sameAt (hend d hdc) hr
    · rw [(hsame h hhc).1.1, hc0] at role
      exact Calls.stands_of_sameAt (Calls.sameAt_alter hhc ..) (Calls.stands_raise s .transfer role)

/-- The records when the seizing trunk `t` of `c` has passed to `h` (R145). -/
theorem Calls.passTrunk_stands {k : Calls} {c h t : Chan} (hhc : h ≠ c) (htc : t ≠ c) (hth : t ≠ h) :
    (k.passTrunk c h t).ses c = { k.ses c with peer := none } ∧
    (k.passTrunk c h t).stands h { (k.ses h).moved .trunkwait with
        peer := some t, curGroup := (k.ses c).curGroup, tried := (k.ses c).tried } .none noOutput (look k.notices h) ∧
    (k.passTrunk c h t).stands t { k.ses t with peer := some h } (look k.listen t) (k.levels t) (look k.notices t) ∧
    k.onlyAt [c, h, t] (k.passTrunk c h t) := by
  refine ⟨k.ses_passTrunk hhc htc, ?_, ?_, ?_⟩
  · have hst := Calls.stands_enter h .trunkwait (fun x => { x with
      peer := some t, curGroup := (k.ses c).curGroup, tried := (k.ses c).tried })
      (k.alter t fun x => { x with peer := some h })
    rw [Calls.ses_alter_ne _ _ _ _ hth] at hst
    exact Calls.stands_of_sameAt (Calls.sameAt_alter hhc ..) hst
  · refine Calls.stands_of_sameAt (Calls.sameAt_trans (Calls.sameAt_enter hth ..) (Calls.sameAt_alter htc ..))
      (k := k.alter t fun x => { x with peer := some h }) ⟨Calls.ses_alter_self .., rfl, rfl, rfl⟩
  · exact Calls.onlyAt_trans (Calls.onlyAt_trans (Calls.onlyAt_alter (c := t) (by simp) ..)
      (Calls.onlyAt_enter (c := h) (by simp) ..)) (Calls.onlyAt_alter (c := c) (by simp) ..)

/-- A holder in TRUNKWAIT passes its seizing trunk to a held party that is no trunk (R145). -/
theorem State.unwind_passTrunk {s : State} {c h t : Chan} (hs : (s.calls.ses c).state = .trunkwait)
    (hp : (s.calls.ses c).peer = some t) (hh : (s.calls.ses c).holds = some h) (hhc : h ≠ c) (htc : t ≠ c) (hth : t ≠ h)
    (ht : (s.calls.ses h).cls ≠ .trunk) (park : Bool) (last : Calls → Calls) :
    ∃ k, s.calls.unwind s.env park c last = last k ∧ s.spentAt c k ∧ s.calls.onlyAt [c, h, t] k ∧
      k.stands t { s.calls.ses t with peer := some h } (look s.calls.listen t) (s.calls.levels t) (s.noticesAt t) ∧
      k.stands h { (s.calls.ses h).moved .trunkwait with
          peer := some t, curGroup := (s.calls.ses c).curGroup, tried := (s.calls.ses c).tried }
        .none noOutput (s.recorded [.transfer] h) := by
  have hsame : ∀ d, d ≠ c → s.calls.sameAt d (s.calls.alter c fun x => { x with holds := none }) := fun d hd =>
    Calls.sameAt_alter hd ..
  have hc0 : (s.calls.alter c fun x => { x with holds := none }).ses c = { s.calls.ses c with holds := none } :=
    Calls.ses_alter_self ..
  obtain ⟨own, role, partner, only⟩ :=
    Calls.passTrunk_stands (k := s.calls.alter c fun x => { x with holds := none }) hhc htc hth
  have hk : s.calls.handOn s.env park c h =
      ((s.calls.alter c fun x => { x with holds := none }).passTrunk c h t).raise s.env .transfer h := by
    unfold Calls.handOn
    simp only [hs, hp, if_neg ht]
  have hn : look ((s.calls.alter c fun x => { x with holds := none }).passTrunk c h t).notices c = s.noticesAt c := rfl
  generalize (s.calls.alter c fun x => { x with holds := none }).passTrunk c h t = k1 at *
  have hc1 : (k1.raise s.env .transfer h).ses c = { s.calls.ses c with holds := none, peer := none } := by
    rw [Calls.ses_raise, own, hc0]
  have hg : (k1.raise s.env .transfer h).giveUp s.env c = k1.raise s.env .transfer h := by
    simp [Calls.giveUp, hc1, hs]
  refine ⟨_, Calls.unwind_passed hh hk (Calls.returning_of_not_rings ?_) hg, ⟨?_, ?_⟩, ?_, ?_, ?_⟩
  · rw [hc1]
    simp [hs, SState.rings]
  · unfold Session.spent
    rw [hc1]
  · exact (Calls.sameAt_raise hhc.symm s.env .transfer k1).1.2.2.2.trans hn
  · exact Calls.onlyAt_trans (Calls.onlyAt_trans (Calls.onlyAt_alter (c := c) (by simp) ..) only)
      (Calls.onlyAt_raise (by simp) ..)
  · rw [(hsame t htc).1.1] at partner
    exact Calls.stands_of_sameAt (Calls.sameAt_raise hth ..) partner
  · rw [(hsame h hhc).1.1, hc0] at role
    exact Calls.stands_raise s .transfer role

/-- The records when the queue place of `c` has passed to `h` (R145). -/
theorem Calls.passQueue_stands {k : Calls} {c h : Chan} (hhc : h ≠ c) :
    (k.passQueue c h).ses c = { k.ses c with timer := none } ∧
    ((k.ses h).cls = .station → (k.passQueue c h).stands h { (k.ses h).moved .queued with
        curGroup := (k.ses c).curGroup, tried := (k.ses c).tried, timer := (k.ses c).timer }
      (.tone .ringback) noOutput (look k.notices h)) ∧
    (∀ d, d ∉ [c, h] → k.sameAt d (k.passQueue c h)) ∧
    ∀ g, (k.passQueue c h).group g = { k.group g with
      queue := (k.group g).queue.map fun y => if y = c then h else y } := by
  refine ⟨k.ses_passQueue hhc, fun hc => ?_, fun d hd => ?_, fun g => ?_⟩
  · refine Calls.stands_of_sameAt (Calls.sameAt_alter hhc ..) (k := Calls.enter h .queued _ { k with groups := _ }) ?_
    have hst := Calls.stands_enter h .queued (fun x => { x with
      curGroup := (k.ses c).curGroup, tried := (k.ses c).tried, timer := (k.ses c).timer }) { k with
        groups := every (fun g : Group => { g with queue := g.queue.map fun x => if x = c then h else x }) k.groups }
    have hl : Session.listen { (k.ses h).moved .queued with
        curGroup := (k.ses c).curGroup, tried := (k.ses c).tried, timer := (k.ses c).timer } = .tone .ringback := by
      simp [Session.listen, hc]
    exact ⟨hst.1, hst.2.1.trans hl, hst.2.2.1, hst.2.2.2⟩
  · simp only [List.mem_cons, List.not_mem_nil, or_false, not_or] at hd
    exact Calls.sameAt_trans (Calls.sameAt_groups ..) (Calls.sameAt_trans (Calls.sameAt_enter hd.2 ..)
      (Calls.sameAt_alter hd.1 ..))
  · show look (every _ k.groups) g = _
    rw [look_every]
    rfl

/-- A holder in QUEUED passes its queue place to a held party that is no trunk (R145). -/
theorem State.unwind_passQueue {s : State} {c h : Chan} (hs : (s.calls.ses c).state = .queued)
    (hh : (s.calls.ses c).holds = some h) (hhc : h ≠ c) (ht : (s.calls.ses h).cls ≠ .trunk) (park : Bool)
    (last : Calls → Calls) : ∃ k, s.calls.unwind s.env park c last = last k ∧ s.spentAt c k ∧ s.othersStand [c, h] k ∧
      k.battQ = s.calls.battQ ∧ s.calls.samePool k ∧ k.bridges = s.calls.bridges ∧
      (∀ g, k.group g = { s.calls.group g with
        queue := (s.calls.group g).queue.map fun y => if y = c then h else y }) ∧
      ((s.calls.ses h).cls = .station → k.stands h { (s.calls.ses h).moved .queued with
          curGroup := (s.calls.ses c).curGroup, tried := (s.calls.ses c).tried, timer := (s.calls.ses c).timer }
        (.tone .ringback) noOutput (s.recorded [.transfer] h)) := by
  have hsame : ∀ d, d ≠ c → s.calls.sameAt d (s.calls.alter c fun x => { x with holds := none }) := fun d hd =>
    Calls.sameAt_alter hd ..
  have hc0 : (s.calls.alter c fun x => { x with holds := none }).ses c = { s.calls.ses c with holds := none } :=
    Calls.ses_alter_self ..
  obtain ⟨own, role, others, groups⟩ := Calls.passQueue_stands (k := s.calls.alter c fun x => { x with holds := none }) hhc
  have hk : s.calls.handOn s.env park c h =
      ((s.calls.alter c fun x => { x with holds := none }).passQueue c h).raise s.env .transfer h := by
    unfold Calls.handOn
    simp only [hs, if_neg ht]
  have frame : ((s.calls.alter c fun x => { x with holds := none }).passQueue c h).battQ = s.calls.battQ ∧
      s.calls.samePool ((s.calls.alter c fun x => { x with holds := none }).passQueue c h) ∧
      ((s.calls.alter c fun x => { x with holds := none }).passQueue c h).bridges = s.calls.bridges ∧
      look ((s.calls.alter c fun x => { x with holds := none }).passQueue c h).notices c = s.noticesAt c :=
    ⟨rfl, ⟨rfl, rfl⟩, rfl, rfl⟩
  generalize (s.calls.alter c fun x => { x with holds := none }).passQueue c h = k1 at *
  obtain ⟨batt, pool, bridges, hn⟩ := frame
  have hc1 : (k1.raise s.env .transfer h).ses c = { s.calls.ses c with holds := none, timer := none } := by
    rw [Calls.ses_raise, own, hc0]
  have hg : (k1.raise s.env .transfer h).giveUp s.env c = (k1.raise s.env .transfer h).leaveQueues c := by
    simp [Calls.giveUp, hc1, hs]
  refine ⟨_, Calls.unwind_passed hh hk (Calls.returning_of_not_rings ?_) hg, ⟨?_, ?_⟩, fun d hd => ?_, ?_, ?_, ?_,
    fun g => ?_, fun hcls => ?_⟩
  · rw [hc1]
    simp [hs, SState.rings]
  · show Session.spent (s.calls.ses c) ((k1.raise s.env .transfer h).ses c)
    unfold Session.spent
    rw [hc1]
  · exact (Calls.sameAt_raise hhc.symm s.env .transfer k1).1.2.2.2.trans hn
  · have hd' : d ≠ c ∧ d ≠ h := by simpa using hd
    exact Calls.sameAt_trans (hsame d hd'.1) (Calls.sameAt_trans (others d hd) (Calls.sameAt_trans
      (Calls.sameAt_raise hd'.2 ..) (Calls.sameAt_groups ..)))
  · rw [Calls.leaveQueues_battQ, Calls.raise_battQ, batt]
  · exact Calls.samePool.trans pool ⟨by simp, by simp⟩
  · rw [Calls.leaveQueues_bridges, Calls.raise_bridges, bridges]
  · have hkeep : ∀ q : List Chan, (q.map fun y => if y = c then h else y).filter (· ≠ c) =
        q.map fun y => if y = c then h else y := fun q => by
      rw [List.filter_eq_self]
      intro x hx
      obtain ⟨y, -, rfl⟩ := List.mem_map.mp hx
      by_cases hy : y = c <;> simp [hy, hhc]
    rw [Calls.group_leaveQueues, Calls.group_raise, groups]
    simp only [hkeep]
    rfl
  · rw [(hsame h hhc).1.1, hc0] at role
    replace role := role hcls
    exact Calls.stands_of_sameAt (Calls.sameAt_groups ..) (Calls.stands_raise s .transfer role)

end Sys2Proof.Machine
end

section
/-! A holder leaves: the held party that is parked or sent away, and the statement about held parties. -/

namespace Sys2Proof.Machine

/-! ### The held party parked or sent away -/

/-- `c` holds `h` no more, and but for those two nothing has changed. -/
def State.parted (s : State) (c h : Chan) (k : Calls) : Prop :=
  s.calls.onlyAt [c, h] k ∧ k.ses c = { s.calls.ses c with holds := none } ∧ look k.notices c = s.noticesAt c ∧
    (k.ses h).state ≠ .ringing

/-- The states of a holder in which its held party is parked or sent away whatever its class (R144). -/
def SState.idleHolder : List SState := [.seized, .collecting, .hostwait, .toneout, .lockout]

/-- The states of a holder in which a held trunk is answered and the originator's role is given up (R145). -/
def SState.originator : List SState := [.outring, .trunkwait, .queued]

theorem State.park_parked {s : State} {h : Chan} {k : Calls} (hs : k.ses h = s.calls.ses h)
    (hn : look k.notices h = s.noticesAt h) :
    s.parked h [.transfer] ((k.toHostwaitAnswered h).raise s.env .transfer h) := by
  refine Calls.stands_raise s .transfer ?_
  refine ⟨?_, ?_, ?_, hn⟩
  · simp [Calls.toHostwaitAnswered, Calls.toHostwait, hs]
  · simp [Calls.toHostwaitAnswered, Calls.toHostwait, Session.listen]
  · simp [Calls.toHostwaitAnswered, hs]

theorem State.sentAway.not_ringing {s : State} {p : Chan} {k : Calls} (h : s.sentAway p k) :
    (k.ses p).state ≠ .ringing := by
  by_cases ht : (s.calls.ses p).cls = .trunk
  · rw [(h.1 ht).1]
    simp
  · rw [(h.2 ht).1]
    simp

/-- A party parted from its holder, by a change of it alone. -/
theorem State.parted_of_onlyAt {s : State} {c h : Chan} {k : Calls} (hhc : h ≠ c)
    (hk : (s.calls.alter c fun x => { x with holds := none }).onlyAt [h] k) (hr : (k.ses h).state ≠ .ringing) :
    s.parted c h k := by
  obtain ⟨⟨h1, -, -, h4⟩, -⟩ := hk.1 c (by simpa using hhc.symm)
  refine ⟨Calls.onlyAt_trans (Calls.onlyAt_alter (c := c) (by simp) ..) (hk.mono (by simp)), ?_, h4, hr⟩
  rw [h1, Calls.ses_alter_self]

/-- The held party of a holder that has no role to pass to it is parked, or sent away (R144, R145, R150). -/
theorem State.handOn_parted {s : State} {c h : Chan} (hhc : h ≠ c) (park : Bool)
    (hs : (s.calls.ses c).state ∈ SState.idleHolder ∨
      (s.calls.ses h).cls = .trunk ∧ (s.calls.ses c).state ∈ SState.originator)
    (hp : (s.calls.ses c).state = .trunkwait → (s.calls.ses c).peer ≠ none) :
    s.parted c h (s.calls.handOn s.env park c h) ∧
      ((s.calls.ses c).state ∈ SState.originator ∨ park = true → s.parked h [.transfer] (s.calls.handOn s.env park c h)) ∧
      ((s.calls.ses c).state ∉ SState.originator → park = false → s.sentAway h (s.calls.handOn s.env park c h)) := by
  have hk0 : (s.calls.alter c fun x => { x with holds := none }).ses h = s.calls.ses h := Calls.ses_alter_ne _ _ _ _ hhc.symm
  have hparked := State.park_parked (s := s) hk0 rfl
  have hparted : s.parted c h
      (((s.calls.alter c fun x => { x with holds := none }).toHostwaitAnswered h).raise s.env .transfer h) := by
    refine State.parted_of_onlyAt hhc (Calls.onlyAt_trans (Calls.onlyAt_trans (Calls.onlyAt_enter (by simp) ..)
      (Calls.onlyAt_setOut (by simp) ..)) (Calls.onlyAt_raise (by simp) ..)) ?_
    rw [hparked.1]
    simp
  by_cases ho : (s.calls.ses c).state ∈ SState.originator
  · have hi : (s.calls.ses c).state ∉ SState.idleHolder := fun hi => by
      revert ho hi
      cases (s.calls.ses c).state <;> decide
    have ht : (s.calls.ses h).cls = .trunk := (hs.resolve_left hi).1
    have hk : s.calls.handOn s.env park c h =
        ((s.calls.alter c fun x => { x with holds := none }).toHostwaitAnswered h).raise s.env .transfer h := by
      simp only [SState.originator, List.mem_cons, List.not_mem_nil, or_false] at ho
      unfold Calls.handOn
      rcases ho with ho | ho | ho
      · simp only [ho, if_pos ht]
      · obtain ⟨t, hpt⟩ := Option.ne_none_iff_exists'.mp (hp ho)
        simp only [ho, hpt, if_pos ht]
      · simp only [ho, if_pos ht]
    rw [hk]
    exact ⟨hparted, fun _ => hparked, fun hn => absurd ho hn⟩
  · have hi : (s.calls.ses c).state ∈ SState.idleHolder := hs.resolve_right fun h => ho h.2
    have hk : s.calls.handOn s.env park c h =
        (s.calls.alter c fun x => { x with holds := none }).partHeld s.env park h := by
      simp only [SState.idleHolder, List.mem_cons, List.not_mem_nil, or_false] at hi
      unfold Calls.handOn
      rcases hi with hi | hi | hi | hi | hi <;> simp only [hi]
    rw [hk]
    cases park with
    | true => exact ⟨hparted, fun _ => hparked, fun _ h => absurd h (by decide)⟩
    | false =>
      have haway := Calls.dropPartner_sentAway s h (s.calls.alter c fun x => { x with holds := none }) hk0 rfl
      exact ⟨State.parted_of_onlyAt hhc (Calls.dropPartner_only s.env (by simp) _) haway.not_ringing,
        fun h => h.elim (fun h => absurd h ho) fun h => absurd h (by decide), fun _ _ => haway⟩

/-! ### What a parted holder gives up -/

theorem SState.aside_of_holder {st : SState} (h : st ∈ SState.idleHolder ∨ st ∈ SState.originator) : st ∈ SState.aside := by
  revert h
  cases st <;> decide

/-- The ringing set of a parted holder is the one it had. -/
theorem State.parted.ringsFor {s : State} {c h d : Chan} {k : Calls} (hk : s.parted c h k)
    (hst : (s.calls.ses h).state = .held) : k.ringsFor c d ↔ s.calls.ringsFor c d := by
  obtain ⟨only, hc, -, hh⟩ := hk
  unfold Calls.ringsFor
  by_cases hd : d ∈ [c, h]
  · simp only [List.mem_cons, List.not_mem_nil, or_false] at hd
    rcases hd with rfl | rfl
    · rw [hc]
    · simp [hh, hst]
  · rw [(only.1 d hd).1.1]

theorem State.parted.ringSet {s : State} {c h : Chan} {k : Calls} (hk : s.parted c h k)
    (hst : (s.calls.ses h).state = .held) : k.ringSet c = s.calls.ringSet c :=
  List.filter_congr fun d _ => by
    have := hk.ringsFor (d := d) hst
    simp only [Calls.ringsFor] at this
    rw [Bool.eq_iff_iff]
    simpa using this

/-- Its held party is none of those that a holder in such a state gives up. -/
theorem Calls.linked_held {k : Calls} {c h : Chan} (ha : (k.ses c).state ∈ SState.aside) (hst : (k.ses h).state ≠ .ringing)
    (hq : h ∉ k.rxQueue) (hp : (k.ses c).peer ≠ some h) : ¬k.linked c h := by
  rintro (⟨-, hd⟩ | ⟨-, hd⟩ | ⟨-, hd⟩ | ⟨hs, -⟩ | ⟨hs, -⟩)
  · exact hq hd
  · exact hst hd.1
  · exact hp hd
  · simp [hs, SState.aside] at ha
  · simp [hs, SState.aside] at ha

/-- A parted holder that gives up its state, and ends, leaves what R11 says; its held party stands. -/
theorem State.parted.gaveUp {s : State} {c h : Chan} {k l : Calls} (hk : s.parted c h k)
    (hl : (k.giveUp s.env c).onlyAt [c] l) (hhc : h ≠ c) (hst : (s.calls.ses h).state = .held)
    (ha : (s.calls.ses c).state ∈ SState.aside) (hm : s.mayGiveUp c) (hq : h ∉ s.calls.rxQueue)
    (hp : (s.calls.ses c).peer ≠ some h) : s.gaveUp c [c, h] l ∧ k.sameAt h l := by
  have hr := hk.ringSet hst
  obtain ⟨only, hc, -, hh⟩ := hk
  obtain ⟨hpc, hbc, hxc, -⟩ := hm
  have hnh : (s.calls.ses h).state ≠ .ringing := by rw [hst]; decide
  refine ⟨State.gaveUp_trans s c [c, h] _ _ (State.giveUp_gaveUp hpc hbc hxc) (Calls.onlyAt_trans
    (only.giveUp s.env (by rw [hc]) (by rw [hc]) (by rw [hc]) hr ha) (hl.mono (by simp))) (by simp) fun d hd => ?_, ?_⟩
  · simp only [List.mem_cons, List.not_mem_nil, or_false, not_or]
    refine ⟨Calls.linked_ne hpc hbc hxc hd, ?_⟩
    rintro rfl
    exact Calls.linked_held ha hnh hq hp hd
  · refine Calls.sameAt_trans (Calls.giveUp_sameAt s.env hhc (Calls.linked_held (by rwa [hc]) hh ?_ (by rwa [hc]))
      (by rwa [hc])) (hl.1 h (by simpa using hhc))
    rw [only.2.2.1.2]
    exact hq

/-- With the lines of its ringing set at rest and nobody queued, its going leads to nothing more. -/
theorem State.parted.stages_rest {s : State} {c h : Chan} {k l : Calls} (hk : s.parted c h k)
    (hl : s.gaveUp c [c, h] l) (hreach : Reach s.calls l) (hst : (s.calls.ses h).state = .held) (hm : s.mayGiveUp c) :
    l.idleStages s.env (k.returning c) = l := by
  obtain ⟨-, -, -, hrest⟩ := hm
  have hsc : (k.ses c).state = (s.calls.ses c).state := by rw [hk.2.1]
  have hmem : ∀ d ∈ k.returning c, (s.calls.ses c).state ∈ [SState.outring, .ringin] ∧ s.calls.ringsFor c d :=
    fun d hd => by
      obtain ⟨hs, hr, -⟩ := Calls.mem_returning hd
      exact ⟨by rwa [hsc] at hs, (hk.ringsFor hst).mp hr⟩
  by_cases hs : (s.calls.ses c).state ∈ [SState.outring, .ringin]
  · exact State.idleStages_atRest hreach.cls (hl.noQueue hs (hrest hs).1) fun d hd => (hrest hs).2 d (hmem d hd).2
  · rw [show k.returning c = [] from List.eq_nil_iff_forall_not_mem.mpr fun d hd => hs (hmem d hd).1,
      Calls.idleStages_nil]

theorem State.sentAway.sameAt {s : State} {p : Chan} {k l : Calls} (h : s.sentAway p k) (hs : k.sameAt p l) :
    s.sentAway p l :=
  ⟨fun hc => Calls.stands_of_sameAt hs (h.1 hc), fun hc => Calls.stands_of_sameAt hs (h.2 hc)⟩

/-! ### The statement -/

theorem Leaving.gone_of_sameAt {x : Leaving} {s : State} {c : Chan} {k l : Calls} (h : x.gone s c k)
    (hs : k.sameAt c l) : x.gone s c l := by
  cases x with
  | hangUp | farOpen | transfer => exact Calls.stands_of_sameAt hs h
  | drop => exact ⟨fun hc => Calls.stands_of_sameAt hs (h.1 hc), fun hc => Calls.stands_of_sameAt hs (h.2 hc)⟩

/-- Who has left is not IDLE. -/
theorem Leaving.gone_not_idle {x : Leaving} {s : State} {c : Chan} {k : Calls} (h : x.gone s c k) :
    (k.ses c).state ≠ .idle := by
  cases x with
  | hangUp | farOpen | transfer =>
    rw [h.1]
    simp
  | drop =>
    by_cases hc : (s.calls.ses c).cls = .trunk
    · rw [(h.1 hc).1]
      simp
    · rw [(h.2 hc).1]
      simp

theorem State.parted.spentAt {s : State} {c h : Chan} {k : Calls} (hk : s.parted c h k) : s.spentAt c k := by
  obtain ⟨-, hc, hn, -⟩ := hk
  refine ⟨?_, hn⟩
  unfold Session.spent
  rw [hc]

/-- Who returns to IDLE with the going of a parted holder does not reach the holder: it is not IDLE, and only a QUEUED
channel is in a queue (R115). -/
theorem State.parted.stages_sameAt {s : State} {c h : Chan} {k l : Calls} (hk : s.parted c h k)
    (hq : s.calls.queuesLaw) (hl : (k.giveUp s.env c).onlyAt [c] l) (hi : (l.ses c).state ≠ .idle) :
    l.sameAt c (l.idleStages s.env (k.returning c)) := by
  by_cases hst : (k.ses c).state ∈ [SState.outring, .ringin]
  · refine (Calls.idleStages_passes s.env (k.returning c) (fun hm => (Calls.mem_returning hm).2.2 rfl) l ⟨hi, fun g hg => ?_⟩).1
    have hgroups : l.groups = s.calls.groups := by
      rw [hl.2.2.2.1]
      refine Eq.trans ?_ hk.1.2.2.2.1
      simp only [List.mem_cons, List.not_mem_nil, or_false] at hst
      rcases hst with hst | hst <;>
        simp only [Calls.giveUp, hst] <;> exact (Calls.foldIdle_only (k.ringSet c) k).2.2.2.1
    rw [Calls.group_of_groups hgroups] at hg
    have hqd := ((hq.2 g).2.2 c).mp hg
    rw [hk.2.1] at hst
    simp [hqd.1] at hst
  · rw [show k.returning c = [] from List.eq_nil_iff_forall_not_mem.mpr fun d hd => hst (Calls.mem_returning hd).1,
      Calls.idleStages_nil]
    exact Calls.sameAt_refl c l

/-- The ways of leaving but the far end's change nothing before the Session Table does but the loop qualifier of their own
line. -/
theorem Leaving.delivered_eq {x : Leaving} (hx : x ≠ .farOpen) (s : State) (c : Chan) :
    x.delivered s c = { s with loopQ := (x.delivered s c).loopQ } := by
  cases x with
  | hangUp | drop | transfer => rfl
  | farOpen => exact absurd rfl hx

/-- A holder leaves from one of the states of a holder (R3, R139). -/
theorem Leaving.leaves_holder {x : Leaving} {s : State} {c : Chan} (hx : x ≠ .farOpen) (h : x.leaves s c)
    (hc : (s.calls.ses c).cls = .station) (h1 : (s.calls.ses c).state ≠ .held) (h2 : (s.calls.ses c).state ≠ .confer) :
    (s.calls.ses c).state = .talk ∨ (s.calls.ses c).state ∈ SState.idleHolder ∨
      (s.calls.ses c).state ∈ SState.originator := by
  have holders : ∀ st : SState, st ≠ .held → st ≠ .confer → st ∈ [SState.seized, .collecting, .hostwait, .outring,
      .trunkwait, .queued, .talk, .held, .confer, .toneout, .lockout] →
      st = .talk ∨ st ∈ SState.idleHolder ∨ st ∈ SState.originator := by
    intro st
    cases st <;> decide
  refine holders _ h1 h2 ?_
  cases x with
  | hangUp => exact h
  | transfer =>
    simp only [Leaving.leaves, List.mem_cons, List.not_mem_nil, or_false] at h ⊢
    tauto
  | drop => exact (h.resolve_right fun h => by simp [hc] at h).2
  | farOpen => exact absurd rfl hx

/-- Settles O22: the held party goes to the partner, takes the role, or is parked or sent away. -/
theorem heldPartiesAreHandedOn : Obligations.HeldPartiesAreHandedOn := by
  unfold Obligations.HeldPartiesAreHandedOn
  intro x c h s p hx hr hl hcls hh hheld hhc hnh hnc hpc hph htalk htrunk hcoll hqueues
  have hdel := Leaving.delivered_eq hx s c
  have hgone : ∀ k, s.spentAt c k → x.gone s c (x.last (x.delivered s c).env c (s.calls.ses c).cls k) :=
    fun k hk => Leaving.last_gone hk fun _ => by rw [hcls]; decide
  have hlines := x.delivered_lines s c
  have honly := x.last_only (x.delivered s c).env c (s.calls.ses c).cls
  have hreach := x.last_reach (x.delivered s c).env c (s.calls.ses c).cls
  have hholder := Leaving.leaves_holder hx hl hcls hnh hnc
  refine ⟨_, Leaving.exec_row hr hl fun _ => ⟨hh, by simp⟩, ?_⟩
  unfold Leaving.left
  generalize x.last (x.delivered s c).env c (s.calls.ses c).cls = last at hgone honly hreach ⊢
  rw [hdel]
  generalize (x.delivered s c).loopQ = q at *
  have hne : ∀ {t}, (s.calls.ses c).peer = some t → t ≠ c ∧ t ≠ h := fun ht =>
    ⟨fun he => hpc (he ▸ ht), fun he => hph (he ▸ ht)⟩
  have htalks := fun t hs ht => State.unwind_talk (s := { s with loopQ := q }) (q := t) hs ht hh hhc (hne ht).1 (hne ht).2
    (x == .transfer) last
  have hrings := fun hs ht => State.unwind_passRinging (s := { s with loopQ := q }) hs hh hheld hhc ht
    (x == .transfer) last
  have htrunks := fun t hs hp ht => State.unwind_passTrunk (s := { s with loopQ := q }) (t := t) hs hp hh hhc (hne hp).1
    (hne hp).2 ht (x == .transfer) last
  have hqueued := fun hs ht => State.unwind_passQueue (s := { s with loopQ := q }) hs hh hhc ht (x == .transfer) last
  have hparts := fun hcase => State.handOn_parted (s := { s with loopQ := q }) hhc (x == .transfer) hcase htrunk
  refine ⟨?gone, fun t hs ht => ?talk, fun ht hs => ?ringing, fun t ht hs hp => ?trunk, fun ht hs => ?queue,
    fun hcase hm hq => ?parted⟩
  case gone =>
    have hparted : (s.calls.ses c).state ∈ SState.idleHolder ∨
        (s.calls.ses h).cls = .trunk ∧ (s.calls.ses c).state ∈ SState.originator →
        x.gone s c (({ s with loopQ := q } : State).calls.unwind ({ s with loopQ := q } : State).env (x == .transfer) c
          last) := fun hcase => by
      obtain ⟨hpt, -, -⟩ := hparts hcase
      have hend := hgone _ (State.spentAt.giveUp hpt.spentAt ({ s with loopQ := q } : State).env
        (by rw [hpt.2.1]; exact hpc) (by rw [hpt.2.1, hpt.1.2.2.1.2]; exact hcoll))
      rw [Calls.unwind_holder hh rfl]
      exact Leaving.gone_of_sameAt hend (hpt.stages_sameAt hqueues (honly _) (Leaving.gone_not_idle hend))
    rcases hholder with hs | hs | hs
    · obtain ⟨t, ht⟩ := Option.ne_none_iff_exists'.mp (htalk hs)
      obtain ⟨k, hk, hspent, -⟩ := htalks t hs ht
      rw [hk]
      exact hgone k hspent
    · exact hparted (.inl hs)
    · by_cases ht : (s.calls.ses h).cls = .trunk
      · exact hparted (.inr ⟨ht, hs⟩)
      · simp only [SState.originator, List.mem_cons, List.not_mem_nil, or_false] at hs
        rcases hs with hs | hs | hs
        · obtain ⟨k, hk, hspent, -⟩ := hrings hs ht
          rw [hk]
          exact hgone k hspent
        · obtain ⟨t, hp⟩ := Option.ne_none_iff_exists'.mp (htrunk hs)
          obtain ⟨k, hk, hspent, -⟩ := htrunks t hs hp ht
          rw [hk]
          exact hgone k hspent
        · obtain ⟨k, hk, hspent, -⟩ := hqueued hs ht
          rw [hk]
          exact hgone k hspent
  case talk =>
    obtain ⟨k, hk, -, only, th, tq, hhold, qhold⟩ := htalks t hs ht
    rw [hk]
    obtain ⟨hs1, hs2⟩ : k.sameAt h (last k) ∧ k.sameAt t (last k) :=
      ⟨(honly k).1 h (by simpa using hhc), (honly k).1 t (by simpa using (hne ht).1)⟩
    exact ⟨Calls.onlyAt_trans only ((honly k).mono (by simp)), th.sameAt hs1, tq.sameAt hs2,
      (congrArg Session.holds hs1.1.1).trans hhold, (congrArg Session.holds hs2.1.1).trans qhold⟩
  case ringing =>
    obtain ⟨k, hk, -, others, batt, pool, groups, bridges, rung, role⟩ := hrings hs ht
    rw [hk]
    obtain ⟨only, batt', pool', groups', bridges'⟩ := honly k
    refine ⟨fun d hd hn => Calls.sameAt_trans (others d hd hn) (only d (by simp_all)), batt'.trans batt,
      Calls.samePool.trans pool pool', groups'.trans groups, bridges'.trans bridges, fun d hd => ?_,
      Calls.stands_of_sameAt (only h (by simpa using hhc)) role⟩
    refine Calls.stands_of_sameAt (only d ?_) (rung d hd)
    simp only [List.mem_cons, List.not_mem_nil, or_false]
    rintro rfl
    exact absurd (hs.symm.trans hd.1) (by decide)
  case trunk =>
    obtain ⟨k, hk, -, only, partner, role⟩ := htrunks t hs hp ht
    rw [hk]
    exact ⟨Calls.onlyAt_trans only ((honly k).mono (by simp)),
      Calls.stands_of_sameAt ((honly k).1 t (by simpa using (hne hp).1)) partner,
      Calls.stands_of_sameAt ((honly k).1 h (by simpa using hhc)) role⟩
  case queue =>
    obtain ⟨k, hk, -, others, batt, pool, bridges, groups, role⟩ := hqueued hs (by rw [ht]; decide)
    rw [hk]
    obtain ⟨only, batt', pool', groups', bridges'⟩ := honly k
    exact ⟨fun d hd => Calls.sameAt_trans (others d hd) (only d (by simp_all)), batt'.trans batt,
      Calls.samePool.trans pool pool', bridges'.trans bridges, fun g => (Calls.group_of_groups groups' g).trans (groups g),
      Calls.stands_of_sameAt (only h (by simpa using hhc)) (role ht)⟩
  case parted =>
    obtain ⟨hpt, hpark, haway⟩ := hparts hcase
    have haside : (s.calls.ses c).state ∈ SState.aside := SState.aside_of_holder (hcase.imp id And.right)
    have hm' : ({ s with loopQ := q } : State).mayGiveUp c := hm.congr rfl rfl rfl fun d hd => ⟨(hlines d hd).1, rfl⟩
    rw [Calls.unwind_holder hh rfl]
    obtain ⟨hg, hsame⟩ := hpt.gaveUp (honly _) hhc hheld haside hm' hq hph
    rw [hpt.stages_rest hg (((Calls.handOn_reach ..).trans (Calls.giveUp_reach ..)).trans (hreach _)) hheld hm']
    refine ⟨hg, fun h => Calls.stands_of_sameAt hsame (hpark (h.imp id (by simp))), fun hn hx => ?_⟩
    exact (haway hn (by simpa using hx)).sameAt hsame

end Sys2Proof.Machine
end

section
/-! DROP of a RINGING station (R12, R107, R152), and TRANSFER in TALK (R150). -/

namespace Sys2Proof.Machine

/-! ### The station that no longer rings -/

/-- A RINGING station cleared to IDLE, and the count of its originator one less (R12). -/
def Calls.unring (c o : Chan) (k : Calls) : Calls :=
  (k.toIdle c).alter o fun r => { r with ringCount := r.ringCount - 1 }

section
variable {k : Calls} {c o : Chan}

theorem Calls.unring_reach (c o : Chan) (k : Calls) : Reach k (k.unring c o) :=
  (k.toIdle_reach c).step (.fields _ o _ ⟨rfl, rfl, rfl, rfl, rfl, rfl, rfl⟩)

theorem Calls.unring_only (c o : Chan) (k : Calls) : k.onlyAt [c, o] (k.unring c o) :=
  Calls.onlyAt_trans ((k.toIdle_only c).mono (by simp)) (Calls.onlyAt_alter (by simp) ..)

theorem Calls.unring_station (hoc : o ≠ c) :
    (k.unring c o).stands c ((k.ses c).moved .idle) .none noOutput (look k.notices c) :=
  Calls.stands_of_sameAt (Calls.sameAt_alter hoc.symm ..) (k.toIdle_stands c)

theorem Calls.unring_originator (hoc : o ≠ c) : (k.unring c o).stands o
    { k.ses o with ringCount := (k.ses o).ringCount - 1 } (look k.listen o) (k.levels o) (look k.notices o) := by
  obtain ⟨⟨h1, h2, h3, h4⟩, -⟩ := (k.toIdle_only c).1 o (by simpa using hoc)
  refine ⟨?_, h2, h3, h4⟩
  unfold Calls.unring
  rw [Calls.ses_alter_self, h1]

/-- With the last station of its ringing set gone, an originator rings nobody. -/
theorem Calls.unring_ringSet (hl : ∀ d, d ≠ c → ¬k.ringsFor o d) : (k.unring c o).ringSet o = [] := by
  refine List.eq_nil_iff_forall_not_mem.mpr fun d hd => ?_
  have hr : (k.toIdle c).ringsFor o d := (Calls.ringsFor_alter rfl rfl o d).mp ((Calls.mem_ringSet_iff ..).mp hd)
  by_cases hdc : d = c
  · subst hdc
    have hs : ((k.toIdle d).ses d).state = .idle := by simp [Calls.toIdle]
    rw [hr.1] at hs
    cases hs
  · have hs : (k.toIdle c).ses d = k.ses d := ((k.toIdle_only c).1 d (by simpa using hdc)).1.1
    unfold Calls.ringsFor at hr
    rw [hs] at hr
    exact hl d hdc hr

/-- The DROP of a RINGING station (R152): it rings no more, its originator may be left with nobody, and its line is
checked last. -/
theorem Calls.dropRinging_of_peer {e : Env} (hp : (k.ses c).peer = some o) : k.dropRinging e c =
    (if ((k.unring c o).ses o).ringCount = 0 then (k.unring c o).noAnswer e o else k.unring c o).idleStages e [c] := by
  unfold Calls.dropRinging
  rw [hp]
  rfl

/-! ### The no-answer outcome of an originator that rings nobody -/

theorem Calls.clearRinging_of_none (h : k.ringSet o = []) : k.clearRinging o = k.alter o Session.noRinging := by
  unfold Calls.clearRinging
  rw [h]
  rfl

theorem Calls.ringSet_raise (e : Env) (n : Notice) (d : Chan) : (k.raise e n d).ringSet o = k.ringSet o := by
  simp [Calls.ringSet]

/-- A station that rings nobody, with no group left, hears busy tone. -/
theorem Calls.noAnswer_alone_station {e : Env} (hr : k.ringSet o = []) (hg : (k.raise e .noanswer o).noAnswerGroup o = none)
    (hc : (k.ses o).cls ≠ .trunk) :
    k.noAnswer e o = ((k.raise e .noanswer o).alter o Session.noRinging).toToneout e .busy o := by
  rw [← Calls.ringSet_raise e .noanswer o] at hr
  rw [Calls.noAnswer_station hg hc, hr, Calls.idleStages_nil, Calls.clearRinging_of_none hr]

/-- A trunk that rings nobody, with no group left, waits for the host. -/
theorem Calls.noAnswer_alone_trunk {e : Env} (hr : k.ringSet o = []) (hg : (k.raise e .noanswer o).noAnswerGroup o = none)
    (hc : (k.ses o).cls = .trunk) : k.noAnswer e o = (k.raise e .noanswer o).toHostwait o := by
  rw [← Calls.ringSet_raise e .noanswer o] at hr
  unfold Calls.noAnswer
  dsimp only
  rw [hg, Calls.ses_raise]
  simp only [if_pos hc, if_pos hr]

/-- An originator that rings nobody, with an untried no-answer group, hunts on there. -/
theorem Calls.noAnswer_alone_hunts {e : Env} {n : GroupIx} (hr : k.ringSet o = [])
    (hg : (k.raise e .noanswer o).noAnswerGroup o = some n) :
    k.noAnswer e o = ((k.raise e .noanswer o).alter o Session.noRinging).hunt e huntFuel n o := by
  rw [← Calls.ringSet_raise e .noanswer o] at hr
  unfold Calls.noAnswer
  dsimp only
  rw [hg, hr, Calls.clearRinging_of_none hr]
  exact Calls.idleStages_nil ..

/-- The no-answer group of an originator that has not tried it. -/
theorem Calls.noAnswerGroup_eq_some {g n : GroupIx} (hg : (k.ses o).curGroup = some g)
    (hn : (k.group g).noAnswer = some n) (ht : (k.ses o).tried.getLsbD n = false) : k.noAnswerGroup o = some n := by
  unfold Calls.noAnswerGroup
  rw [hg]
  simp only [Calls.untried, hn, ht]
  rfl

/-- What stands at an originator that rings nobody and hears busy tone. -/
theorem Calls.alone_toToneout_stands (e : Env) {l : Listen} {v : Levels} {n : NoticeSet} {r : Session}
    (h : k.stands o r l v n) : ((k.alter o Session.noRinging).toToneout e .busy o).stands o
      { r.moved .toneout with toneKind := .busy, timer := some ⟨.toneout, e.time Param.toneoutTime⟩ } (.tone .busy)
      noOutput n := by
  obtain ⟨h1, -, -, h4⟩ := h
  have hst := Calls.toToneout_stands e .busy o (k.alter o Session.noRinging)
  rw [Calls.ses_alter_self, h1, show look (k.alter o Session.noRinging).notices o = n from h4] at hst
  simpa [Session.moved, Session.noRinging, SState.hasPeer, SState.rings] using hst

/-- Busy tone for an originator that rings nobody changes it alone. -/
theorem Calls.alone_toToneout_only (e : Env) (o : Chan) (k : Calls) :
    k.onlyAt [o] ((k.alter o Session.noRinging).toToneout e .busy o) :=
  Calls.onlyAt_trans (Calls.onlyAt_alter (by simp) ..) (Calls.onlyAt_enter (by simp) ..)

theorem Calls.alone_toToneout_reach (e : Env) (o : Chan) (k : Calls) :
    Reach k ((k.alter o Session.noRinging).toToneout e .busy o) :=
  (Move.fields k o _ ⟨rfl, rfl, rfl, rfl, rfl, rfl, rfl⟩).reach.trans (Calls.toToneout_reach ..)

/-- A channel that is taken up again goes through no more stages (R27). -/
theorem Calls.idleStages_awake {e : Env} (h : (k.ses c).state ≠ .idle) : k.idleStages e [c] = k := by
  unfold Calls.idleStages
  split
  · exact Calls.afterIdle_awake h
  · rfl

/-- A trunk that rings nobody takes HOSTWAIT with its loop as it stood. -/
theorem Calls.trunk_toHostwait_stands {l : Listen} {v : Levels} {n : NoticeSet} {r : Session} (hc : r.cls = .trunk)
    (h : k.stands o r l v n) : (k.toHostwait o).stands o (r.moved .hostwait) .none ⟨false, v.loop⟩ n := by
  obtain ⟨h1, -, h3, h4⟩ := h
  have hst := Calls.stands_enter o .hostwait id k
  rw [h1, h3, h4] at hst
  simpa [Calls.toHostwait, Session.listen, Session.levels, Session.moved, hc] using hst

end

/-- A dropped station whose line is at rest, with nobody queued, stays in IDLE (R27). -/
theorem State.idleStages_dropped {s : State} {c o : Chan} {k : Calls} (hr : s.atRest c) (hq : s.noQueue)
    (hk : s.calls.onlyAt [c, o] k) (hreach : Reach s.calls k) : k.idleStages s.env [c] = k :=
  State.idleStages_atRest hreach.cls (fun g => (congrArg Group.queue (Calls.group_of_groups hk.2.2.2.1 g)).trans (hq g))
    (by simpa using hr)

/-- What the originator of a dropped station has when its count has come to 0 (R12): nobody to ring, and NOANSWER. -/
theorem State.unring_noanswer {s : State} {c o : Chan} (hoc : o ≠ c) (h1 : (s.calls.ses o).ringCount = 1) :
    s.calls.onlyAt [c, o] ((s.calls.unring c o).raise s.env .noanswer o) ∧
    Reach s.calls ((s.calls.unring c o).raise s.env .noanswer o) ∧
    ((s.calls.unring c o).raise s.env .noanswer o).stands c ((s.calls.ses c).moved .idle) .none noOutput
      (s.noticesAt c) ∧
    ((s.calls.unring c o).raise s.env .noanswer o).stands o { s.calls.ses o with ringCount := 0 }
      (look s.calls.listen o) (s.calls.levels o) (s.recorded [.noanswer] o) := by
  have ho := Calls.unring_originator (k := s.calls) hoc
  rw [h1] at ho
  exact ⟨Calls.onlyAt_trans (s.calls.unring_only c o) (Calls.onlyAt_raise (by simp) ..),
    (s.calls.unring_reach c o).trans (Calls.raise_reach ..),
    Calls.stands_of_sameAt (Calls.sameAt_raise hoc.symm ..) (Calls.unring_station hoc), Calls.stands_raise s .noanswer ho⟩

/-- The last station dropped, with no group left to go on to: a station hears busy tone, a trunk waits for the host (R107,
R152). -/
theorem State.lastDropped_ends {s : State} {c o : Chan} (hoc : o ≠ c) (h1 : (s.calls.ses o).ringCount = 1)
    (hl : ∀ d, d ≠ c → ¬s.calls.ringsFor o d)
    (htried : ∀ g n, (s.calls.ses o).curGroup = some g → (s.calls.group g).noAnswer = some n →
      (s.calls.ses o).tried.getLsbD n = true) (hrest : s.atRest c) (hq : s.noQueue) :
    s.calls.onlyAt [c, o] (((s.calls.unring c o).noAnswer s.env o).idleStages s.env [c]) ∧
    (((s.calls.unring c o).noAnswer s.env o).idleStages s.env [c]).stands c ((s.calls.ses c).moved .idle) .none noOutput
      (s.noticesAt c) ∧
    ((s.calls.ses o).cls ≠ .trunk → (((s.calls.unring c o).noAnswer s.env o).idleStages s.env [c]).stands o
      { (s.calls.ses o).moved .toneout with toneKind := .busy, timer := s.timerOf .toneout Param.toneoutTime }
      (.tone .busy) noOutput (s.recorded [.noanswer] o)) ∧
    ((s.calls.ses o).cls = .trunk → (((s.calls.unring c o).noAnswer s.env o).idleStages s.env [c]).stands o
      ((s.calls.ses o).moved .hostwait) .none ⟨false, (s.calls.levels o).loop⟩ (s.recorded [.noanswer] o)) := by
  obtain ⟨only, reach, hc, ho⟩ := State.unring_noanswer hoc h1
  have hring := Calls.unring_ringSet (k := s.calls) hl
  have hgroup : ((s.calls.unring c o).raise s.env .noanswer o).noAnswerGroup o = none :=
    Calls.noAnswerGroup_eq_none fun g n hg hn => by
      rw [ho.1] at hg ⊢
      rw [Calls.group_of_groups only.2.2.2.1] at hn
      exact htried g n hg hn
  have hcls : ((s.calls.unring c o).ses o).cls = (s.calls.ses o).cls := (s.calls.unring_reach c o).cls o
  have hmoved : ∀ st : SState, st.rings = false →
      Session.moved st { s.calls.ses o with ringCount := 0 } = (s.calls.ses o).moved st := fun st hst => by
    simp [Session.moved, hst]
  by_cases ht : (s.calls.ses o).cls = .trunk
  · rw [Calls.noAnswer_alone_trunk hring hgroup (hcls.trans ht)]
    generalize (s.calls.unring c o).raise s.env .noanswer o = k at only reach hc ho
    have step : k.onlyAt [o] (k.toHostwait o) := Calls.onlyAt_enter (by simp) ..
    have only' := Calls.onlyAt_trans only (step.mono (by simp))
    rw [State.idleStages_dropped hrest hq only' (reach.trans (k.toHostwait_reach o))]
    refine ⟨only', Calls.stands_of_sameAt (step.1 c (by simpa using hoc.symm)) hc, fun h => absurd ht h, fun _ => ?_⟩
    have hst := Calls.trunk_toHostwait_stands (r := { s.calls.ses o with ringCount := 0 }) ht ho
    rwa [hmoved _ rfl] at hst
  · rw [Calls.noAnswer_alone_station hring hgroup (by rwa [hcls])]
    generalize (s.calls.unring c o).raise s.env .noanswer o = k at only reach hc ho
    have step := k.alone_toToneout_only s.env o
    have only' := Calls.onlyAt_trans only (step.mono (by simp))
    rw [State.idleStages_dropped hrest hq only' (reach.trans (k.alone_toToneout_reach s.env o))]
    refine ⟨only', Calls.stands_of_sameAt (step.1 c (by simpa using hoc.symm)) hc, fun _ => ?_, fun h => absurd h ht⟩
    have hst := Calls.alone_toToneout_stands s.env ho
    rwa [hmoved _ rfl, ← State.timerOf_eq] at hst

/-- The last station dropped, with an untried no-answer group: its originator hunts on there, which may ring the dropped
station again (R107, R152). -/
theorem State.lastDropped_hunts {s : State} {c o : Chan} {g n : GroupIx} (hoc : o ≠ c)
    (h1 : (s.calls.ses o).ringCount = 1) (hl : ∀ d, d ≠ c → ¬s.calls.ringsFor o d)
    (hg : (s.calls.ses o).curGroup = some g) (hn : (s.calls.group g).noAnswer = some n)
    (ht : (s.calls.ses o).tried.getLsbD n = false) (hrest : s.atRest c) :
    ∃ k0 k1, s.calls.onlyAt [c, o] k0 ∧
      k0.stands c ((s.calls.ses c).moved .idle) .none noOutput (s.noticesAt c) ∧
      k0.stands o { s.calls.ses o with ringCount := 0, phaseOn := false, cycles := 0 } (look s.calls.listen o)
        (s.calls.levels o) (s.recorded [.noanswer] o) ∧
      k1 = k0.hunt s.env huntFuel n o ∧
      ((k1.ses c).state ≠ .idle ∨ (∀ f, (k1.group f).queue = []) →
        ((s.calls.unring c o).noAnswer s.env o).idleStages s.env [c] = k1) := by
  obtain ⟨only, reach, hc, ho⟩ := State.unring_noanswer hoc h1
  have hgroup : ((s.calls.unring c o).raise s.env .noanswer o).noAnswerGroup o = some n :=
    Calls.noAnswerGroup_eq_some (by rw [ho.1]; exact hg) (by rwa [Calls.group_of_groups only.2.2.2.1])
      (by rw [ho.1]; exact ht)
  rw [Calls.noAnswer_alone_hunts (Calls.unring_ringSet hl) hgroup]
  generalize (s.calls.unring c o).raise s.env .noanswer o = k at only reach hc ho
  obtain ⟨ho1, ho2, ho3, ho4⟩ := ho
  refine ⟨k.alter o Session.noRinging, _, Calls.onlyAt_trans only (Calls.onlyAt_alter (by simp) ..),
    Calls.stands_of_sameAt (Calls.sameAt_alter hoc.symm ..) hc, ⟨?_, ho2, ho3, ho4⟩, rfl, fun hk => ?_⟩
  · rw [Calls.ses_alter_self, ho1]
    rfl
  · rcases hk with hk | hk
    · exact Calls.idleStages_awake hk
    · refine State.idleStages_atRest (s := s) (Reach.cls ?_) hk (by simpa using hrest)
      exact (reach.step (.fields _ o _ ⟨rfl, rfl, rfl, rfl, rfl, rfl, rfl⟩)).trans (Calls.hunt_reach ..)

theorem dropBody_ringing {s : State} {c : Chan} (h : (s.calls.ses c).state = .ringing) :
    dropBody c s = withSessions c none (s.calls.dropRinging s.env c) s := by
  unfold dropBody
  rw [h]

/-! ### TRANSFER -/

theorem transferBody_refused {s : State} {c : Chan} (h : (s.calls.ses c).holds = none) :
    transferBody c s = refuse .badState s := by
  unfold transferBody
  rw [h]

/-- A holder in TALK that transfers joins its held party with its partner, and waits for the host (R150). -/
theorem State.transfer_talk {s : State} {c h q : Chan} (hcls : (s.calls.ses c).cls = .station)
    (hs : (s.calls.ses c).state = .talk) (hp : (s.calls.ses c).peer = some q) (hh : (s.calls.ses c).holds = some h)
    (hhc : h ≠ c) (hqc : q ≠ c) (hqh : q ≠ h) :
    s.calls.onlyAt [c, h, q] (Leaving.transfer.left s c) ∧ s.talksWith h q [.transfer] (Leaving.transfer.left s c) ∧
      s.talksWith q h [] (Leaving.transfer.left s c) ∧ Leaving.transfer.gone s c (Leaving.transfer.left s c) := by
  have honly := Leaving.transfer.last_only s.env c (s.calls.ses c).cls
  have hgone : ∀ k, s.spentAt c k → Leaving.transfer.gone s c (Leaving.transfer.last s.env c (s.calls.ses c).cls k) :=
    fun k hk => Leaving.last_gone (x := .transfer) hk fun _ => by rw [hcls]; decide
  obtain ⟨k, hk, hspent, only, th, tq, -⟩ := State.unwind_talk hs hp hh hhc hqc hqh true
    (Leaving.transfer.last s.env c (s.calls.ses c).cls)
  rw [show Leaving.transfer.left s c = _ from hk]
  exact ⟨Calls.onlyAt_trans only ((honly k).mono (by simp)), th.sameAt ((honly k).1 h (by simpa using hhc)),
    tq.sameAt ((honly k).1 q (by simpa using hqc)), hgone k hspent⟩

/-! ### The statement -/

/-- Settles O23: the two commands by their bodies, the drop by what its originator is left with. -/
theorem dropOfARingingStation : Obligations.DropOfARingingStation := by
  unfold Obligations.DropOfARingingStation
  refine ⟨fun c s p ht ho hc => ⟨fun hn => ?refused, fun h q hcls hs hp hh _ hhc hqc hqh => ?joined⟩,
    fun c s p ht ho hc => ⟨fun hs => ?noSession, fun o hs hp hoc hrest hq => ?dropped⟩⟩
  case refused =>
    rw [exec_transfer ht ho hc, transferBody_refused hn]
    rfl
  case joined =>
    exact ⟨_, exec_transfer_held (p := p) ⟨ht, ho, hc⟩ hh, State.transfer_talk hcls hs hp hh hhc hqc hqh⟩
  case noSession =>
    rw [exec_drop ht ho hc, show dropBody c s = refuse .badState s by
      simp only [List.mem_cons, List.not_mem_nil, or_false] at hs
      unfold dropBody
      rcases hs with hs | hs | hs <;> rw [hs]]
    rfl
  case dropped =>
    have ho' := Calls.unring_originator (k := s.calls) hoc
    have hcount : ((s.calls.unring c o).ses o).ringCount = (s.calls.ses o).ringCount - 1 := congrArg Session.ringCount ho'.1
    rw [exec_drop ht ho hc, dropBody_ringing hs, reply_session, Calls.dropRinging_of_peer hp, hcount]
    refine ⟨_, rfl, fun hcase => ?ends, fun g n h1 hl hg hn ht => ?hunts⟩
    case ends =>
      rcases hcase with hgt | ⟨h1, hl, htried⟩
      · rw [if_neg (by omega), State.idleStages_dropped hrest hq (s.calls.unring_only c o) (s.calls.unring_reach c o)]
        exact ⟨s.calls.unring_only c o, Calls.unring_station hoc, fun _ => ho', fun h => by omega, fun h => by omega⟩
      · rw [if_pos (by omega)]
        obtain ⟨only, hend, hstation, htrunk⟩ := State.lastDropped_ends hoc h1 hl htried hrest hq
        exact ⟨only, hend, fun h => by omega, fun _ => hstation, fun _ => htrunk⟩
    case hunts =>
      rw [if_pos (by omega)]
      exact State.lastDropped_hunts hoc h1 hl hg hn ht hrest

end Sys2Proof.Machine
end

section
/-! The mailbox, the link error flag and the notice sets (R30, R31, R163, R165, R178, R182 to R184): a row either leaves
the mailbox as it stands, or is one of the port's own changes of it, or posts a completion; the error flag and LINKERR
change together; and a notice sets none but its own bit. -/

namespace Sys2Proof.Machine

/-! ### The mailbox -/

/-- The law of the mailbox, of its own fields alone (R163, R165, R166). -/
def Mailbox.lawful (m : Mailbox) : Prop :=
  (m.inFlight.isSome = true ↔ m.state = .busy) ∧
    ∀ f, m.inFlight = some f → m.completion = .noResult ∧ f.code = m.lastCode ∧ definedCode f.code = true

theorem State.mailboxLaw_iff (s : State) : s.mailboxLaw ↔ s.mbox.lawful := Iff.rfl

theorem State.mailboxLaw_congr {s t : State} (hm : t.mbox = s.mbox) (h : s.mailboxLaw) : t.mailboxLaw := by
  rwa [State.mailboxLaw_iff, hm]

/-- A mailbox with nothing in flight is lawful unless it is BUSY. -/
theorem Mailbox.lawful_of_none {m : Mailbox} (hf : m.inFlight = none) (hs : m.state ≠ .busy) : m.lawful := by
  simp [Mailbox.lawful, hf, hs]

theorem Mailbox.reset_lawful : Mailbox.reset.lawful := Mailbox.lawful_of_none rfl (by decide)

theorem Mailbox.post_lawful (code : Completion) (bytes : List Byte) (m : Mailbox) : (m.post code bytes).lawful :=
  Mailbox.lawful_of_none rfl (by simp [Mailbox.post])

/-- An offer of a defined code puts it in flight, with no result yet (R163). -/
theorem Mailbox.offer_lawful {code : Byte} (h : definedCode code = true) (m : Mailbox) : (m.offer code).lawful := by
  refine ⟨by simp [Mailbox.offer], fun f hf => ?_⟩
  obtain rfl : ⟨code, m.params⟩ = f := by simpa [Mailbox.offer] using hf
  exact ⟨rfl, rfl, h⟩

/-- A write to COMMAND: a collision keeps the command in flight, a defined code is offered, another completes at once
(R163 to R165). -/
theorem Mailbox.writeCommand_lawful {m : Mailbox} (code : Byte) (h : m.lawful) : (m.writeCommand code).lawful := by
  unfold Mailbox.writeCommand
  split
  · exact h
  · split
    · next hd => exact Mailbox.offer_lawful hd m
    · exact Mailbox.post_lawful ..

/-- A read of COMPLETION ends DONE and leaves BUSY as it is (R166). -/
theorem Mailbox.completionRead_lawful {m : Mailbox} (h : m.lawful) :
    ({ m with readPage := 0, state := if m.state = .done then .idle else m.state } : Mailbox).lawful := by
  obtain ⟨busy, code⟩ := h
  refine ⟨?_, code⟩
  by_cases hd : m.state = .done
  · simpa [hd] using busy
  · simpa [hd] using busy

/-- A command row posts a completion or changes nothing, whatever its body does (R165, R166). -/
theorem takeCommand_mailboxLaw {cmd : Cmd} {body : Params → State → Reply} {s t : State} (hs : s.mailboxLaw)
    (h : takeCommand cmd body s = .next t) : t.mailboxLaw := by
  rcases takeCommand_next h with rfl | ⟨f, -, -, -, rfl⟩
  · exact hs
  · exact Mailbox.post_lawful ..

theorem State.expire_mbox (kind : TimerKind) (c : Chan) (f : Env → Chan → Calls → Calls) (s : State) :
    (s.expire kind c f).mbox = s.mbox := by
  unfold State.expire
  split
  · exact State.close_mbox ..
  · rfl

theorem State.sameButHighway.mbox {s t : State} (h : s.sameButHighway t) : t.mbox = s.mbox := by
  obtain ⟨w, rfl⟩ := h
  rfl

theorem exec_mailboxLaw (i : Instr) {s t : State} (h : exec i s = .next t) (hs : s.mailboxLaw) : t.mailboxLaw := by
  have still : ∀ {f : State → State}, (f s).mbox = s.mbox → awake f s = .next t → t.mailboxLaw :=
    fun hf h => awake_keeps hs (State.mailboxLaw_congr hf hs) h
  have expiry : ∀ {kind : TimerKind} {c : Chan} {f : Env → Chan → Calls → Calls},
      awake (State.expire kind c f) s = .next t → t.mailboxLaw := fun h => still (State.expire_mbox ..) h
  cases i with
  | hardwareReset =>
    dsimp only [exec, execHardwareReset] at h
    injection h with h; subst h; exact Mailbox.reset_lawful
  | resetEnd =>
    dsimp only [exec, execResetEnd] at h
    injection h with h; subst h
    split
    · exact State.mailboxLaw_congr (by simp) hs
    · exact hs
  | conditionReport byte0 byte1 stop start x =>
    refine still ?_ h
    split
    · split
      · exact (s.route_event ..).still.mbox
      · exact State.badFrame_mbox s
    · rfl
  | frameCompletion =>
    dsimp only [exec, execFrameCompletion] at h
    refine still ?_ h
    split
    · exact State.completeFrame_mbox ..
    · rfl
  | frameSync v x => exact still (s.highwayFrame_same v x).mbox h
  | toneStepEnd x =>
    refine still ?_ h
    unfold State.toneStep
    dsimp only
    split <;> rfl
  | detectorIndication r ind => exact still (s.indication_event ..).still.mbox h
  | toneOnMinExpiry r x =>
    refine still ?_ h
    split
    · next hd => exact (s.toneOn_event x r hd).still.mbox
    · rfl
  | toneGapMinExpiry r => refine still ?_ h; split <;> rfl
  | seizeQualExpiry c x => exact still (s.seizeQual_event x c).still.mbox h
  | flashMaxExpiry c x => exact still (s.flashMax_event x c).still.mbox h
  | pulseMakeEndExpiry c x => exact still (s.pulseMakeEnd_event x c).still.mbox h
  | burstTimerExpiry c x => exact still (s.burstEnd_event x c).still.mbox h
  | gapTimerExpiry c x => exact still (s.gapEnd_event x c).still.mbox h
  | battSeizeQualExpiry c x => exact still (s.battOn_event x c).still.mbox h
  | farOpenMinExpiry c x => exact still (s.farOpen_event x c).still.mbox h
  | firstDigitExpiry c => exact expiry h
  | interdigitExpiry c => exact expiry h
  | overlapExpiry c => exact expiry h
  | rxWaitExpiry c => exact expiry h
  | cadenceExpiry c => exact expiry h
  | queueWaitExpiry c => exact expiry h
  | toneoutExpiry c => exact expiry h
  | guardExpiry c => exact expiry h
  | seizeWaitExpiry c => exact expiry h
  | cutThroughExpiry c => exact expiry h
  | statusRead =>
    dsimp only [exec, execStatusRead] at h
    exact awake_keeps (P := State.mailboxLaw) hs hs h
  | paramWrite k b =>
    refine awake_keeps (P := State.mailboxLaw) hs ?_ h
    rw [State.mailboxLaw_iff]
    unfold State.mail
    dsimp only
    split <;> exact hs
  | resultRead k =>
    dsimp only [exec, execResultRead] at h
    exact awake_keeps (P := State.mailboxLaw) hs hs h
  | completionRead =>
    dsimp only [exec, execCompletionRead] at h
    refine awake_keeps (P := State.mailboxLaw) hs ?_ h
    exact Mailbox.completionRead_lawful hs
  | controlWrite b =>
    dsimp only [exec, execControlWrite] at h
    exact still rfl h
  | ignoredRegisterWrite a b => exact still rfl h
  | unknown code =>
    refine awake_keeps (P := State.mailboxLaw) hs ?_ h
    exact Mailbox.writeCommand_lawful code hs
  | commandOffer code =>
    refine awake_keeps (P := State.mailboxLaw) hs ?_ h
    exact Mailbox.writeCommand_lawful code hs
  | _ => exact takeCommand_mailboxLaw hs h

theorem step_mailboxLaw {s t : State} (h : step s = .next t) (hs : s.mailboxLaw) : t.mailboxLaw := by
  unfold step at h
  split at h
  · injection h with h
    subst h
    refine State.mailboxLaw_congr ?_ hs
    unfold State.idleStep
    split
    · rfl
    · split
      · exact (s.takeFlying_event ..).still.mbox
      · exact (s.nextSlot_same _).mbox
      · split <;> rfl
  · exact exec_mailboxLaw _ h hs

/-! ### The link error flag -/

/-- The law reads the error flag and LINKERR alone. -/
theorem State.linkLaw_congr {s t : State} (hf : t.link.errorFlag = s.link.errorFlag)
    (he : t.attn.linkErr = s.attn.linkErr) (h : s.linkLaw) : t.linkLaw := (hf.trans h).trans he.symm

theorem State.Still.keeps_linkLaw {s t : State} (hst : State.Still s t) (h : s.linkLaw) : t.linkLaw :=
  State.linkLaw_congr hst.errorFlag hst.linkErr h

/-- A bad frame sets both (R30, R182). -/
theorem State.badFrame_linkLaw (s : State) : s.badFrame.linkLaw := by
  simp [State.linkLaw, State.badFrame]

theorem State.completeFrame_linkLaw {s : State} (o : Order) (h : s.linkLaw) : (s.completeFrame o).linkLaw :=
  State.linkLaw_congr (by simp [State.completeFrame]) (by simp) h

theorem linkLaw_kept : Kept State.linkLaw where
  queue _ _ h := h
  tick s h := h
  reset _ _ := rfl
  resetEnd s h := State.linkLaw_congr (by simp) (by simp) h
  event _ _ he h := he.still.keeps_linkLaw h
  badFrame s _ := s.badFrame_linkLaw
  completeFrame _ o h := State.completeFrame_linkLaw o h
  highway _ _ h := h
  toneStep s x h := by unfold State.toneStep; dsimp only; split <;> exact h
  mail _ _ h := h
  data _ _ h := h
  attn s _ ha h := State.linkLaw_congr (s := s) rfl ha h
  start s _ h := State.linkLaw_congr (s := s) (by simp [startBody]) (by simp [startBody]) h
  stop s _ h := State.linkLaw_congr (s := s) (by simp [stopBody]) (by simp [stopBody]) h
  staged _ _ _ h := h
  apply s h := by unfold applyParamsBody; split <;> exact h
  mask _ _ h := h
  configure s a h := by
    unfold configureBody
    split
    · exact h
    · exact (State.configure_still a s).keeps_linkLaw h
  entry s _ a _ h := by unfold writeEntryBody; split <;> exact h
  clear _ _ h := h
  group _ _ _ _ h := h
  setMembers s _ a _ h := by unfold setMembersBody; split <;> exact h
  addMember s a h := by
    unfold addMemberBody
    dsimp only
    split
    · exact h
    · split <;> exact h
  dropMember s a h := by unfold dropMemberBody; split <;> exact h
  notices s n h := by
    unfold takeNoticesBody
    split
    · exact h
    · rfl

/-! ### The notice sets -/

/-- The unused bit of every notice set is 0. -/
def Calls.noticesLaw (k : Calls) : Prop := ∀ c, (look k.notices c).getLsbD 15 = false

/-- The law reads the mask and the notice sets alone. -/
theorem State.noticesLaw_congr {s t : State} (hm : t.params.mask = s.params.mask)
    (hn : t.calls.notices = s.calls.notices) (h : s.noticesLaw) : t.noticesLaw := by
  unfold State.noticesLaw at h ⊢
  rwa [hm, hn]

/-- No notice kind has the unused bit (R178, Codes). -/
theorem Notice.bit_lt (n : Notice) : n.bit < 15 := by cases n <;> decide

/-- A notice sets its own bit, at its own channel (R181). -/
theorem Calls.noticesLaw_raise {k : Calls} (e : Env) (n : Notice) (c : Chan) (h : k.noticesLaw) :
    (k.raise e n c).noticesLaw := by
  intro d
  unfold Calls.raise
  split
  · rw [look_put]
    split
    · rw [BitVec.getLsbD_or, BitVec.getLsbD_twoPow, h c, decide_eq_false n.bit_lt.ne, Bool.and_false, Bool.or_false]
    · exact h d
  · exact h d

theorem Move.keeps_noticesLaw {k l : Calls} (hm : Move k l) (h : k.noticesLaw) : l.noticesLaw := by
  cases hm with
  | raise e n c => exact Calls.noticesLaw_raise e n c h
  | _ => exact h

theorem Reach.keeps_noticesLaw {k l : Calls} (hr : Reach k l) (h : k.noticesLaw) : l.noticesLaw :=
  Reach.keeps (P := Calls.noticesLaw) (fun _ _ => Move.keeps_noticesLaw) hr h

theorem State.Event.keeps_noticesLaw {s t : State} (he : State.Event s t) (h : s.noticesLaw) : t.noticesLaw :=
  ⟨by rw [he.still.params]; exact h.1, he.moves.keeps_noticesLaw h.2⟩

/-- A channel's notices taken (R184). -/
theorem takeChannelNotices_noticesLaw {s : State} (c : Chan) (h : s.noticesLaw) :
    (takeChannelNotices c s).state.noticesLaw := by
  refine ⟨h.1, fun d => ?_⟩
  show (look (put s.calls.notices c 0) d).getLsbD 15 = false
  rw [look_put]
  split
  · simp
  · exact h.2 d

theorem State.configure_noticesLaw {s : State} (a : ConfigArgs) (h : s.noticesLaw) : (s.configure a).noticesLaw := by
  unfold State.configure
  dsimp only
  split
  · exact h
  · exact State.noticesLaw_congr (s := s) (by simp [State.reclassed]) (by simp [State.reclassed]) h

theorem State.reset_noticesLaw : State.reset.noticesLaw := ⟨by decide, fun c => by simp⟩

theorem noticesLaw_kept : Kept State.noticesLaw where
  queue _ _ h := h
  tick s h := State.noticesLaw_congr (by simp) (by simp) h
  reset _ _ := State.reset_noticesLaw
  resetEnd s h := State.noticesLaw_congr (by simp) (by simp) h
  event _ _ he h := he.keeps_noticesLaw h
  badFrame s h := State.noticesLaw_congr (by simp) (by simp) h
  completeFrame s o h := State.noticesLaw_congr (by simp) (by simp) h
  highway _ _ h := h
  toneStep s x h := by unfold State.toneStep; dsimp only; split <;> exact h
  mail _ _ h := h
  data _ _ h := h
  attn _ _ _ h := h
  start s _ h := by
    refine ⟨by simpa [startBody] using h.1, ?_⟩
    rw [startBody_calls]
    exact (Calls.takeUp_reach _ s.calls).keeps_noticesLaw h.2
  stop s _ h := State.noticesLaw_congr (s := s) (by simp [stopBody]) (by simp) h
  staged _ _ _ h := h
  apply s h := by unfold applyParamsBody; split <;> exact h
  mask s p h := ⟨by simp [setNoticeMaskBody, carried, readMask], h.2⟩
  configure s a h := by
    unfold configureBody
    split
    · exact h
    · exact State.configure_noticesLaw a h
  entry s _ a _ h := by unfold writeEntryBody; split <;> exact h
  clear _ _ h := h
  group _ _ _ _ h := h
  setMembers s _ a _ h := by unfold setMembersBody; split <;> exact h
  addMember s a h := by
    unfold addMemberBody
    dsimp only
    split
    · exact h
    · split <;> exact h
  dropMember s a h := by unfold dropMemberBody; split <;> exact h
  notices s n h := by
    unfold takeNoticesBody
    split
    · exact takeChannelNotices_noticesLaw _ h
    · exact h

/-- Settles O56: the mailbox row by row, the two other laws through the cases of a step. -/
theorem everyStepKeepsTheMailboxAndTheNoticesLawful : Obligations.EveryStepKeepsTheMailboxAndTheNoticesLawful := by
  unfold Obligations.EveryStepKeepsTheMailboxAndTheNoticesLawful
  exact fun s t h => ⟨step_mailboxLaw h, step_keeps linkLaw_kept h, step_keeps noticesLaw_kept h⟩

end Sys2Proof.Machine
end

section
/-! The scan link: the bits of a frame, the report that a good frame carries, and what the transmitter picks (R29, R30, R34,
R35, R38, R179). -/

namespace Sys2Proof.Machine

/-! ### The bits of a frame -/

theorem frameByte0_getLsbD (f : BitVec 18) (i : Fin 8) : (frameByte0 f).getLsbD i = f.getLsbD (9 + i) := by
  simp [frameByte0]

theorem frameByte1_getLsbD (f : BitVec 18) (i : Fin 8) : (frameByte1 f).getLsbD i = f.getLsbD (1 + i) := by
  simp [frameByte1]

/-- The check holds at place `i` the complement of the bit three places below it, around the byte (R179). -/
theorem frameCheck_getLsbD (b : Byte) (i : Fin 8) :
    (frameCheck b).getLsbD i = !b.getLsbD (⟨(i.val + 5) % 8, Nat.mod_lt _ (by decide)⟩ : Fin 8) := by
  simp only [frameCheck, BitVec.getLsbD_not, BitVec.getLsbD_rotateLeft, i.isLt, decide_true, Bool.true_and]
  by_cases h : i.val < 3
  · simp [h, show (i.val + 5) % 8 = 5 + i.val by omega]
  · simp [h, show (i.val + 5) % 8 = i.val - 3 by omega]

/-- Byte 1 of a frame is the check of its byte 0, bit by bit. -/
theorem frameCheck_iff (f : BitVec 18) : frameByte1 f = frameCheck (frameByte0 f) ↔
    ∀ i : Fin 8, f.getLsbD (1 + i) = !f.getLsbD (9 + (i.val + 5) % 8) := by
  constructor
  · intro h i
    rw [← frameByte1_getLsbD, h, frameCheck_getLsbD, frameByte0_getLsbD]
  · intro h
    refine BitVec.eq_of_getLsbD_eq fun i hi => ?_
    have := h ⟨i, hi⟩
    rwa [← frameByte1_getLsbD, ← frameByte0_getLsbD f ⟨(i + 5) % 8, Nat.mod_lt _ (by decide)⟩,
      ← frameCheck_getLsbD _ ⟨i, hi⟩] at this

/-- Byte 0 of each order frame (R179). -/
theorem Order.byte0_toNat (o : Order) : o.byte0.toNat = (match o with
    | .ringOff c => c.val
    | .ringOn c => 0x20 + c.val
    | .loopOpen c => 0x40 + c.val
    | .loopClose c => 0x60 + c.val
    | .clearAll => 0xC0
    | .statusRequest => 0xE0) := by
  cases o with
  | clearAll => rfl
  | statusRequest => rfl
  | _ c =>
    simp only [Order.byte0, BitVec.toNat_ofNat]
    omega

/-! ### Reports -/

/-- The condition code stands in bits 2 and 1 of byte 0 (R179). -/
theorem reportCondition_eq_some {b : Byte} {cond : Condition} :
    reportCondition b = some cond ↔ b.toNat / 2 % 4 = cond.code := by
  have hlt : b.toNat / 2 % 4 < 4 := Nat.mod_lt _ (by decide)
  unfold reportCondition
  generalize b.toNat / 2 % 4 = n at hlt
  interval_cases n <;> cases cond <;> simp [Condition.code]

theorem reportCondition_eq_none {b : Byte} (h : b.toNat / 2 % 4 = 0) : reportCondition b = none := by
  simp [reportCondition, h]

/-- A condition has a code from 1 to 3. -/
theorem Condition.code_lt (cond : Condition) : cond.code < 4 := by cases cond <;> decide

/-- The fields of a report are those of its byte 0 (R179). -/
theorem reportByte_fields (b : Byte) (r : Report) :
    ((reportCondition b).map fun cond => (⟨Fin.ofNat 32 (b.toNat / 8), cond, b.toNat % 2 = 1⟩ : Report)) = some r ↔
      b.toNat = 8 * r.chan + 2 * r.cond.code + (if r.level then 1 else 0) := by
  obtain ⟨c, cond, level⟩ := r
  have hcode := cond.code_lt
  have hb := b.isLt
  simp only [Option.map_eq_some_iff, reportCondition_eq_some, Report.mk.injEq, Fin.ext_iff, Fin.val_ofNat]
  constructor
  · rintro ⟨x, hx, hc, rfl, hl⟩
    cases level <;> simp at hl ⊢ <;> omega
  · intro h
    refine ⟨cond, ?_, ?_, rfl, ?_⟩
    · cases level <;> simp at h <;> omega
    · cases level <;> simp at h <;> omega
    · cases level <;> simp at h ⊢ <;> omega

theorem readReport_eq_some {f : BitVec 18} {r : Report} : readReport f = some r ↔
    frameStop f = false ∧ frameByte1 f = frameCheck (frameByte0 f) ∧
      (frameByte0 f).toNat = 8 * r.chan + 2 * r.cond.code + (if r.level then 1 else 0) := by
  unfold readReport
  dsimp only
  split
  · next h => rw [reportByte_fields]; simp only [h, true_and]
  · next h => exact ⟨fun hn => (nomatch hn), fun hn => absurd ⟨hn.1, hn.2.1⟩ h⟩

/-- A frame is bad by its stop bit, its check or its condition (R30). -/
theorem readReport_bad {byte0 byte1 : Byte} {stop : Bool}
    (h : stop = true ∨ byte1 ≠ ~~~ (byte0.rotateLeft 3) ∨ byte0.toNat / 2 % 4 = 0) :
    readReport (frameBits byte0 byte1 stop) = none := by
  unfold readReport
  simp only [frameByte0_frameBits, frameByte1_frameBits, frameStop_frameBits]
  rcases h with h | h | h
  · rw [if_neg fun hn => by simp [h] at hn]
  · rw [if_neg fun hn => h hn.2]
  · rw [reportCondition_eq_none h, Option.map_none, ite_self]

/-- A good report goes to its qualifier (R32). -/
theorem exec_conditionReport_good {byte0 byte1 : Byte} {stop : Bool} {r : Report} (t : Taking) {s : State}
    (hr : s.resetAsserted = false) (h : readReport (frameBits byte0 byte1 stop) = some r) :
    exec (.conditionReport byte0 byte1 stop true t) s = .next (s.route t r) := by
  simp only [exec, execConditionReport, awake_on _ hr, frameStart_frameBits, if_true, h]

/-- A frame that reads as no report is a bad one (R30). -/
theorem exec_conditionReport_bad {byte0 byte1 : Byte} {stop : Bool} (t : Taking) {s : State}
    (hr : s.resetAsserted = false) (h : readReport (frameBits byte0 byte1 stop) = none) :
    exec (.conditionReport byte0 byte1 stop true t) s = .next s.badFrame := by
  simp only [exec, execConditionReport, awake_on _ hr, frameStart_frameBits, if_true, h]

/-- A term without a start bit is no frame (log 22). -/
theorem exec_conditionReport_unstarted (byte0 byte1 : Byte) (stop : Bool) (t : Taking) {s : State}
    (hr : s.resetAsserted = false) : exec (.conditionReport byte0 byte1 stop false t) s = .next s := by
  simp only [exec, execConditionReport, awake_on _ hr, frameStart_frameBits]
  rfl

/-- Settles O8: the bits of a frame through its two bytes, and a good report by the fields of its byte 0. -/
theorem framesCarryTheirBits : Obligations.FramesCarryTheirBits := by
  unfold Obligations.FramesCarryTheirBits
  refine ⟨fun s => ⟨fun h => ?rests, fun o h => ?carries⟩, fun o => ⟨?start, ?stop, ?byte0, ?check⟩, fun f r => ?report,
    fun byte0 byte1 stop start t s => ⟨⟨?_, ?_, ?_, ?_⟩, fun hr => ⟨fun r h => ?good, ?unstarted⟩⟩⟩
  case rests => simp [State.sdo, h]
  case carries => simp [State.sdo, h]
  case start => exact frameStart_frameBits ..
  case stop => exact frameStop_frameBits ..
  case byte0 =>
    show (frameByte0 o.frame).toNat = _
    rw [Order.frame, frameByte0_frameBits]
    exact o.byte0_toNat
  case check =>
    refine (frameCheck_iff o.frame).mp ?_
    simp only [Order.frame, frameByte0_frameBits, frameByte1_frameBits]
  case report => rw [readReport_eq_some, frameCheck_iff]; rfl
  · exact frameStart_frameBits ..
  · exact frameStop_frameBits ..
  · exact frameByte0_frameBits ..
  · exact frameByte1_frameBits ..
  case good => rw [exec_conditionReport_good t hr h, exec_goodReport _ _ _ _ hr]
  case unstarted => exact exec_conditionReport_unstarted _ _ _ _ hr

/-! ### The transmitter's pick -/

section

variable {s : State} {afterStatus : Bool} {c : Chan}

theorem State.differs_iff : s.differs c = true ↔ s.calls.levels c ≠ look s.link.sent c := by simp [State.differs]

theorem State.orderFor_eq (s : State) (c : Chan) : s.orderFor c =
    if (s.calls.levels c).ring ≠ (look s.link.sent c).ring then
      (if (s.calls.levels c).ring then .ringOn c else .ringOff c)
    else if (s.calls.levels c).loop then .loopClose c else .loopOpen c := by
  simp [State.orderFor]

/-- A pending CLEAR_ALL goes first (R34). -/
theorem State.pick_clear (hc : s.link.clearPending = true) : s.pick afterStatus =
    { s with link := { s.link with clearPending := false, flight := some .clearAll } } := if_pos hc

/-- Then a pending STATUS_REQUEST, unless one has just gone and a channel differs (R34). -/
theorem State.pick_status (hc : s.link.clearPending = false) (hs : s.link.statusPending = true)
    (ha : afterStatus = false ∨ ∀ c, s.calls.levels c = look s.link.sent c) : s.pick afterStatus =
      { s with link := { s.link with statusPending := false, flight := some .statusRequest } } := by
  rw [← State.agree_iff] at ha
  unfold State.pick
  rw [if_neg (by simp [hc]), if_pos]
  rcases ha with ha | ha <;> simp [hs, ha]

/-- No broadcast is due: none is pending, or only a STATUS_REQUEST that has to let a differing channel go first. -/
theorem State.pick_order (hc : s.link.clearPending = false)
    (hs : s.link.statusPending = false ∨ afterStatus = true ∧ ∃ c, s.calls.levels c ≠ look s.link.sent c) :
    s.pick afterStatus = ((searchFrom s.link.position).find? s.differs).elim s fun c =>
      { s with link := { s.link with position := c, flight := some (s.orderFor c) } } := by
  unfold State.pick
  rw [if_neg (by simp [hc]), if_neg]
  · cases (searchFrom s.link.position).find? s.differs <;> rfl
  rcases hs with hs | ⟨ha, c, hd⟩
  · simp [hs]
  · have hn : s.agree = false := by
      rw [Bool.eq_false_iff, Ne, State.agree_iff]
      exact fun h => hd (h c)
    simp [ha, hn]

/-- Then the first differing channel after the transmit position (R34). -/
theorem State.pick_channel (hc : s.link.clearPending = false)
    (hs : s.link.statusPending = false ∨ afterStatus = true ∧ ∃ c, s.calls.levels c ≠ look s.link.sent c)
    (hd : s.calls.levels c ≠ look s.link.sent c)
    (hfirst : ∀ d, s.calls.levels d ≠ look s.link.sent d →
      (c - s.link.position - 1).val ≤ (d - s.link.position - 1).val) :
    s.pick afterStatus = { s with link := { s.link with position := c, flight := some (s.orderFor c) } } := by
  rw [State.pick_order hc hs, searchFrom_find _ _ _ (State.differs_iff.mpr hd) fun d h => hfirst d (State.differs_iff.mp h)]
  rfl

/-- With nothing pending and the images in agreement the transmitter rests. -/
theorem State.pick_none (hc : s.link.clearPending = false)
    (hs : s.link.statusPending = false ∨ afterStatus = true ∧ ∃ c, s.calls.levels c ≠ look s.link.sent c)
    (ha : ∀ c, s.calls.levels c = look s.link.sent c) : s.pick afterStatus = s := by
  rw [State.pick_order hc hs, searchFrom_none _ _ fun d => by simp [State.differs, ha d]]
  rfl

theorem State.kick_idle (h : s.link.flight = none) : s.kick = s.pick false := by
  unfold State.kick
  rw [h]
  rfl

/-- The pick changes the transmitter's own fields alone. -/
theorem State.pick_eq (s : State) (afterStatus : Bool) : s.pick afterStatus = { s with link := { s.link with
    position := (s.pick afterStatus).link.position
    clearPending := (s.pick afterStatus).link.clearPending
    statusPending := (s.pick afterStatus).link.statusPending
    flight := (s.pick afterStatus).link.flight } } := by
  unfold State.pick
  split
  · rfl
  · split
    · rfl
    · split <;> rfl

end

/-! ### Bad frames -/

/-- Settles O9: a frame that reads as no report is bad, and a bad frame leaves the transmitter a STATUS_REQUEST to send. -/
theorem badFrameIsDiscarded : Obligations.BadFrameIsDiscarded := by
  unfold Obligations.BadFrameIsDiscarded
  intro byte0 byte1 stop taken s hr hbad
  rw [exec_conditionReport_bad taken hr (readReport_bad hbad)]
  have busy : s.link.flight.isSome = true → s.badFrame = { s with
      link := { s.link with errorFlag := true, statusPending := true }
      attn := { s.attn with linkErr := true } } := fun hf => State.kick_busy hf
  have idle : s.link.flight = none → s.badFrame = { s with
      link := { s.link with
        errorFlag := true
        clearPending := false
        statusPending := s.link.clearPending
        flight := some (if s.link.clearPending then .clearAll else .statusRequest) }
      attn := { s.attn with linkErr := true } } := fun hf => by
    refine (State.kick_idle (by exact hf)).trans ?_
    cases hc : s.link.clearPending with
    | true => exact State.pick_clear hc
    | false =>
      refine (State.pick_status (by exact hc) (by rfl) (.inl rfl)).trans ?_
      simp [hc]
  refine ⟨fun hf => congrArg _ (busy hf), fun hf => congrArg _ (idle hf), fun he hl hs hf => congrArg _ ?_⟩
  have hlink : ∀ l : ScanLink, l.errorFlag = true → l.statusPending = true →
      { l with errorFlag := true, statusPending := true } = l := by rintro ⟨⟩ rfl rfl; rfl
  have hattn : ∀ a : Attention, a.linkErr = true → { a with linkErr := true } = a := by rintro ⟨⟩ rfl; rfl
  exact (busy hf).trans (by rw [hlink _ he hs, hattn _ hl])

/-! ### The completion of a frame -/

/-- The state in which the transmitter picks at the completion of the frame `o`: the sent image written, and STOPPING
ended when the images agree (R35, R173). -/
def State.frameSent (o : Order) (s : State) : State :=
  ({ s with link := { s.link with sent := sentAfter o s.link.sent, flight := none } } : State).endStopping

theorem State.completeFrame_eq_pick (o : Order) (s : State) :
    s.completeFrame o = (s.frameSent o).pick (o == .statusRequest) := rfl

@[simp] theorem State.frameSent_calls (o : Order) (s : State) : (s.frameSent o).calls = s.calls :=
  State.endStopping_calls _

@[simp] theorem State.frameSent_link (o : Order) (s : State) :
    (s.frameSent o).link = { s.link with sent := sentAfter o s.link.sent, flight := none } := State.endStopping_link _

theorem State.frameSent_eq (o : Order) (s : State) : s.frameSent o = { s with
    op := (s.frameSent o).op
    link := { s.link with sent := sentAfter o s.link.sent, flight := none } } := State.endStopping_eq _

/-- The images agree when the frame has been written: the end of STOPPING (R173). -/
theorem State.frameSent_op_stopped {o : Order} {s : State} (ho : s.op = .stopping)
    (h : ∀ c, s.calls.levels c = look (sentAfter o s.link.sent) c) : (s.frameSent o).op = .config :=
  State.endStopping_op_agree ho ((State.agree_iff _).mpr h)

theorem State.frameSent_op {o : Order} {s : State}
    (h : ¬(s.op = .stopping ∧ ∀ c, s.calls.levels c = look (sentAfter o s.link.sent) c)) : (s.frameSent o).op = s.op := by
  unfold State.frameSent State.endStopping
  rw [if_neg fun hn => h ⟨hn.1, (State.agree_iff _).mp hn.2⟩]

@[simp] theorem State.completeFrame_op (o : Order) (s : State) : (s.completeFrame o).op = (s.frameSent o).op :=
  State.pick_op ..

/-- The sent image after a frame, channel by channel (R35). -/
theorem look_sentAfter (o : Order) (sent : Vector Levels 32) (c : Chan) : look (sentAfter o sent) c = match o with
    | .ringOff d => if c = d then ⟨false, (look sent c).loop⟩ else look sent c
    | .ringOn d => if c = d then ⟨true, (look sent c).loop⟩ else look sent c
    | .loopOpen d => if c = d then ⟨(look sent c).ring, false⟩ else look sent c
    | .loopClose d => if c = d then ⟨(look sent c).ring, true⟩ else look sent c
    | .clearAll => ⟨false, false⟩
    | .statusRequest => look sent c := by
  cases o with
  | clearAll => exact look_replicate ..
  | statusRequest => rfl
  | _ d =>
    simp only [sentAfter, look_put, eq_comm (a := d)]
    split
    · next h => rw [h]
    · rfl

/-- The completion of a frame changes the operating state, the sent image and the transmitter's own fields alone. -/
theorem State.completeFrame_eq (o : Order) (s : State) : s.completeFrame o = { s with
    op := (s.completeFrame o).op
    link := { s.link with
      sent := (s.completeFrame o).link.sent
      position := (s.completeFrame o).link.position
      clearPending := (s.completeFrame o).link.clearPending
      statusPending := (s.completeFrame o).link.statusPending
      flight := (s.completeFrame o).link.flight } } := by
  rw [State.completeFrame_sent, State.completeFrame_op, State.completeFrame_eq_pick]
  refine (State.pick_eq ..).trans ?_
  generalize State.pick _ (s.frameSent o) = u
  rw [State.frameSent_eq]

/-- Settles O15: the sent image by its own equation, the operating state by the agreement of the images. -/
theorem frameCompletionWritesTheSentImage : Obligations.FrameCompletionWritesTheSentImage := by
  unfold Obligations.FrameCompletionWritesTheSentImage
  intro o s hr hf
  refine ⟨s.completeFrame o, exec_frameCompletion o hr hf, fun c => ?_, fun h => ?_, fun h => ?_, s.completeFrame_eq o⟩
  · rw [State.completeFrame_sent]
    exact look_sentAfter o _ c
  all_goals rw [State.completeFrame_sent] at h; rw [State.completeFrame_op]
  · exact State.frameSent_op_stopped h.1 h.2
  · exact State.frameSent_op h

/-- Settles O16: the pick in its order, at the close of an event and in the state a completed frame leaves. -/
theorem transmitterPicksInOrder : Obligations.TransmitterPicksInOrder := by
  unfold Obligations.TransmitterPicksInOrder
  refine ⟨fun k s hf => ?close, fun o s t hr hf ht => ?completion⟩
  case close =>
    rw [State.close_link, if_neg (by simp [hf])]
    refine ⟨fun hc => ?_, fun hc hs => ?_, fun hc hs => ⟨fun ha => ?_, fun c hd hfirst => ?_⟩⟩
    · rw [State.pick_clear (s := { s with calls := k }) hc]
    · rw [State.pick_status (s := { s with calls := k }) hc hs (.inl rfl)]
    · rw [State.pick_none (s := { s with calls := k }) hc (.inl hs) ha]
    · rw [State.pick_channel (s := { s with calls := k }) hc (.inl hs) hd hfirst, State.orderFor_eq]
  case completion =>
    rw [exec_frameCompletion o hr hf] at ht
    injection ht with ht
    subst ht
    rw [State.completeFrame_sent, State.completeFrame_eq_pick]
    have hcalls := State.frameSent_calls o s
    have hlink := State.frameSent_link o s
    generalize s.frameSent o = u at hcalls hlink
    have hsent : sentAfter o s.link.sent = u.link.sent := by rw [hlink]
    have hclear : s.link.clearPending = u.link.clearPending := by rw [hlink]
    have hstatus : s.link.statusPending = u.link.statusPending := by rw [hlink]
    have hposition : s.link.position = u.link.position := by rw [hlink]
    have hflight : u.link.flight = none := by rw [hlink]
    rw [hsent, hclear, hstatus, hposition, ← hcalls]
    refine ⟨fun hc => ?_, fun hc hs ha => ?_, fun hc hs => ?_⟩
    · rw [State.pick_clear hc]
      exact ⟨rfl, rfl, rfl, rfl⟩
    · rw [State.pick_status hc hs (ha.imp_left beq_eq_false_iff_ne.mpr)]
      exact ⟨rfl, hc, rfl, rfl⟩
    · have hs' := hs.imp_right (And.imp_left (beq_iff_eq (a := o)).mpr)
      refine ⟨?_, ?_, fun ha => ?_, fun c hd hfirst => ?_⟩
      · rw [State.pick_order hc hs']
        cases (searchFrom u.link.position).find? u.differs <;> exact hc
      · rw [State.pick_order hc hs']
        cases (searchFrom u.link.position).find? u.differs <;> rfl
      · rw [State.pick_none hc hs' ha]
        exact ⟨hflight, rfl⟩
      · rw [State.pick_channel hc hs' hd hfirst, State.orderFor_eq]
        exact ⟨rfl, rfl⟩

end Sys2Proof.Machine
end

section
/-! Reset: every block after hardware reset, and the frames that go out at its end (R38, R126). -/

namespace Sys2Proof.Machine

@[simp] theorem Calls.reset_batt (c : Chan) : Calls.reset.batt c = BattQual.reset := look_replicate ..
@[simp] theorem State.reset_sent (c : Chan) : look State.reset.link.sent c = Levels.rest := look_replicate ..
@[simp] theorem State.reset_loopQ (c : Chan) : look State.reset.loopQ c = LoopQual.reset := look_replicate ..
@[simp] theorem State.reset_ringQ (c : Chan) : look State.reset.ringQ c = RingQual.reset := look_replicate ..
@[simp] theorem State.reset_plan (i : SlotIx) : look State.reset.plan i = none := look_replicate ..
@[simp] theorem Highway.reset_carried (c : Chan) : look Highway.reset.carried c = none := look_replicate ..
@[simp] theorem Mailbox.reset_params (i : Fin 16) : look Mailbox.reset.params i = 0 := look_replicate ..
@[simp] theorem Mailbox.reset_result (i : Fin 32) : look Mailbox.reset.result i = 0 := look_replicate ..
@[simp] theorem State.reset_watches (w : WatchIx) : look State.reset.attn.watches w = Watch.reset := look_replicate ..

/-- With its enables off a request line is not asserted (R186, R190). -/
theorem State.irqa_disabled {s : State} (ha : s.attn.irqaEnable = false) (hd : s.attn.doneEnable = false) :
    s.irqa = false := by simp [State.irqa, ha, hd]

theorem State.irqb_disabled {s : State} (hb : s.attn.irqbEnable = false) : s.irqb = false := by simp [State.irqb, hb]

/-- Every notice kind is enabled after reset (R183). -/
theorem State.reset_mask (n : Notice) : State.reset.params.mask.getLsbD n.bit = true := by cases n <;> decide

/-- Settles O6: block by block, each the reset value that `State.reset` gives. -/
theorem hardwareResetSetsEveryBlock : Obligations.HardwareResetSetsEveryBlock := by
  unfold Obligations.HardwareResetSetsEveryBlock
  intro s
  refine ⟨_, rfl, rfl, rfl, ⟨fun c => ⟨Calls.reset_levels c, State.reset_sent c⟩, rfl, rfl, rfl, rfl, rfl⟩,
    fun c => ?qualifiers, ⟨Calls.reset_rx, rfl⟩, State.reset_plan, Calls.reset_group, Calls.reset_members,
    ⟨rfl, rfl, Highway.reset_carried⟩, ⟨rfl, rfl, State.reset_mask⟩,
    ⟨rfl, rfl, rfl, rfl, rfl, rfl, rfl, Mailbox.reset_params, Mailbox.reset_result⟩, Calls.reset_notices,
    ⟨rfl, rfl, rfl, rfl, State.reset_watches⟩, State.irqa_disabled rfl rfl, State.irqb_disabled rfl⟩
  case qualifiers =>
    refine ⟨?_, ?_, ?_, State.reset_ringQ c, Calls.reset_batt c⟩ <;> exact (congrArg _ (State.reset_loopQ c)).trans rfl

/-! ### The end of reset -/

/-- While RESET is held every row but the two of the RESET input changes nothing (log 6). -/
theorem exec_held {i : Instr} {s : State} (h : s.resetAsserted = true) (h1 : i ≠ .hardwareReset) (h2 : i ≠ .resetEnd) :
    exec i s = .next s := by
  cases i with
  | hardwareReset => exact absurd rfl h1
  | resetEnd => exact absurd rfl h2
  | _ => exact congrArg Host.Outcome.next (if_pos h)

/-- Out of RESET its end does nothing. -/
theorem exec_resetEnd_awake {s : State} (h : s.resetAsserted = false) : exec .resetEnd s = .next s := by
  simp [exec, execResetEnd, h]

/-- The end of RESET with CLEAR_ALL pending sends it (R38, R126). -/
theorem exec_resetEnd_clear {s : State} (h : s.resetAsserted = true) (hc : s.link.clearPending = true) :
    exec .resetEnd s = .next { s with
      resetAsserted := false
      tones := toneStart
      link := { s.link with clearPending := false, flight := some .clearAll } } := by
  simp only [exec, execResetEnd, h, if_true]
  rw [State.pick_clear (by exact hc)]

/-- CLEAR_ALL gone, with a STATUS_REQUEST pending: the request goes next (R34, R35). -/
theorem State.completeFrame_clearAll {s : State} (hc : s.link.clearPending = false) (hs : s.link.statusPending = true) :
    (s.completeFrame .clearAll).link = { s.link with
      sent := Vector.replicate 32 Levels.rest, statusPending := false, flight := some .statusRequest } := by
  have hlink := State.frameSent_link .clearAll s
  have pick : s.completeFrame .clearAll = { s.frameSent .clearAll with link := { (s.frameSent .clearAll).link with
      statusPending := false, flight := some .statusRequest } } :=
    State.pick_status (s := s.frameSent .clearAll) (by rw [hlink]; exact hc) (by rw [hlink]; exact hs) (.inl rfl)
  rw [pick, hlink]
  rfl

/-- Settles O7: RESET held, its end, and the two broadcasts that follow a hardware reset. -/
theorem resetEndSendsClearAllThenStatusRequest : Obligations.ResetEndSendsClearAllThenStatusRequest := by
  unfold Obligations.ResetEndSendsClearAllThenStatusRequest
  refine ⟨fun i s h h1 h2 => exec_held h h1 h2, fun s h hc => exec_resetEnd_clear h hc,
    fun s h => exec_resetEnd_awake h, fun s => ?_⟩
  refine ⟨_, _, _, rfl, exec_resetEnd_clear rfl rfl, exec_frameCompletion .clearAll rfl rfl, rfl, ?_⟩
  rw [State.completeFrame_clearAll rfl rfl]
  exact ⟨rfl, rfl, rfl, fun c => look_replicate ..⟩

end Sys2Proof.Machine
end

section
/-! The qualifiers: what a good report and an expiry do at each (R32, R36, R39 to R48). -/

namespace Sys2Proof.Machine

section

variable {c : Chan} {t : Taking} {s : State}

/-! ### Routing -/

/-- A LOOP report at a station goes to its loop qualifier. -/
theorem exec_loopReport (level : Bool) (hr : s.resetAsserted = false) (hc : (s.calls.ses c).cls = .station) :
    exec (goodReport c .loop level t) s = .next (({ s with loopQ := put s.loopQ c ((look s.loopQ c).report s.params.current
      s.now (s.calls.countsPulses c) level).1 } : State).deliver t c
        ((look s.loopQ c).report s.params.current s.now (s.calls.countsPulses c) level).2) := by
  rw [exec_goodReport c .loop level t hr]
  simp only [State.route, hc, State.setLoopQ]

/-- A RINGV report at a trunk goes to its ring qualifier. -/
theorem exec_ringReport (level : Bool) (hr : s.resetAsserted = false) (hc : (s.calls.ses c).cls = .trunk) :
    exec (goodReport c .ringv level t) s =
      .next { s with ringQ := put s.ringQ c ((look s.ringQ c).report s.params.current level) } := by
  rw [exec_goodReport c .ringv level t hr]
  simp only [State.route, hc, State.setRingQ]

/-- A BATT report at a trunk goes to its battery qualifier. -/
theorem exec_battReport (level : Bool) (hr : s.resetAsserted = false) (hc : (s.calls.ses c).cls = .trunk) :
    exec (goodReport c .batt level t) s = .next { s with calls := { s.calls with
      battQ := put s.calls.battQ c ((s.calls.batt c).report s.params.current level) } } := by
  rw [exec_goodReport c .batt level t hr]
  simp only [State.route, hc, Calls.setBatt]

/-- A channel without a class has no qualifier. -/
theorem State.route_unused {r : Report} (h : (s.calls.ses r.chan).cls = .unused) : s.route t r = s := by
  simp only [State.route, h]

/-- A station has no ring and no battery qualifier. -/
theorem State.route_station_other {r : Report} (h : (s.calls.ses r.chan).cls = .station) (hn : r.cond ≠ .loop) :
    s.route t r = s := by
  cases hcond : r.cond with
  | loop => exact absurd hcond hn
  | ringv => simp only [State.route, h, hcond]
  | batt => simp only [State.route, h, hcond]

/-- A trunk has no loop qualifier. -/
theorem State.route_trunk_loop {r : Report} (h : (s.calls.ses r.chan).cls = .trunk) (hl : r.cond = .loop) :
    s.route t r = s := by
  simp only [State.route, h, hl]

end

/-- Settles O10: the routing, by class and condition. -/
theorem reportsAreRoutedByClass : Obligations.ReportsAreRoutedByClass := by
  unfold Obligations.ReportsAreRoutedByClass
  intro c cond level t s hr
  refine ⟨fun hc => ?_, fun hc hn => ?_, fun hc hl => ?_, fun hc hl => ?_, fun hc hl => ?_, fun hc hl => ?_⟩
  · rw [exec_goodReport _ _ _ _ hr, State.route_unused hc]
  · rw [exec_goodReport _ _ _ _ hr, State.route_station_other hc hn]
  · rw [exec_goodReport _ _ _ _ hr, State.route_trunk_loop hc hl]
  · subst hl
    exact ⟨_, _, rfl, exec_loopReport level hr hc⟩
  · subst hl
    exact exec_ringReport level hr hc
  · subst hl
    exact exec_battReport level hr hc

/-! ### The loop qualifier -/

section

variable {c : Chan} {t : Taking} {s : State}

/-- A LOOP report that takes the qualifier to `q` and delivers no event. -/
theorem exec_loopReport_silent {level : Bool} {q : LoopQual} (hr : s.resetAsserted = false)
    (hc : (s.calls.ses c).cls = .station)
    (hq : (look s.loopQ c).report s.params.current s.now (s.calls.countsPulses c) level = (q, none)) :
    exec (goodReport c .loop level t) s = .next { s with loopQ := put s.loopQ c q } := by
  rw [exec_loopReport level hr hc, hq]
  rfl

/-- A level that the loop qualifier holds already changes nothing (R39). -/
theorem exec_loopReport_held {level : Bool} (hr : s.resetAsserted = false) (hc : (s.calls.ses c).cls = .station)
    (hq : (look s.loopQ c).report s.params.current s.now (s.calls.countsPulses c) level = (look s.loopQ c, none)) :
    exec (goodReport c .loop level t) s = .next s := by
  rw [exec_loopReport_silent hr hc hq, put_look]

/-- A pulse break counts in a collection by pulses (R42). -/
theorem Calls.countsPulses_iff (k : Calls) (c : Chan) : k.countsPulses c = true ↔
    (k.ses c).state = .collecting ∧ ((k.ses c).digitMode = .pulse ∨ (k.ses c).digitMode = .either) := by
  unfold Calls.countsPulses
  cases (k.ses c).digitMode <;> simp

/-- A closure in OPEN_TIMING classifies the interval (R42). -/
theorem LoopQual.report_closure {q : LoopQual} (p : ParamSet) (now : Nat) (counted : Bool) (h : q.state = .openTiming) :
    q.report p now counted true = q.classify (look p Param.pulseMakeEnd) counted (now - q.openStart) := by
  simp only [LoopQual.report, h]

theorem LoopQual.classify_hit {q : LoopQual} (makeEnd : Nat) (counted : Bool) {len : Nat} (h : len < q.hitMax) :
    q.classify makeEnd counted len =
      ({ q with state := .offhook, timer := if 0 < q.pulses then some (.pulseMakeEnd, makeEnd) else none }, none) := if_pos h

theorem LoopQual.classify_break {q : LoopQual} (makeEnd : Nat) {len : Nat} (h : q.hitMax ≤ len) (hb : len ≤ q.breakMax) :
    q.classify makeEnd true len = ({ q with
      state := .offhook, pulses := min (q.pulses + 1) 11, timer := some (.pulseMakeEnd, makeEnd) }, none) := by
  unfold LoopQual.classify
  rw [if_neg (by omega), if_pos hb, if_pos rfl]

theorem LoopQual.classify_uncounted {q : LoopQual} (makeEnd : Nat) {len : Nat} (h : q.hitMax ≤ len)
    (hb : len ≤ q.breakMax) :
    q.classify makeEnd false len = ({ q with state := .offhook, pulses := 0, timer := none }, none) := by
  unfold LoopQual.classify
  rw [if_neg (by omega), if_pos hb, if_neg (by simp)]

theorem LoopQual.classify_between {q : LoopQual} (makeEnd : Nat) (counted : Bool) {len : Nat} (h : q.hitMax ≤ len)
    (hb : q.breakMax < len) (hf : len < q.flashMin) :
    q.classify makeEnd counted len = ({ q with state := .offhook, pulses := 0, timer := none }, none) := by
  unfold LoopQual.classify
  rw [if_neg (by omega), if_neg (by omega), if_pos hf]

theorem LoopQual.classify_flash {q : LoopQual} (makeEnd : Nat) (counted : Bool) {len : Nat} (h : q.hitMax ≤ len)
    (hb : q.breakMax < len) (hf : q.flashMin ≤ len) :
    q.classify makeEnd counted len = ({ q with state := .offhook, pulses := 0, timer := none }, some .flash) := by
  unfold LoopQual.classify
  rw [if_neg (by omega), if_neg (by omega), if_neg (by omega)]

end

/-- Settles O11: the rows of the loop qualifier's report outside the closure in OPEN_TIMING. -/
theorem openingStartsOpenTiming : Obligations.OpeningStartsOpenTiming := by
  unfold Obligations.OpeningStartsOpenTiming
  intro c t s hr hc
  refine ⟨fun hq => exec_loopReport_silent hr hc ?_, fun hq => exec_loopReport_silent hr hc ?_,
    fun hq => exec_loopReport_silent hr hc ?_, fun hq => exec_loopReport_held hr hc ?_,
    fun hq => exec_loopReport_held hr hc ?_⟩
  · simp only [LoopQual.report, hq]
  · simp only [LoopQual.report, hq]
  · simp only [LoopQual.report, hq]
  · rcases hq with hq | hq <;> simp only [LoopQual.report, hq]
  · rcases hq with hq | hq <;> simp only [LoopQual.report, hq]

/-- Settles O12: the report of a closure in OPEN_TIMING, by the row of R42 that its length falls in. -/
theorem openIntervalsAreClassified : Obligations.OpenIntervalsAreClassified := by
  unfold Obligations.OpenIntervalsAreClassified
  rintro c t s len hr hc hq rfl
  have report := LoopQual.report_closure s.params.current s.now (s.calls.countsPulses c) hq
  refine ⟨fun hh => ?hit, fun hh hb => ⟨fun hp => ?counted, fun hp => ?uncounted⟩, fun hh hb hf => ?between,
    fun hh hb hf => ?flash⟩
  case hit => exact exec_loopReport_silent hr hc (report.trans (LoopQual.classify_hit _ _ hh))
  case counted =>
    rw [← Calls.countsPulses_iff] at hp
    rw [hp] at report
    exact exec_loopReport_silent hr hc (by rw [hp]; exact report.trans (LoopQual.classify_break _ hh hb))
  case uncounted =>
    rw [← Calls.countsPulses_iff, Bool.not_eq_true] at hp
    rw [hp] at report
    exact exec_loopReport_silent hr hc (by rw [hp]; exact report.trans (LoopQual.classify_uncounted _ hh hb))
  case between => exact exec_loopReport_silent hr hc (report.trans (LoopQual.classify_between _ _ hh hb hf))
  case flash => rw [exec_loopReport true hr hc, report, LoopQual.classify_flash _ _ hh hb hf]

/-- The digit of a pulse count: itself from 1 to 9, and 0 for ten (R44). -/
theorem pulseDigitOf_eq_some {n : Nat} {d : Fin 10} (h : n = d ∧ d ≠ 0 ∨ n = 10 ∧ d = 0) :
    pulseDigitOf n = some (.num d) := by
  rcases h with ⟨rfl, hd⟩ | ⟨rfl, rfl⟩
  · have hpos : 1 ≤ d.val := Nat.one_le_iff_ne_zero.mpr fun h => hd (Fin.ext h)
    unfold pulseDigitOf
    rw [if_neg (by omega), dif_pos ⟨hpos, by omega⟩]
  · rfl

theorem pulseDigitOf_eq_none {n : Nat} (h : n = 0 ∨ 10 < n) : pulseDigitOf n = none := by
  unfold pulseDigitOf
  rw [if_neg (by omega), dif_neg (by omega)]

theorem exec_pulseMakeEndExpiry (t : Taking) (c : Chan) {s : State} (hr : s.resetAsserted = false)
    (h1 : (look s.loopQ c).state = .offhook) (h2 : (look s.loopQ c).timer = some (.pulseMakeEnd, 0)) :
    exec (.pulseMakeEndExpiry c t) s = .next (({ s with
      loopQ := put s.loopQ c { look s.loopQ c with pulses := 0, timer := none } }).deliver t c
        ((pulseDigitOf (look s.loopQ c).pulses).map .pulseDigit)) := by
  simp [exec, execPulseMakeEndExpiry, awake_on _ hr, State.pulseMakeEnd, h1, h2, State.setLoopQ]

/-- Settles O13: the three expiries due, and each of them not due. -/
theorem loopQualifierTimersEnd : Obligations.LoopQualifierTimersEnd := by
  unfold Obligations.LoopQualifierTimersEnd
  intro c t s hr
  refine ⟨exec_seizeQualExpiry t c hr, exec_flashMaxExpiry t c hr, fun h1 h2 => ⟨fun d hd => ?_, fun hn => ?_⟩,
    fun hn => ?_, fun hn => ?_, fun hn => ?_⟩
  · rw [exec_pulseMakeEndExpiry t c hr h1 h2, pulseDigitOf_eq_some hd]
    rfl
  · rw [exec_pulseMakeEndExpiry t c hr h1 h2, pulseDigitOf_eq_none hn]
    rfl
  · exact (awake_on _ hr).trans (congrArg _ (if_neg fun h => hn h.2))
  · exact (awake_on _ hr).trans (congrArg _ (if_neg fun h => hn h.2))
  · exact (awake_on _ hr).trans (congrArg _ (if_neg fun h => hn h.2))

/-! ### The trunk qualifiers -/

section

variable {c : Chan} {t : Taking} {s : State}

/-- A RINGV report that takes the ring qualifier to `q`. -/
theorem exec_ringReport_to {level : Bool} {q : RingQual} (hr : s.resetAsserted = false)
    (hc : (s.calls.ses c).cls = .trunk) (hq : (look s.ringQ c).report s.params.current level = q) :
    exec (goodReport c .ringv level t) s = .next { s with ringQ := put s.ringQ c q } := by
  rw [exec_ringReport level hr hc, hq]

/-- A level that the ring qualifier holds already changes nothing (R45). -/
theorem exec_ringReport_held {level : Bool} (hr : s.resetAsserted = false) (hc : (s.calls.ses c).cls = .trunk)
    (hq : (look s.ringQ c).report s.params.current level = look s.ringQ c) :
    exec (goodReport c .ringv level t) s = .next s := by
  rw [exec_ringReport_to hr hc hq, put_look]

/-- A BATT report that takes the battery qualifier to `q`. -/
theorem exec_battReport_to {level : Bool} {q : BattQual} (hr : s.resetAsserted = false)
    (hc : (s.calls.ses c).cls = .trunk) (hq : (s.calls.batt c).report s.params.current level = q) :
    exec (goodReport c .batt level t) s =
      .next { s with calls := { s.calls with battQ := put s.calls.battQ c q } } := by
  rw [exec_battReport level hr hc, hq]

/-- A level that the battery qualifier holds already changes nothing (R48). -/
theorem exec_battReport_held {level : Bool} (hr : s.resetAsserted = false) (hc : (s.calls.ses c).cls = .trunk)
    (hq : (s.calls.batt c).report s.params.current level = s.calls.batt c) :
    exec (goodReport c .batt level t) s = .next s := by
  rw [exec_battReport_to hr hc hq, Calls.batt, put_look]

/-- A ring that lasts through its check begins a new burst (R47). -/
theorem exec_burstTimerExpiry_checked (hr : s.resetAsserted = false) (h1 : (look s.ringQ c).state = .gapTiming)
    (h2 : (look s.ringQ c).inCheck = true) (h3 : (look s.ringQ c).burst = some 0) :
    exec (.burstTimerExpiry c t) s = .next { s with ringQ := put s.ringQ c ⟨.inBurst, none, none, false⟩ } := by
  simp [exec, execBurstTimerExpiry, awake_on _ hr, State.burstEnd, h1, h2, h3, State.setRingQ]

/-- The gap's end during a check: the ring is gone, and the burst in check goes on as a first one (R47). -/
theorem exec_gapTimerExpiry_inCheck (hr : s.resetAsserted = false) (h1 : (look s.ringQ c).state = .gapTiming)
    (h2 : (look s.ringQ c).inCheck = true) (h3 : (look s.ringQ c).gap = some 0) :
    exec (.gapTimerExpiry c t) s = .next (({ s with
      ringQ := put s.ringQ c { look s.ringQ c with
        state := .burstTiming, gap := none, inCheck := false } }).deliver t c (some .ringGone)) := by
  simp [exec, execGapTimerExpiry, awake_on _ hr, State.gapEnd, h1, h2, h3, State.setRingQ]

/-- A battery qualifier is its state and its timer. -/
theorem Calls.batt_eq {k : Calls} {st : BattState} {x : Option Nat} (hs : (k.batt c).state = st)
    (ht : (k.batt c).timer = x) : k.batt c = ⟨st, x⟩ := by rw [← hs, ← ht]

end

/-- Settles O14: each row of the two tables by the report or the expiry it names. -/
theorem trunkQualifiersFollowTheirTables : Obligations.TrunkQualifiersFollowTheirTables := by
  unfold Obligations.TrunkQualifiersFollowTheirTables
  intro c t s hr hc
  refine ⟨fun hq => ?ringIdle, fun hq => ?burstTiming, fun hq => ?inBurst, fun hq hk => ?gap, fun hq hk => ?check,
    fun hq => ?absent, fun hq => ?timing, fun hq => ?present, fun hq => ?dropTiming⟩
  case ringIdle =>
    exact ⟨exec_ringReport_held hr hc (by simp only [RingQual.report, hq]),
      exec_ringReport_to hr hc (by simp only [RingQual.report, hq])⟩
  case burstTiming =>
    exact ⟨exec_ringReport_held hr hc (by simp only [RingQual.report, hq]),
      exec_ringReport_to hr hc (by simp only [RingQual.report, hq]), exec_burstTimerExpiry t c hr hq⟩
  case inBurst =>
    exact ⟨exec_ringReport_held hr hc (by simp only [RingQual.report, hq]),
      exec_ringReport_to hr hc (by simp only [RingQual.report, hq])⟩
  case gap =>
    exact ⟨exec_ringReport_held hr hc (by simp only [RingQual.report, hq, hk]),
      exec_ringReport_to hr hc (by simp only [RingQual.report, hq, hk]), exec_gapTimerExpiry t c hr hq hk⟩
  case check =>
    exact ⟨exec_ringReport_held hr hc (by simp only [RingQual.report, hq, hk]),
      exec_ringReport_to hr hc (by simp only [RingQual.report, hq, hk]), exec_burstTimerExpiry_checked hr hq hk,
      exec_gapTimerExpiry_inCheck hr hq hk⟩
  case absent =>
    exact ⟨exec_battReport_held hr hc (by simp only [BattQual.report, hq]),
      exec_battReport_to hr hc (by simp only [BattQual.report, hq])⟩
  case timing =>
    exact ⟨exec_battReport_held hr hc (by simp only [BattQual.report, hq]),
      exec_battReport_to hr hc (by simp only [BattQual.report, hq]),
      fun ht => exec_battSeizeQualExpiry t c hr (Calls.batt_eq hq ht)⟩
  case present =>
    exact ⟨exec_battReport_held hr hc (by simp only [BattQual.report, hq]),
      exec_battReport_to hr hc (by simp only [BattQual.report, hq])⟩
  case dropTiming =>
    exact ⟨exec_battReport_held hr hc (by simp only [BattQual.report, hq]),
      exec_battReport_to hr hc (by simp only [BattQual.report, hq]),
      fun ht => exec_farOpenMinExpiry t c hr (Calls.batt_eq hq ht)⟩

end Sys2Proof.Machine
end

section
/-! The commands of the Attention Unit: the notice sets taken, and the watches set, armed and disarmed (R31, R184, R191,
R192). -/

namespace Sys2Proof.Machine

/-! ### Notices -/

/-- The two bytes of a notice set, the least significant first (R178). -/
theorem noticeBytes_eq (n : NoticeSet) :
    noticeBytes n = [BitVec.ofNat 8 n.toNat, BitVec.ofNat 8 (n.toNat / 256)] := by
  have high : (n >>> 8).setWidth 8 = BitVec.ofNat 8 (n.toNat / 256) := by
    apply BitVec.eq_of_toNat_eq
    simp [Nat.shiftRight_eq_div_pow]
  have low : n.setWidth 8 = BitVec.ofNat 8 n.toNat := by
    apply BitVec.eq_of_toNat_eq
    simp
  rw [noticeBytes, low, high]

theorem takeNoticesBody_channel (c : Chan) (s : State) :
    takeNoticesBody ⟨c.val, by omega⟩ s = takeChannelNotices c s := dif_pos c.isLt

theorem takeNoticesBody_system (s : State) : takeNoticesBody 32 s = takeSystemNotices s := rfl

theorem exec_takeNotices {s : State} {p : Params} {n : Fin 33} (ht : s.taking .takeNotices p)
    (hn : (look p 0).toNat = n) : exec .takeNotices s =
      .next ((takeNoticesBody n s).state.mail (Mailbox.post (takeNoticesBody n s).code (takeNoticesBody n s).bytes)) :=
  takeChecked _ ht (readFin_eq_some hn) rfl

/-! ### Watches -/

/-- A watch command carried out posts the flags as it found them (R191). -/
theorem reply_watch (i : WatchIx) (f : Watch → Watch) (s : State) :
    (withWatch i f s).state.mail (Mailbox.post (withWatch i f s).code (withWatch i f s).bytes) = { s with
      attn := { s.attn with watches := put s.attn.watches i (f (look s.attn.watches i)) }
      mbox := s.mbox.post .ok (watchResult i (look s.attn.watches i)) } := rfl

theorem readWatchMode_code {b : Byte} (h : b.toNat = 0 ∨ b.toNat = 1) :
    readWatchMode b = some (if b = 0 then .any else .all) := by
  rcases h with h | h
  · obtain rfl : b = 0 := BitVec.eq_of_toNat_eq h
    rfl
  · obtain rfl : b = 1 := BitVec.eq_of_toNat_eq h
    rfl

/-- The watch that SET_WATCH's parameters spell (R191). -/
def watchOf (p : Params) : Watch where
  chans := look p 5 ++ look p 4 ++ look p 3 ++ look p 2
  states := (look p 8 ++ look p 7 ++ look p 6 : BitVec 24).setWidth 17
  mode := if look p 1 = 0 then .any else .all
  armed := false
  fired := false

theorem readWatch_eq_some {p : Params} {i : WatchIx} (h0 : (look p 0).toNat = i)
    (h1 : (look p 1).toNat = 0 ∨ (look p 1).toNat = 1) :
    readWatch p = some (i, (watchOf p).mode, (watchOf p).chans, (watchOf p).states) := by
  unfold readWatch
  rw [readFin_eq_some h0, readWatchMode_code h1]
  rfl

/-- Channel `c` is bit `c % 8` of the channel set's byte `c / 8` (R178). -/
theorem watchOf_selects (p : Params) (c : Chan) :
    (watchOf p).selects c = (look p ⟨2 + c.val / 8, by omega⟩).getLsbD (c.val % 8) := by
  simp only [Watch.selects, watchOf, BitVec.getLsbD_append]
  have hbyte : c.val / 8 = 0 ∨ c.val / 8 = 1 ∨ c.val / 8 = 2 ∨ c.val / 8 = 3 := by omega
  rcases hbyte with h | h | h | h <;> simp only [h]
  · rw [if_pos (by omega), show c.val % 8 = c.val by omega]
    rfl
  · rw [if_neg (by omega), if_pos (by omega), show c.val % 8 = c.val - 8 by omega]
    rfl
  · rw [if_neg (by omega), if_neg (by omega), if_pos (by omega), show c.val % 8 = c.val - 8 - 8 by omega]
    rfl
  · rw [if_neg (by omega), if_neg (by omega), if_neg (by omega), show c.val % 8 = c.val - 8 - 8 - 8 by omega]
    rfl

/-- State code `n` is bit `n % 8` of the state set's byte `n / 8` (R178). -/
theorem watchOf_states (p : Params) (st : SState) : (watchOf p).states.getLsbD st.code =
    (look p ⟨6 + st.code / 8, by cases st <;> decide⟩).getLsbD (st.code % 8) := by
  simp only [watchOf, BitVec.getLsbD_setWidth, BitVec.getLsbD_append]
  cases st <;> rfl

/-- A watch that is not armed does not fire at its evaluation (R190). -/
theorem Watch.evaluate_disarmed {w : Watch} (h : w.armed = false) (k : Calls) : w.evaluate k = w := by
  simp [Watch.evaluate, h]

/-- A watch armed fires at once when its condition holds, and otherwise stays armed (R190, R192). -/
theorem Watch.evaluate_armed (w : Watch) (k : Calls) : ({ w with armed := true, fired := false } : Watch).evaluate k =
    { w with armed := !w.condition k, fired := w.condition k } := by
  have hc : ({ w with armed := true, fired := false } : Watch).condition k = w.condition k := rfl
  unfold Watch.evaluate
  rw [hc]
  cases w.condition k <;> rfl

theorem exec_setWatch {s : State} {p : Params} {i : WatchIx} (ht : s.taking .setWatch p) (ho : s.op ≠ .stopping)
    (h0 : (look p 0).toNat = i) (h1 : (look p 1).toNat = 0 ∨ (look p 1).toNat = 1) :
    exec .setWatch s = .next { s with
      attn := { s.attn with watches := put s.attn.watches i (watchOf p) }
      mbox := s.mbox.post .ok (watchResult i (look s.attn.watches i)) } := by
  refine (takeChecked setWatchBody ht (readWatch_eq_some h0 h1) (outsideStopping_of_ne ho)).trans ?_
  rw [setWatchBody, reply_watch]
  dsimp only
  rw [Watch.evaluate_disarmed rfl]
  rfl

theorem exec_armWatch {s : State} {p : Params} {i : WatchIx} (ht : s.taking .armWatch p) (ho : s.op ≠ .stopping)
    (h0 : (look p 0).toNat = i) : exec .armWatch s = .next { s with
      attn := { s.attn with watches := put s.attn.watches i { look s.attn.watches i with
        armed := !(look s.attn.watches i).condition s.calls, fired := (look s.attn.watches i).condition s.calls } }
      mbox := s.mbox.post .ok (watchResult i (look s.attn.watches i)) } := by
  refine (takeChecked armWatchBody ht (readFin_eq_some h0) (outsideStopping_of_ne ho)).trans ?_
  rw [armWatchBody, reply_watch, Watch.evaluate_armed]

theorem exec_disarmWatch {s : State} {p : Params} {i : WatchIx} (ht : s.taking .disarmWatch p) (ho : s.op ≠ .stopping)
    (h0 : (look p 0).toNat = i) : exec .disarmWatch s = .next { s with
      attn := { s.attn with watches := put s.attn.watches i { look s.attn.watches i with armed := false, fired := false } }
      mbox := s.mbox.post .ok (watchResult i (look s.attn.watches i)) } :=
  takeChecked disarmWatchBody ht (readFin_eq_some h0) (outsideStopping_of_ne ho)

theorem watchResult_eq (i : WatchIx) (w : Watch) :
    watchResult i w = [byteOf i, byteOf (if w.armed then 1 else 0), byteOf (if w.fired then 1 else 0)] := rfl

/-- Settles O50: the notice sets by the number given, the watch commands by what each leaves of the watch. -/
theorem noticesAreTakenAndWatchesSet : Obligations.NoticesAreTakenAndWatchesSet := by
  unfold Obligations.NoticesAreTakenAndWatchesSet
  refine ⟨fun s p ht => ⟨fun c hc => ?channel, fun h => ?system, fun h => takeBadArg _ ht (readFin_eq_none h)⟩,
    fun i s p ho hi => ⟨fun ht hm => ?set, fun ht => ⟨fun hc => ?fires, fun hc => ?waits⟩,
      fun ht => exec_disarmWatch ht ho hi, watchResult_eq i⟩⟩
  case channel =>
    rw [exec_takeNotices (n := ⟨c.val, by omega⟩) ht hc, takeNoticesBody_channel, takeChannelNotices, noticeBytes_eq]
    rfl
  case system =>
    rw [exec_takeNotices (n := 32) ht (by rw [h]; rfl), takeNoticesBody_system]
    cases hl : s.attn.linkErr <;> simp [takeSystemNotices, carried, State.mail, hl, byteOf, bit]
  case set =>
    exact ⟨watchOf p, exec_setWatch ht ho hi hm, rfl, rfl, rfl, watchOf_selects p, watchOf_states p⟩
  case fires => rw [exec_armWatch ht ho hi, hc]; rfl
  case waits => rw [exec_armWatch ht ho hi, hc]; rfl

end Sys2Proof.Machine
end

section
/-! The receivers (R52): every move of the call state leaves the service, the state and the assigned channel of each receiver
together, so every step does. -/

namespace Sys2Proof.Machine

/-! ### One receiver -/

theorem Receiver.freed_fits : Receiver.freed.fits := by simp [Receiver.fits, Receiver.freed, RxState.assigned]

theorem Receiver.retired_fits : Receiver.retired.fits := by simp [Receiver.fits, Receiver.retired, RxState.assigned]

/-- A receiver that is lent is in service, pending withdrawal or not (R52, R54). -/
theorem Receiver.lentTo_fits {x : Receiver} (c : Chan) (h : x.service ≠ .out) : (x.lentTo c).fits := by
  simp [Receiver.fits, Receiver.lentTo, RxState.assigned, h]

/-- The table of R52 asks of an assigned receiver only that it is not OUT and names a channel. -/
theorem Receiver.fits_of_assigned {x : Receiver} (hs : x.state.assigned = true) (hv : x.service ≠ .out)
    (ha : x.assigned.isSome = true) : x.fits := by
  refine ⟨fun h => ?_, fun h => ?_, fun _ => ⟨hv, ha⟩⟩ <;> simp [h, RxState.assigned] at hs

/-- The table of R52 reads the service, the state and the assigned channel alone. -/
theorem Receiver.fits_congr {x y : Receiver} (hv : y.service = x.service) (hs : y.state = x.state)
    (ha : y.assigned = x.assigned) (h : x.fits) : y.fits := by
  unfold Receiver.fits at h ⊢
  rwa [hv, hs, ha]

theorem Receiver.stopped_fits {x : Receiver} (h : x.fits) : x.stopped.fits := by
  unfold Receiver.stopped
  split
  · split
    · exact Receiver.freed_fits
    · exact Receiver.retired_fits
  · exact h

/-! ### Every receiver -/

/-- The table of R52 holds at every receiver of a call state. -/
def Calls.receiversLaw (k : Calls) : Prop := ∀ r, (k.rx r).fits

theorem Calls.receiversLaw_setRx {k : Calls} {r : RxIx} {x : Receiver} (hx : x.fits) (h : k.receiversLaw) :
    (k.setRx r x).receiversLaw := by
  intro q
  rw [Calls.rx_setRx]
  split
  · exact hx
  · exact h q

/-- Every move keeps the table of R52: a receiver lent was FREE or in service, and one at work keeps its channel. -/
theorem Move.keeps_receiversLaw {k l : Calls} (hm : Move k l) (h : k.receiversLaw) : l.receiversLaw := by
  cases hm with
  | lent r c hl =>
    refine Calls.receiversLaw_setRx (Receiver.lentTo_fits c ?_) h
    have hin : (k.rx r).service = .inService := hl.elim (fun hf => ((h r).1 hf).1) id
    simp [hin]
  | freed r => exact Calls.receiversLaw_setRx Receiver.freed_fits h
  | retired r => exact Calls.receiversLaw_setRx Receiver.retired_fits h
  | works r x was is same service =>
    obtain ⟨hout, hsome⟩ := (h r).2.2 was
    exact Calls.receiversLaw_setRx
      (Receiver.fits_of_assigned is (service.elim (fun he => he ▸ hout) id) (same ▸ hsome)) h
  | raise e n c => intro r; rw [Calls.rx_raise]; exact h r
  | _ => exact h

theorem Reach.keeps_receiversLaw {k l : Calls} (hr : Reach k l) (h : k.receiversLaw) : l.receiversLaw :=
  Reach.keeps (P := Calls.receiversLaw) (fun _ _ => Move.keeps_receiversLaw) hr h

/-- The law reads the receivers alone. -/
theorem State.receiversLaw_congr {s t : State} (hr : t.calls.receivers = s.calls.receivers) (h : s.receiversLaw) :
    t.receiversLaw := by
  intro r
  rw [Calls.rx, hr]
  exact h r

theorem State.configure_receivers (a : ConfigArgs) (s : State) : (s.configure a).calls.receivers = s.calls.receivers := by
  unfold State.configure
  dsimp only
  split
  · rfl
  · simp [State.reclassed]

theorem receiversLaw_kept : Kept State.receiversLaw where
  queue _ _ h := h
  tick s h r := by rw [State.tick_rx]; exact Receiver.fits_congr rfl rfl rfl (h r)
  reset _ _ r := by
    show (Calls.reset.rx r).fits
    rw [Calls.reset_rx]
    exact Receiver.freed_fits
  resetEnd s h := State.receiversLaw_congr (by simp) h
  event _ _ he h := he.moves.keeps_receiversLaw h
  badFrame s h := State.receiversLaw_congr (by simp) h
  completeFrame s o h := State.receiversLaw_congr (by simp) h
  highway _ _ h := h
  toneStep s x h := by unfold State.toneStep; dsimp only; split <;> exact h
  mail _ _ h := h
  data _ _ h := h
  attn _ _ _ h := h
  start s _ h := by
    intro r
    rw [startBody_calls]
    exact (Calls.takeUp_reach _ s.calls).keeps_receiversLaw h r
  stop s _ h := by intro r; rw [stopBody_calls, Calls.stopAll_rx]; exact Receiver.stopped_fits (h r)
  staged _ _ _ h := h
  apply s h := by unfold applyParamsBody; split <;> exact h
  mask _ _ h := h
  configure s a h := by
    unfold configureBody
    split
    · exact h
    · exact State.receiversLaw_congr (s.configure_receivers a) h
  entry s _ a _ h := by unfold writeEntryBody; split <;> exact h
  clear _ _ h := h
  group _ _ _ _ h := h
  setMembers s _ a _ h := by unfold setMembersBody; split <;> exact h
  addMember s a h := by
    unfold addMemberBody
    dsimp only
    split
    · exact h
    · split <;> exact h
  dropMember s a h := by unfold dropMemberBody; split <;> exact h
  notices s n h := by unfold takeNoticesBody; split <;> exact h

/-- Settles O55: the table of R52 at every receiver, after each move of the call state. -/
theorem everyStepKeepsTheReceiversLawful : Obligations.EveryStepKeepsTheReceiversLawful := by
  unfold Obligations.EveryStepKeepsTheReceiversLawful
  exact fun _ _ h => step_keeps receiversLaw_kept h

end Sys2Proof.Machine
end

section
/-! The detector's indications and the TONE_GAP_MIN expiry at a receiver (R61, R62, R63). -/

namespace Sys2Proof.Machine

section
variable {x : Receiver} {p : ParamSet} {d : Digit}

/-- An indication equal to the stored one, or at a receiver that is not assigned, changes nothing (R61). -/
theorem Receiver.indicate_unheard {ind : Option Digit} (h : x.state = .free ∨ x.state = .offline ∨ ind = x.indication) :
    x.indicate p ind = x := by
  unfold Receiver.indicate
  refine if_pos ?_
  rcases h with h | h | h
  · exact .inl (by rw [h]; rfl)
  · exact .inl (by rw [h]; rfl)
  · exact .inr h

/-- A digit new to the receiver begins a qualification (R62, R63). -/
theorem Receiver.indicate_new (hn : some d ≠ x.indication)
    (h : x.state = .quiet ∨ (x.state = .onset ∨ x.state = .digit ∨ x.state = .gap) ∧ x.current ≠ some d) :
    x.indicate p (some d) = { x with
      state := .onset, current := some d, indication := some d, timer := some (.toneOnMin, look p Param.toneOnMin) } := by
  rcases h with h | ⟨h | h | h, hc⟩
  · simp [Receiver.indicate, Receiver.toOnset, RxState.assigned, h, hn]
  all_goals simp [Receiver.indicate, Receiver.toOnset, RxState.assigned, h, hn, hc]

/-- The digit in qualification, or qualified, goes on (R62, R63). -/
theorem Receiver.indicate_goesOn (hn : some d ≠ x.indication) (h : x.state = .onset ∨ x.state = .digit)
    (hc : x.current = some d) : x.indicate p (some d) = { x with indication := some d } := by
  rcases h with h | h <;> simp [Receiver.indicate, RxState.assigned, h, hn, hc]

/-- The qualified digit comes back within its gap (R63). -/
theorem Receiver.indicate_back (hn : some d ≠ x.indication) (h : x.state = .gap) (hc : x.current = some d) :
    x.indicate p (some d) = { x with state := .digit, indication := some d, timer := none } := by
  simp [Receiver.indicate, RxState.assigned, h, hn, hc]

/-- With no tone to end, an absent indication is only stored. -/
theorem Receiver.indicate_absent (hn : x.indication ≠ none) (h : x.state = .quiet ∨ x.state = .gap) :
    x.indicate p none = { x with indication := none } := by
  rcases h with h | h <;> simp [Receiver.indicate, RxState.assigned, h, hn.symm]

/-- A tone that ends before it has qualified is forgotten (R62). -/
theorem Receiver.indicate_lost (hn : x.indication ≠ none) (h : x.state = .onset) :
    x.indicate p none = { x with state := .quiet, current := none, indication := none, timer := none } := by
  simp [Receiver.indicate, RxState.assigned, h, hn.symm]

/-- A qualified tone that ends begins its gap (R63). -/
theorem Receiver.indicate_ends (hn : x.indication ≠ none) (h : x.state = .digit) :
    x.indicate p none = { x with
      state := .gap, indication := none, timer := some (.toneGapMin, look p Param.toneGapMin) } := by
  simp [Receiver.indicate, RxState.assigned, h, hn.symm]

end

section
variable {s : State} {r : RxIx} {slot : Chan} {ind : Option Digit}

theorem exec_detectorIndication (hr : s.resetAsserted = false) :
    exec (.detectorIndication r ⟨slot, ind⟩) s = .next (s.indication r slot ind) := awake_on _ hr

/-- An indication for the channel assigned acts at the receiver alone (R61). -/
theorem exec_indication_to {x : Receiver} (hr : s.resetAsserted = false) (ha : (s.calls.rx r).assigned = some slot)
    (hx : (s.calls.rx r).indicate s.params.current ind = x) :
    exec (.detectorIndication r ⟨slot, ind⟩) s =
      .next { s with calls := { s.calls with receivers := put s.calls.receivers r x } } := by
  rw [exec_detectorIndication hr, State.indication, if_pos ha, hx, Calls.setRx]

/-- An indication that the receiver does not hear, or that is for another slot, changes nothing (R61). -/
theorem exec_indication_discarded (hr : s.resetAsserted = false)
    (h : (s.calls.rx r).state = .free ∨ (s.calls.rx r).state = .offline ∨ (s.calls.rx r).assigned ≠ some slot ∨
      ind = (s.calls.rx r).indication) : exec (.detectorIndication r ⟨slot, ind⟩) s = .next s := by
  by_cases ha : (s.calls.rx r).assigned = some slot
  · rw [exec_indication_to hr ha (Receiver.indicate_unheard (by simpa [ha] using h)), Calls.rx, put_look]
  · rw [exec_detectorIndication hr, State.indication, if_neg ha]

theorem exec_toneGapMinExpiry (hr : s.resetAsserted = false) (hs : (s.calls.rx r).state = .gap)
    (ht : (s.calls.rx r).timer = some (.toneGapMin, 0)) :
    exec (.toneGapMinExpiry r) s = .next { s with calls := { s.calls with
      receivers := put s.calls.receivers r { s.calls.rx r with state := .quiet, current := none, timer := none } } } := by
  have hdue : (s.calls.rx r).gapDue = true := by simp [Receiver.gapDue, hs, ht]
  simp only [exec, execToneGapMinExpiry, awake_on _ hr, hdue, if_true]
  rfl

end

/-- Settles O29: each clause by the indication's equation for the receiver's state. -/
theorem receiversFollowTheirTables : Obligations.ReceiversFollowTheirTables := by
  unfold Obligations.ReceiversFollowTheirTables
  intro r s hr
  refine ⟨fun slot ind => exec_indication_discarded hr, fun slot d ha hn => ⟨fun h => ?new, fun h hc => ?goesOn,
      fun h hc => ?back⟩, fun slot ha hn => ⟨fun h => ?absent, fun h => ?lost, fun h => ?ends⟩, exec_toneGapMinExpiry hr⟩
  case new => exact exec_indication_to hr ha (Receiver.indicate_new hn h)
  case goesOn => exact exec_indication_to hr ha (Receiver.indicate_goesOn hn h hc)
  case back => exact exec_indication_to hr ha (Receiver.indicate_back hn h hc)
  case absent => exact exec_indication_to hr ha (Receiver.indicate_absent hn h)
  case lost => exact exec_indication_to hr ha (Receiver.indicate_lost hn h)
  case ends => exact exec_indication_to hr ha (Receiver.indicate_ends hn h)

end Sys2Proof.Machine
end

section
/-! RECEIVER_SERVICE: a receiver withdrawn and put in service, and the receiver lent to the head of the wait queue (R58,
R59). -/

namespace Sys2Proof.Machine

theorem readService_eq_some {p : Params} {r : RxIx} (h0 : (look p 0).toNat = r) {b : Bool}
    (h1 : look p 1 = if b then 1 else 0) : readService p = some (r, b) := by
  unfold readService
  rw [readFin_eq_some h0, h1]
  cases b <;> rfl

/-- RECEIVER_SERVICE taken with good parameters: the event closes, and the result is the receiver's (R59). -/
theorem exec_receiverService {s : State} {p : Params} {r : RxIx} {b : Bool} {k : Calls} (ht : s.taking .receiverService p)
    (ho : s.op ≠ .stopping) (h0 : (look p 0).toNat = r) (h1 : look p 1 = if b then 1 else 0)
    (hk : (if b then s.calls.putInService s.env r else s.calls.withdraw r) = k) :
    exec .receiverService s = .next ((s.close k).mail (Mailbox.post .ok (receiverResult k r))) := by
  have hx := takeChecked receiverServiceBody ht (readService_eq_some h0 h1) (outsideStopping_of_ne ho)
  refine hx.trans ?_
  simp only [receiverServiceBody, hk, carried_state, carried_code, carried_bytes, State.close_calls]

section
variable {k : Calls} {r : RxIx}

/-! ### OUT -/

theorem Calls.withdraw_free (h : (k.rx r).state = .free) : k.withdraw r = k.setRx r .retired := by
  simp [Calls.withdraw, h]

theorem Calls.withdraw_offline (h : (k.rx r).state = .offline) : k.withdraw r = k := by simp [Calls.withdraw, h]

/-- A receiver that is lent leaves service when it is returned (R57, R59). -/
theorem Calls.withdraw_assigned (h : (k.rx r).state ∉ [RxState.free, .offline]) :
    k.withdraw r = k.setRx r { k.rx r with service := .withdrawPending } := by
  unfold Calls.withdraw
  split <;> simp_all

/-! ### IN -/

theorem Calls.putInService_free (e : Env) (h : (k.rx r).state = .free) : k.putInService e r = k := by
  simp [Calls.putInService, h]

theorem Calls.putInService_assigned (e : Env) (h : (k.rx r).state ∉ [RxState.free, .offline]) :
    k.putInService e r = k.setRx r { k.rx r with service := .inService } := by
  unfold Calls.putInService
  split <;> simp_all

/-- A receiver back in service is given as one that is returned (R58, R59). -/
theorem Calls.putInService_offline (e : Env) (h : (k.rx r).state = .offline) :
    k.putInService e r = (k.setRx r .freed).returnReceiver e r := by
  simp [Calls.putInService, h]

theorem Calls.returnReceiver_alone (e : Env) (hs : (k.rx r).service = .inService) (hq : k.rxQueue = []) :
    k.returnReceiver e r = k.setRx r .freed := by
  simp [Calls.returnReceiver, hs, hq]

theorem Calls.putInService_alone (e : Env) (h : (k.rx r).state = .offline) (hq : k.rxQueue = []) :
    k.putInService e r = k.setRx r .freed := by
  rw [Calls.putInService_offline e h, Calls.returnReceiver_alone (k := k.setRx r .freed) e (by rw [Calls.rx_setRx_self]; rfl) hq]
  simp [Calls.setRx]

end

/-- With channels waiting, the receiver is lent to their head (R58). -/
theorem State.putInService_lends {s : State} {r : RxIx} {h : Chan} {q : List Chan} (hs : (s.calls.rx r).state = .offline)
    (hq : s.calls.rxQueue = h :: q) :
    (s.calls.putInService s.env r).receivers = put s.calls.receivers r ⟨.inService, .quiet, some h, none, none, none⟩ ∧
      (s.calls.putInService s.env r).rxQueue = q ∧
      (s.calls.putInService s.env r).stands h { (s.calls.ses h).moved .collecting with
          receiver := some r, timer := s.timerOf .firstDigit Param.firstDigitTime }
        (.tone .dial) noOutput (s.noticesAt h) ∧
      (∀ d, d ≠ h → s.calls.sameAt d (s.calls.putInService s.env r)) ∧
      (s.calls.putInService s.env r).battQ = s.calls.battQ ∧
      (s.calls.putInService s.env r).groups = s.calls.groups ∧
      (s.calls.putInService s.env r).bridges = s.calls.bridges := by
  rw [Calls.putInService_offline _ hs]
  obtain ⟨-, -, lent⟩ := Calls.returnReceiver_back { s with calls := s.calls.setRx r .freed } r [] (s.calls.setRx r .freed)
    rfl rfl (fun d _ => Calls.sameAt_refl d _) (by simp)
  obtain ⟨receivers, queue, others, stands⟩ := lent h q (by simp [Receiver.freed]) hq
  exact ⟨receivers.trans (put_put ..), queue, stands, fun d hd => others d (by simpa using hd),
    Calls.returnReceiver_frame s.env r (s.calls.setRx r .freed)⟩

/-- Settles O30: OUT and IN, each by the receiver's state. -/
theorem receiverServiceFollowsItsTable : Obligations.ReceiverServiceFollowsItsTable := by
  unfold Obligations.ReceiverServiceFollowsItsTable
  intro r s p ht ho h0 h1
  rcases h1 with h1 | h1
  case inl =>
    have hin : look p 1 ≠ 1 := by rw [h1]; decide
    refine ⟨_, exec_receiverService ht ho h0 (b := false) h1 rfl, fun _ => Calls.withdraw_free,
      fun _ => Calls.withdraw_assigned, fun _ => Calls.withdraw_offline, fun h => absurd h hin,
      fun _ _ h => absurd h hin, fun h => absurd h hin, fun h => absurd h hin, ?_⟩
    rintro _ rfl
    rfl
  case inr =>
    have hout : look p 1 ≠ 0 := by rw [h1]; decide
    refine ⟨_, exec_receiverService ht ho h0 (b := true) h1 rfl, fun h => absurd h hout, fun h => absurd h hout,
      fun h => absurd h hout, fun _ => Calls.putInService_alone _, fun _ _ _ => State.putInService_lends,
      fun _ => Calls.putInService_assigned _, fun _ => Calls.putInService_free _, ?_⟩
    rintro _ rfl
    rfl

end Sys2Proof.Machine
end

section
/-! START: the stations taken up share the FREE receivers in their order, and the trunks taken up wait for the host or hunt
(R54, R68, R114, R171). -/

namespace Sys2Proof.Machine

/-! ### The FREE receivers -/

/-- The FREE receivers, in ascending number (R54). -/
def Calls.freeReceivers (k : Calls) : List RxIx := allReceivers.filter fun r => (k.rx r).state = .free

theorem Calls.mem_freeReceivers {k : Calls} {r : RxIx} : r ∈ k.freeReceivers ↔ (k.rx r).state = .free := by
  simp [Calls.freeReceivers, allReceivers]

theorem Calls.freeReceivers_congr {k l : Calls} (h : l.receivers = k.receivers) : l.freeReceivers = k.freeReceivers := by
  refine List.filter_congr fun r _ => ?_
  rw [Calls.rx, h]
  rfl

/-- The first of the FREE receivers is the lowest-numbered one, and stands once. -/
theorem Calls.freeReceivers_head {k : Calls} {r : RxIx} {fs : List RxIx} (h : k.freeReceivers = r :: fs) :
    (k.rx r).state = .free ∧ (∀ q < r, (k.rx q).state ≠ .free) ∧ r ∉ fs := by
  have hlt : ∀ q ∈ fs, r < q := by
    have hp : k.freeReceivers.Pairwise (· < ·) := (List.pairwise_lt_finRange 8).filter _
    rw [h] at hp
    exact (List.pairwise_cons.mp hp).1
  refine ⟨Calls.mem_freeReceivers.mp (h ▸ List.mem_cons_self), fun q hq hf => ?_, fun hr => lt_irrefl r (hlt r hr)⟩
  have hm : q ∈ r :: fs := h ▸ Calls.mem_freeReceivers.mpr hf
  rcases List.mem_cons.mp hm with rfl | hm
  · exact lt_irrefl _ hq
  · exact lt_asymm hq (hlt q hm)

/-- Without the first, which is lent, the others are FREE still. -/
theorem Calls.freeReceivers_lent {k l : Calls} {r : RxIx} {fs : List RxIx} (h : k.freeReceivers = r :: fs) {x : Receiver}
    (hx : x.state ≠ .free) (hl : l.receivers = put k.receivers r x) : l.freeReceivers = fs := by
  have hrx : ∀ q, l.rx q = if r = q then x else k.rx q := fun q => by rw [Calls.rx, hl, look_put]; rfl
  have hf : l.freeReceivers = k.freeReceivers.filter (· ≠ r) := by
    rw [Calls.freeReceivers, Calls.freeReceivers, List.filter_filter]
    refine List.filter_congr fun q _ => ?_
    rw [hrx]
    split
    · next e => simp [e.symm, hx]
    · next e => simp [Ne.symm e]
  obtain ⟨-, -, hr⟩ := Calls.freeReceivers_head h
  rw [hf, h, List.filter_cons_of_neg (by simp), List.filter_eq_self]
  exact fun q hq => by simpa using ne_of_mem_of_not_mem hq hr

/-! ### Stations that share the FREE receivers -/

/-- Station `c`, taken up as seized, collects with the receiver given, or without one (R54, R68). -/
def State.seizedTo (s : State) (c : Chan) (x : Option RxIx) (l : Calls) : Prop :=
  l.stands c { (s.calls.ses c).moved .collecting with
      receiver := x, timer := s.timerOf .firstDigit Param.firstDigitTime }
    (.tone .dial) noOutput (s.recorded [.seize] c)

/-- Station `c`, taken up as seized, waits for a receiver (R54, R55). -/
def State.seizedWaiting (s : State) (c : Chan) (l : Calls) : Prop :=
  l.stands c { (s.calls.ses c).moved .seized with timer := s.timerOf .rxWait Param.rxWaitNotice }
    .none noOutput (s.recorded [.seize] c)

theorem State.recorded_of_sameAt {s : State} {k : Calls} {c : Chan} (h : s.calls.sameAt c k) (ns : List Notice) :
    ({ s with calls := k } : State).recorded ns c = s.recorded ns c := by
  obtain ⟨⟨-, -, -, hn⟩, -⟩ := h
  simp only [State.recorded, hn]

theorem State.seizedTo_of_sameAt {s : State} {k l : Calls} {c : Chan} {x : Option RxIx} (h : s.calls.sameAt c k)
    (hc : ({ s with calls := k } : State).seizedTo c x l) : s.seizedTo c x l := by
  unfold State.seizedTo at hc ⊢
  rwa [State.recorded_of_sameAt h, h.1.1] at hc

theorem State.seizedWaiting_of_sameAt {s : State} {k l : Calls} {c : Chan} (h : s.calls.sameAt c k)
    (hc : ({ s with calls := k } : State).seizedWaiting c l) : s.seizedWaiting c l := by
  unfold State.seizedWaiting at hc ⊢
  rwa [State.recorded_of_sameAt h, h.1.1] at hc

/-- The stations `ds`, taken up as seized in their order, share the receivers `fs` in theirs: each has the receiver at its
own place, and those beyond the last receiver wait, in their order, behind the channels that waited (R54, R171). -/
structure State.Shared (s : State) (ds : List Chan) (fs : List RxIx) (l : Calls) : Prop where
  queue : l.rxQueue = s.calls.rxQueue ++ ds.drop fs.length
  lent : ∀ (i : Nat) (c : Chan) (r : RxIx), ds[i]? = some c → fs[i]? = some r →
    l.rx r = (s.calls.rx r).lentTo c ∧ s.seizedTo c (some r) l
  waits : ∀ (i : Nat) (c : Chan), ds[i]? = some c → fs[i]? = none → s.seizedWaiting c l
  rest : ∀ r, (∀ i, fs[i]? = some r → ds.length ≤ i) → l.rx r = s.calls.rx r

section
variable {s : State} {k l : Calls} {a : Chan} {ds : List Chan} {fs : List RxIx}

/-- Nobody has shared in anything yet. -/
theorem State.shared_nil (s : State) (fs : List RxIx) : s.Shared [] fs s.calls :=
  ⟨by simp, fun i c r h => by simp at h, fun i c h => by simp at h, fun _ _ => rfl⟩

/-- A station that takes no receiver leaves the others their shares. -/
theorem State.Shared.skip (h : ({ s with calls := k } : State).Shared ds fs l) (hp : s.calls.samePool k)
    (hs : ∀ c ∈ ds, s.calls.sameAt c k) : s.Shared ds fs l := by
  obtain ⟨hr, hq⟩ := hp
  have hrx : ∀ r, k.rx r = s.calls.rx r := fun r => by rw [Calls.rx, hr]; rfl
  refine ⟨h.queue.trans (by rw [hq]), fun i c r hc hf => ?_, fun i c hc hf => ?_, fun r hf => (h.rest r hf).trans (hrx r)⟩
  · obtain ⟨hl, hto⟩ := h.lent i c r hc hf
    exact ⟨hl.trans (by rw [hrx]), State.seizedTo_of_sameAt (hs c (List.mem_of_getElem? hc)) hto⟩
  · exact State.seizedWaiting_of_sameAt (hs c (List.mem_of_getElem? hc)) (h.waits i c hc hf)

/-- A station that takes the first receiver leaves the others the rest. -/
theorem State.Shared.take {r : RxIx} (h : ({ s with calls := k } : State).Shared ds fs l)
    (hq : k.rxQueue = s.calls.rxQueue) (hr : k.receivers = put s.calls.receivers r ((s.calls.rx r).lentTo a))
    (hs : ∀ c ∈ ds, s.calls.sameAt c k) (hn : r ∉ fs) (ha : s.seizedTo a (some r) l) : s.Shared (a :: ds) (r :: fs) l := by
  have hrx : ∀ q, q ≠ r → k.rx q = s.calls.rx q := fun q hne => by rw [Calls.rx, hr, look_put_ne _ _ _ _ hne.symm]; rfl
  have hlent : l.rx r = (s.calls.rx r).lentTo a :=
    (h.rest r fun i hf => absurd (List.mem_of_getElem? hf) hn).trans (by rw [Calls.rx, hr, look_put_self])
  refine ⟨h.queue.trans (by simp [hq]), fun i c q hc hf => ?lent, fun i c hc hf => ?waits, fun q hf => ?rest⟩
  case lent =>
    cases i with
    | zero =>
      obtain rfl : a = c := by simpa using hc
      obtain rfl : r = q := by simpa using hf
      exact ⟨hlent, ha⟩
    | succ i =>
      simp only [List.getElem?_cons_succ] at hc hf
      obtain ⟨hl, hto⟩ := h.lent i c q hc hf
      refine ⟨hl.trans ?_, State.seizedTo_of_sameAt (hs c (List.mem_of_getElem? hc)) hto⟩
      rw [hrx q (ne_of_mem_of_not_mem (List.mem_of_getElem? hf) hn)]
  case waits =>
    cases i with
    | zero => simp at hf
    | succ i =>
      simp only [List.getElem?_cons_succ] at hc hf
      exact State.seizedWaiting_of_sameAt (hs c (List.mem_of_getElem? hc)) (h.waits i c hc hf)
  case rest =>
    have hne : q ≠ r := by
      rintro rfl
      simpa using hf 0 rfl
    exact (h.rest q fun i hi => by simpa using hf (i + 1) hi).trans (hrx q hne)

/-- With no receiver left a station waits, before those that follow it. -/
theorem State.Shared.wait (h : ({ s with calls := k } : State).Shared ds [] l) (hq : k.rxQueue = s.calls.rxQueue ++ [a])
    (hr : k.receivers = s.calls.receivers) (hs : ∀ c ∈ ds, s.calls.sameAt c k) (ha : s.seizedWaiting a l) :
    s.Shared (a :: ds) [] l := by
  refine ⟨h.queue.trans (by simp [hq]), fun i c r _ hf => by simp at hf, fun i c hc _ => ?_,
    fun r _ => (h.rest r (by simp)).trans (by rw [Calls.rx, hr]; rfl)⟩
  cases i with
  | zero =>
    obtain rfl : a = c := by simpa using hc
    exact ha
  | succ i =>
    rw [List.getElem?_cons_succ] at hc
    exact State.seizedWaiting_of_sameAt (hs c (List.mem_of_getElem? hc)) (h.waits i c hc rfl)

end

/-- Stations taken up one after the other: those whose digit mode is not PULSE share the FREE receivers (R54, R171). -/
theorem State.seizures_shared {s : State} {l : List Chan} (hl : l.Nodup) :
    s.Shared (l.filter fun c => (s.calls.ses c).digitMode ≠ .pulse) s.calls.freeReceivers
      (l.foldl (fun k c => k.seizure s.env c) s.calls) := by
  induction l generalizing s with
  | nil => exact s.shared_nil _
  | cons a l ih =>
    rw [List.nodup_cons] at hl
    obtain ⟨others, -, -, -, pulse, lent, waits⟩ := s.seizure_dials a
    have hs : ∀ c ∈ l, s.calls.sameAt c (s.calls.seizure s.env a) := fun c hc =>
      others c (by simpa using ne_of_mem_of_not_mem hc hl.1)
    have hds : l.filter (fun c => ((s.calls.seizure s.env a).ses c).digitMode ≠ .pulse) =
        l.filter fun c => (s.calls.ses c).digitMode ≠ .pulse :=
      List.filter_congr fun c hc => by rw [(hs c hc).1.1]
    have hds' : ∀ c ∈ l.filter (fun c => (s.calls.ses c).digitMode ≠ .pulse),
        s.calls.sameAt c (s.calls.seizure s.env a) := fun c hc => hs c (List.mem_of_mem_filter hc)
    have next : ({ s with calls := s.calls.seizure s.env a } : State).Shared _ _ _ := ih hl.2
    rw [hds] at next
    have own := Calls.seizures_frame s.env l (s.calls.seizure s.env a) hl.1
    rw [List.foldl_cons]
    by_cases hm : (s.calls.ses a).digitMode = .pulse
    · obtain ⟨pool, -⟩ := pulse hm
      rw [Calls.freeReceivers_congr pool.1] at next
      rw [List.filter_cons_of_neg (by simp [hm])]
      exact next.skip pool hds'
    · rw [List.filter_cons_of_pos (by simpa using hm)]
      cases hf : s.calls.freeReceivers with
      | nil =>
        have hnone : ∀ r, (s.calls.rx r).state ≠ .free := fun r hr => by
          have := Calls.mem_freeReceivers.mpr hr
          simp [hf] at this
        obtain ⟨receivers, queue, stands⟩ := waits hm hnone
        rw [Calls.freeReceivers_congr receivers, hf] at next
        exact next.wait queue receivers hds' (Calls.stands_of_sameAt own stands)
      | cons r fs =>
        obtain ⟨hr, hlow, hn⟩ := Calls.freeReceivers_head hf
        obtain ⟨queue, receivers, stands⟩ := lent r hm hr hlow
        rw [Calls.freeReceivers_lent hf RxState.noConfusion receivers] at next
        exact next.take queue receivers hds' hn (Calls.stands_of_sameAt own stands)

theorem Calls.seizures_tables (e : Env) (l : List Chan) (k : Calls) :
    (l.foldl (fun k c => k.seizure e c) k).battQ = k.battQ ∧
      (l.foldl (fun k c => k.seizure e c) k).groups = k.groups ∧
      (l.foldl (fun k c => k.seizure e c) k).bridges = k.bridges := by
  induction l generalizing k with
  | nil => exact ⟨rfl, rfl, rfl⟩
  | cons c l ih =>
    obtain ⟨batt, groups, bridges⟩ := ih (k.seizure e c)
    obtain ⟨-, batt', groups', bridges'⟩ := Calls.startDialling_frame e c (k.raise e .seize c)
    exact ⟨batt.trans (batt'.trans (Calls.raise_battQ ..)), groups.trans (groups'.trans (Calls.raise_groups ..)),
      bridges.trans (bridges'.trans (Calls.raise_bridges ..))⟩

/-! ### Trunks -/

section
variable {s : State} {k : Calls} {t : Chan}

/-- An incoming call on a trunk with no answer group, which stands as in `s`: it waits for the host (R114). -/
theorem State.incomingCall_waits_at (hk : s.calls.sameAt t k) (hc : (s.calls.ses t).cls = .trunk)
    (hg : (s.calls.ses t).answerGroup = none) : k.onlyAt [t] (k.incomingCall s.env t) ∧
      (k.incomingCall s.env t).stands t ((s.calls.ses t).moved .hostwait) .none ⟨false, (s.calls.levels t).loop⟩
        (s.recorded [.ringin] t) := by
  have hrec := State.recorded_of_sameAt hk [.ringin]
  obtain ⟨⟨hses, -, hlev, -⟩, -⟩ := hk
  rw [← hses] at hc hg
  obtain ⟨only, stands⟩ := State.incomingCall_waits (s := { s with calls := k }) hc hg
  rw [hrec, hses, hlev] at stands
  exact ⟨only, stands⟩

/-- Trunks with no answer group, taken up one after the other, wait for the host (R114, R171). -/
theorem State.incomingCalls_wait {l : List Chan} (hl : l.Nodup) (hk : ∀ t ∈ l, s.calls.sameAt t k)
    (ht : ∀ t ∈ l, (s.calls.ses t).cls = .trunk ∧ (s.calls.ses t).answerGroup = none) :
    k.onlyAt l (l.foldl (fun k t => k.incomingCall s.env t) k) ∧
      ∀ t ∈ l, (l.foldl (fun k t => k.incomingCall s.env t) k).stands t ((s.calls.ses t).moved .hostwait) .none
        ⟨false, (s.calls.levels t).loop⟩ (s.recorded [.ringin] t) := by
  induction l generalizing k with
  | nil => exact ⟨Calls.onlyAt_refl [] _, by simp⟩
  | cons a l ih =>
    rw [List.nodup_cons] at hl
    obtain ⟨hcls, hnone⟩ := ht a List.mem_cons_self
    obtain ⟨only, stands⟩ := State.incomingCall_waits_at (hk a List.mem_cons_self) hcls hnone
    obtain ⟨only', stands'⟩ := ih hl.2
      (fun t h => Calls.sameAt_trans (hk t (List.mem_cons_of_mem a h))
        (only.1 t (by simpa using ne_of_mem_of_not_mem h hl.1)))
      fun t h => ht t (List.mem_cons_of_mem a h)
    refine ⟨Calls.onlyAt_trans (only.mono (by simp)) (only'.mono (by simp)), fun t h => ?_⟩
    rcases List.mem_cons.mp h with rfl | h
    · exact Calls.stands_of_sameAt (only'.1 t hl.1) stands
    · exact stands' t h

/-- An incoming call on a trunk with an answer group, which stands as in `s`: it hunts from its own record, with RINGIN
raised on it and a new attempt begun (R114). -/
theorem State.incomingCall_hunts {g : GroupIx} (hk : s.calls.sameAt t k) (hg : (s.calls.ses t).answerGroup = some g) :
    ∃ k1, k.onlyAt [t] k1 ∧
      k1.stands t { s.calls.ses t with tried := 0, curGroup := none } (look s.calls.listen t) (s.calls.levels t)
        (s.recorded [.ringin] t) ∧
      k.incomingCall s.env t = k1.hunt s.env huntFuel g t := by
  obtain ⟨⟨hses, hlis, hlev, hnot⟩, -⟩ := hk
  refine ⟨(k.raise s.env .ringin t).newAttempt t,
    Calls.onlyAt_trans (Calls.onlyAt_raise (by simp) ..) (Calls.onlyAt_alter (by simp) ..), ⟨?_, ?_, ?_, ?_⟩, ?_⟩
  · simp [Calls.newAttempt, hses]
  · simp [Calls.newAttempt, hlis]
  · simp [Calls.newAttempt, hlev]
  · exact Calls.notices_raise_self s s.env rfl .ringin t k hnot
  · simp [Calls.incomingCall, hses, hg, Calls.huntFresh]

end

/-! ### The statement -/

theorem Calls.offHookStations_eq (e : Env) (k : Calls) : k.offHookStations e =
    (List.finRange 32).filter (fun c => (k.ses c).cls = .station ∧ (k.ses c).state = .idle ∧
      ((look e.loopQ c).state = .offhook ∨ (look e.loopQ c).state = .openTiming)) := by
  refine List.filter_congr fun c _ => ?_
  rw [Bool.eq_iff_iff]
  simp [and_assoc]

theorem Calls.ringingTrunks_eq (e : Env) (k : Calls) : k.ringingTrunks e =
    (List.finRange 32).filter (fun c => (k.ses c).cls = .trunk ∧ (k.ses c).state = .idle ∧
      (look e.ringQ c).state = .inBurst) := by
  refine List.filter_congr fun c _ => ?_
  rw [Bool.eq_iff_iff]
  simp [and_assoc]

/-- START taken in CONFIG: RUN, the records taken up, and the two counts (R171). -/
theorem exec_start {s r : State} {p : Params} (ht : s.taking .start p) (ho : s.op = .config)
    (hr : r = { s with op := .run }) : exec .start s = .next ((r.close (s.calls.takeUp r.env)).mail (Mailbox.post .ok
      [1, byteOf (s.calls.offHookStations r.env).length, byteOf (s.calls.ringingTrunks r.env).length])) := by
  subst hr
  refine (takeChecked startBody ht (a := ()) rfl (by rw [ho]; rfl)).trans ?_
  simp only [startBody, carried_state, carried_code, carried_bytes, State.close_op]
  rfl

/-- Settles O45: the stations by their shares of the FREE receivers, then the trunks. -/
theorem startEntersRun : Obligations.StartEntersRun := by
  unfold Obligations.StartEntersRun
  intro s p stations dialling trunks free ht ho hstations hdialling htrunks hfree
  obtain ⟨r, hr⟩ : ∃ r : State, r = { s with op := .run } := ⟨_, rfl⟩
  have hx := exec_start ht ho hr
  have hcalls : r.calls = s.calls := by rw [hr]
  have hst : s.calls.offHookStations r.env = stations := by rw [Calls.offHookStations_eq, hstations, hr]; rfl
  have htr : s.calls.ringingTrunks r.env = trunks := by rw [Calls.ringingTrunks_eq, htrunks, hr]; rfl
  have hnodup : stations.Nodup := hst ▸ Calls.offHookStations_nodup r.env s.calls
  have htrunk : ∀ t ∈ trunks, (s.calls.ses t).cls = .trunk := fun t h =>
    (Calls.mem_ringingTrunks r.env s.calls t (htr ▸ h)).1
  have hapart : ∀ t ∈ trunks, t ∉ stations := fun t h hs => by
    have hcls := (Calls.mem_offHookStations r.env s.calls t (hst ▸ hs)).1
    rw [htrunk t h] at hcls
    cases hcls
  obtain ⟨k0, hk0⟩ : ∃ k, k = stations.foldl (fun k c => k.seizure r.env c) s.calls := ⟨_, rfl⟩
  obtain ⟨k, hk⟩ : ∃ k, k = trunks.foldl (fun k t => k.incomingCall r.env t) k0 := ⟨_, rfl⟩
  have hup : s.calls.takeUp r.env = k := by rw [Calls.takeUp, hst, htr, ← hk0, ← hk]
  have shared : s.Shared dialling free k0 := by
    have h := State.seizures_shared (s := r) hnodup
    subst hr hk0 hdialling hfree
    exact ⟨h.queue, h.lent, h.waits, h.rest⟩
  have others : ∀ c, c ∉ stations → s.calls.sameAt c k0 := fun c hc => hk0 ▸ Calls.seizures_frame r.env _ s.calls hc
  obtain ⟨batt, groups, bridges⟩ := Calls.seizures_tables r.env stations s.calls
  rw [← hk0] at batt groups bridges
  rw [hst, htr, hup] at hx
  subst hr
  refine ⟨k0, k, hx, others, batt, groups, bridges, shared.queue, fun c hc hm => ?pulse, fun i c hc => ⟨fun q hq => ?lent,
    shared.waits i c hc⟩, shared.rest, fun h => ?none, fun hw => ?wait, fun t g ht' hg => ?hunt⟩
  case pulse => exact hk0 ▸ Calls.seizures_pulse s _ rfl rfl stations hnodup c hc s.calls hm rfl
  case lent => exact shared.lent i c q hc hq
  case none => rw [hk, h]; rfl
  case wait =>
    obtain ⟨⟨same, batt', pool, groups', bridges'⟩, stands⟩ := State.incomingCalls_wait (s := { s with op := .run })
      (htr ▸ Calls.ringingTrunks_nodup _ s.calls) (fun t h => others t (hapart t h)) fun t h => ⟨htrunk t h, hw t h⟩
    rw [hk]
    exact ⟨same, batt'.trans batt, pool, groups'.trans groups, bridges'.trans bridges, stands⟩
  case hunt =>
    subst ht'
    obtain ⟨k1, only, stands, hunts⟩ := State.incomingCall_hunts (s := { s with op := .run })
      (others t (hapart t (List.mem_singleton_self t))) hg
    exact ⟨k1, only, stands, hk.trans hunts⟩

end Sys2Proof.Machine
end

section
/-! The digit lists (R71): no operation but the taking of a digit makes a list longer, and a list that a digit fills is no
longer open, since no lawful pattern is longer than 12 symbols. -/

namespace Sys2Proof.Machine

/-- Every digit list holds at most 12 digits, and fewer while its collection is open; the open list of `x`, if any channel
is named, may be full. -/
structure Calls.Short (k : Calls) (x : Option Chan) : Prop where
  all : ∀ c, (k.ses c).digits.length ≤ 12
  unfilled : ∀ c, (k.ses c).state = .collecting → x ≠ some c → (k.ses c).digits.length < 12

theorem State.digitsLaw_iff (s : State) : s.digitsLaw ↔ s.calls.Short none :=
  ⟨fun h => ⟨fun c => (h c).1, fun c hs _ => (h c).2 hs⟩, fun h c => ⟨h.all c, fun hs => h.unfilled c hs nofun⟩⟩

section

variable {k l : Calls} {x : Option Chan} {c d o : Chan}

/-! ### Updates -/

theorem Calls.Short.loosen (h : k.Short none) (x : Option Chan) : k.Short x :=
  ⟨h.all, fun c hs _ => h.unfilled c hs nofun⟩

/-- A list whose collection has ended may be full. -/
theorem Calls.Short.tighten (h : k.Short (some c)) (hs : (k.ses c).state = .collecting → (k.ses c).digits.length < 12) :
    k.Short none := by
  refine ⟨h.all, fun d hd _ => ?_⟩
  by_cases e : c = d
  · exact e ▸ hs (e ▸ hd)
  · exact h.unfilled d hd (by simpa using e)

/-- The lists and the states are all that is read. -/
theorem Calls.Short.congr (h : k.Short x) (hd : ∀ c, (l.ses c).digits = (k.ses c).digits)
    (hs : ∀ c, (l.ses c).state = (k.ses c).state) : l.Short x :=
  ⟨fun c => by rw [hd]; exact h.all c, fun c => by rw [hd, hs]; exact h.unfilled c⟩

theorem Calls.Short.same (h : k.Short x) (hs : l.sessions = k.sessions := by rfl) : l.Short x :=
  h.congr (fun c => by rw [Calls.ses, hs, Calls.ses]) fun c => by rw [Calls.ses, hs, Calls.ses]

/-- A record changed in neither its list nor its state. -/
theorem Calls.Short.alter {f : Session → Session} (h : k.Short x)
    (hd : (f (k.ses c)).digits = (k.ses c).digits := by rfl) (hs : (f (k.ses c)).state = (k.ses c).state := by rfl) :
    (k.alter c f).Short x :=
  h.congr (fun a => by rw [Calls.ses_alter]; split <;> simp_all) fun a => by rw [Calls.ses_alter]; split <;> simp_all

theorem Session.moved_digits (r : Session) (st : SState) :
    (r.moved st).digits = if st = .collecting ∨ st = .idle then [] else r.digits := rfl

/-- A list begins empty, and stands when its channel enters another state than COLLECTING and IDLE (R3, R68): the list of
the channel that enters is short in its new state even if it was full. -/
theorem Calls.Short.enters {st : SState} {f : Session → Session} {y : Option Chan} (h : k.Short x)
    (hy : y = x ∨ x = some c) (hd : (f ((k.ses c).moved st)).digits = ((k.ses c).moved st).digits)
    (hs : (f ((k.ses c).moved st)).state = st) : (k.enter c st f).Short y := by
  have own : (f ((k.ses c).moved st)).digits = [] ∨
      st ≠ .collecting ∧ (f ((k.ses c).moved st)).digits = (k.ses c).digits := by
    rw [hd, Session.moved_digits]
    split
    · exact .inl rfl
    · next hn => exact .inr ⟨fun hc => hn (.inl hc), rfl⟩
  refine ⟨fun a => ?_, fun a => ?_⟩ <;> by_cases e : c = a
  · subst e
    rw [Calls.ses_enter_self]
    rcases own with h0 | ⟨-, h1⟩
    · simp [h0]
    · rw [h1]
      exact h.all c
  · rw [Calls.ses_enter_ne _ _ _ _ _ e]
    exact h.all a
  · subst e
    rw [Calls.ses_enter_self, hs]
    rcases own with h0 | ⟨h1, -⟩
    · simp [h0]
    · exact fun hc => absurd hc h1
  · rw [Calls.ses_enter_ne _ _ _ _ _ e]
    refine fun hc hya => h.unfilled a hc ?_
    rcases hy with rfl | rfl
    · exact hya
    · simpa using e

theorem Calls.Short.enter {st : SState} {f : Session → Session} (h : k.Short x)
    (hd : (f ((k.ses c).moved st)).digits = ((k.ses c).moved st).digits := by rfl)
    (hs : (f ((k.ses c).moved st)).state = st := by rfl) : (k.enter c st f).Short x := h.enters (.inl rfl) hd hs

/-- The channel whose open list may be full enters its next state. -/
theorem Calls.Short.leave {st : SState} {f : Session → Session} (h : k.Short (some c))
    (hd : (f ((k.ses c).moved st)).digits = ((k.ses c).moved st).digits := by rfl)
    (hs : (f ((k.ses c).moved st)).state = st := by rfl) : (k.enter c st f).Short none := h.enters (.inr rfl) hd hs

theorem Calls.Short.fold {α : Type} {op : Calls → α → Calls} (h : k.Short x)
    (hop : ∀ k a, Calls.Short k x → (op k a).Short x) (as : List α) : (as.foldl op k).Short x := by
  induction as generalizing k with
  | nil => exact h
  | cons a as ih => exact ih (hop k a h)

theorem Calls.Short.raise (h : k.Short x) (e : Env) (n : Notice) (c : Chan) : (k.raise e n c).Short x := h.same (by simp)

theorem Calls.Short.setOut (h : k.Short x) (c : Chan) (v : Levels) : (k.setOut c v).Short x := h.same

theorem Calls.Short.setBatt (h : k.Short x) (c : Chan) (q : BattQual) : (k.setBatt c q).Short x := h.same

theorem Calls.Short.setMembers (h : k.Short x) (b : BridgeIx) (m : List Chan) : (k.setMembers b m).Short x := h.same

theorem Calls.Short.toIdle (h : k.Short x) (c : Chan) : (k.toIdle c).Short x := h.enter

theorem Calls.Short.toReleasing (h : k.Short x) (e : Env) (c : Chan) : (k.toReleasing e c).Short x := h.enter

theorem Calls.Short.toToneout (h : k.Short x) (e : Env) (t : ToneOut) (c : Chan) : (k.toToneout e t c).Short x :=
  h.enter

theorem Calls.Short.toLockout (h : k.Short x) (c : Chan) : (k.toLockout c).Short x := h.enter

theorem Calls.Short.toHostwait (h : k.Short x) (c : Chan) : (k.toHostwait c).Short x := h.enter

theorem Calls.Short.toHostwaitAnswered (h : k.Short x) (c : Chan) : (k.toHostwaitAnswered c).Short x :=
  (h.toHostwait c).same rfl

theorem Calls.Short.toTalk (h : k.Short x) (c p : Chan) : (k.toTalk c p).Short x := h.enter

theorem Calls.Short.pair (h : k.Short x) (a b : Chan) : (k.pair a b).Short x := (h.toTalk a b).toTalk b a

theorem Calls.Short.toConfer (h : k.Short x) (c : Chan) (b : BridgeIx) : (k.toConfer c b).Short x := h.enter

theorem Calls.Short.dropPartner (h : k.Short x) (e : Env) (p : Chan) : (k.dropPartner e p).Short x := by
  unfold Calls.dropPartner
  split
  · exact h.toReleasing e p
  · exact h.toToneout e _ p

theorem Calls.Short.clearRinging (h : k.Short x) (o : Chan) : (k.clearRinging o).Short x :=
  (h.fold (fun _ d h => h.toIdle d) _).alter

/-! ### Receivers and bridges -/

theorem Calls.Short.startCollecting (h : k.Short x) (e : Env) (c : Chan) (r : Option RxIx) :
    (k.startCollecting e c r).Short x := h.enter

theorem Calls.Short.lend (h : k.Short x) (e : Env) (r : RxIx) (c : Chan) : (k.lend e r c).Short x :=
  (h.same : (k.setRx r ((k.rx r).lentTo c)).Short x).startCollecting ..

theorem Calls.Short.startDialling (h : k.Short x) (e : Env) (c : Chan) : (k.startDialling e c).Short x := by
  have hr : (k.requestReceiver e c).Short x := by
    unfold Calls.requestReceiver
    split
    · exact h.lend ..
    · exact (h.same : Calls.Short { k with rxQueue := k.rxQueue ++ [c] } x).enter
  unfold Calls.startDialling
  split
  · exact h.startCollecting ..
  · exact hr
  · exact hr

theorem Calls.Short.seizure (h : k.Short x) (e : Env) (c : Chan) : (k.seizure e c).Short x :=
  (h.raise e .seize c).startDialling ..

theorem Calls.Short.returnReceiver (h : k.Short x) (e : Env) (r : RxIx) : (k.returnReceiver e r).Short x := by
  unfold Calls.returnReceiver
  split
  · exact h.same
  · exact h.same
  · split
    · next q _ => exact (h.same : Calls.Short { k with rxQueue := q } x).lend ..
    · exact h.same

theorem Calls.Short.freeHolder (h : k.Short x) (c : Chan) : (k.freeHolder c).Short x := by
  unfold Calls.freeHolder
  split
  · exact h.alter
  · exact h

theorem Calls.Short.formBridge (h : k.Short x) (b : BridgeIx) (ch a p : Chan) : (k.formBridge b ch a p).Short x :=
  ((((h.setMembers ..).alter).toConfer ..).toConfer ..).toConfer ..

theorem Calls.Short.joinBridge (h : k.Short x) (b : BridgeIx) (c : Chan) : (k.joinBridge b c).Short x := by
  unfold Calls.joinBridge
  refine Calls.Short.toConfer (Calls.Short.setMembers ?_ ..) c b
  split
  · exact h.freeHolder c
  · exact h

theorem Calls.Short.leaveBridge (h : k.Short x) (c : Chan) : (k.leaveBridge c).Short x := by
  unfold Calls.leaveBridge
  split
  · exact h
  · split
    · exact (h.setMembers ..).pair ..
    · exact h.setMembers ..

/-! ### Placement: the originator's own list may be full until it enters its next state -/

theorem Calls.Short.ring (h : k.Short (some o)) (e : Env) (d : Chan) : (k.ring e o d).Short none := by
  unfold Calls.ring
  refine Calls.Short.setOut (Calls.Short.enter ?_) ..
  split
  · next hr =>
    refine Calls.Short.alter (h.tighten fun hs => ?_)
    simp [hs, SState.rings] at hr
  · exact h.leave

theorem Calls.Short.seizeTrunk (h : k.Short (some o)) (e : Env) (t : Chan) : (k.seizeTrunk e o t).Short none := by
  rw [Calls.seizeTrunk_eq]
  exact Calls.Short.leave (Calls.Short.setBatt (Calls.Short.enter h) ..)

theorem Calls.Short.placeOn (h : k.Short (some o)) (e : Env) (m : Chan) : (k.placeOn e o m).Short none := by
  unfold Calls.placeOn
  split
  · exact h.seizeTrunk e m
  · exact h.ring e m

theorem Calls.Short.busyOutcome (h : k.Short (some o)) (e : Env) : (k.busyOutcome e o).Short none := by
  unfold Calls.busyOutcome
  refine Calls.Short.raise ?_ ..
  split
  · exact h.leave
  · exact h.leave

theorem Calls.Short.joinQueue (h : k.Short (some o)) (g : GroupIx) : (k.joinQueue g o).Short none :=
  (h.same : (k.alterGroup g fun y => { y with queue := y.queue ++ [o] }).Short _).leave

theorem Calls.Short.choose (h : k.Short (some o)) {e : Env} {g : GroupIx} {cands : List Chan}
    (hl : k.choose e g o cands = some l) : l.Short none := by
  unfold Calls.choose at hl
  split at hl
  · obtain ⟨m, -, rfl⟩ := Option.map_eq_some_iff.mp hl
    exact h.placeOn e m
  · obtain ⟨m, -, rfl⟩ := Option.map_eq_some_iff.mp hl
    exact (h.same : (k.alterGroup g _).Short _).placeOn e m
  · split at hl
    · cases hl
    · cases hl
      cases hc : cands.filter (k.eligible .all o) with
      | nil => contradiction
      | cons m ms => exact (h.ring e m).fold (fun _ d h => (h.loosen _).ring e d) ms

theorem Calls.Short.hunt (h : k.Short (some o)) (e : Env) (n : Nat) (g : GroupIx) : (k.hunt e n g o).Short none := by
  induction n generalizing g k with
  | zero => exact h.busyOutcome e
  | succ n ih =>
    have hm : (k.markGroup g o).Short (some o) := h.alter
    unfold Calls.hunt
    dsimp only
    split
    · next hc => exact hm.choose hc
    · split
      · exact hm.joinQueue g
      · exact ih hm _
      · exact hm.busyOutcome e

theorem Calls.Short.newAttempt (h : k.Short x) (o : Chan) : (k.newAttempt o).Short x := h.alter

theorem Calls.Short.huntFresh (h : k.Short (some o)) (e : Env) (g : GroupIx) : (k.huntFresh e g o).Short none :=
  (h.newAttempt o).hunt ..

theorem Calls.Short.placeDirect (h : k.Short (some o)) (e : Env) (d : Chan) : (k.placeDirect e o d).Short none := by
  unfold Calls.placeDirect
  dsimp only
  split
  · exact (h.newAttempt o).ring e d
  · split
    · exact (h.newAttempt o).busyOutcome e
    · exact (h.newAttempt o).seizeTrunk e d
  · exact (h.newAttempt o).busyOutcome e

theorem Calls.Short.incomingCall (h : k.Short none) (e : Env) (t : Chan) : (k.incomingCall e t).Short none := by
  unfold Calls.incomingCall
  dsimp only
  split
  · exact (h.raise ..).toHostwait t
  · exact ((h.raise ..).loosen _).huntFresh e _

/-! ### Entering IDLE -/

theorem Calls.Short.lineCheck (h : k.Short none) (e : Env) (c : Chan) : (k.lineCheck e c).Short none := by
  unfold Calls.lineCheck
  split
  · split
    · exact h.seizure e c
    · exact h.seizure e c
    · exact h
    · exact h
  · split
    · exact h.incomingCall e c
    · exact h
  · exact h

theorem Calls.Short.freePath (h : k.Short none) (e : Env) (c : Chan) : (k.freePath e c).Short none := by
  unfold Calls.freePath Calls.serveQueue
  split
  · split
    · exact ((h.same : (k.alterGroup _ _).Short none).loosen _).placeOn e c
    · exact h
  · exact h

theorem Calls.Short.afterIdle (h : k.Short none) (e : Env) (c : Chan) : (k.afterIdle e c).Short none := by
  unfold Calls.afterIdle
  dsimp only
  split
  · split
    · exact (h.lineCheck e c).freePath e c
    · exact h.lineCheck e c
  · exact h

theorem Calls.Short.idleStages (h : k.Short none) (e : Env) (cs : List Chan) : (k.idleStages e cs).Short none := by
  unfold Calls.idleStages
  split
  · exact h.fold (fun _ c h => h.afterIdle e c) cs
  · exact h

theorem Calls.Short.enterIdle (h : k.Short none) (e : Env) (c : Chan) : (k.enterIdle e c).Short none :=
  (h.toIdle c).idleStages ..

/-! ### The ends of a placement -/

theorem Calls.Short.ringOutputs (h : k.Short x) (o : Chan) (on : Bool) : (k.ringOutputs o on).Short x :=
  h.same (by rw [Calls.ringOutputs_out])

theorem Calls.Short.noAnswer (h : k.Short none) (e : Env) (o : Chan) : (k.noAnswer e o).Short none := by
  have h0 := h.raise e .noanswer o
  unfold Calls.noAnswer
  dsimp only
  split
  · exact (((h0.clearRinging o).loosen _).hunt e _ _).idleStages ..
  · split
    · split
      · exact h0.toHostwait o
      · exact (h0.alter).ringOutputs ..
    · exact ((h0.clearRinging o).toToneout ..).idleStages ..

theorem Calls.Short.answer (h : k.Short none) (e : Env) (d o : Chan) : (k.answer e d o).Short none :=
  (((h.pair d o).raise ..).fold (fun _ c h => h.toIdle c) _).idleStages ..

theorem Calls.Short.continueHunt (h : k.Short (some o)) (e : Env) (t : Chan) : (k.continueHunt e t o).Short none := by
  unfold Calls.continueHunt
  split
  · exact h.busyOutcome e
  · split
    · next hc => exact h.choose hc
    · split
      · exact h.joinQueue _
      · exact h.hunt ..
      · exact h.busyOutcome e

theorem Calls.Short.seizeFailed (h : k.Short none) (e : Env) (t : Chan) : (k.seizeFailed e t).Short none := by
  have h1 : ((k.enter t .blocked id).raise e .trunkfault t).Short none := (h.enter).raise ..
  unfold Calls.seizeFailed
  dsimp only
  split
  · exact (h1.loosen _).continueHunt e t
  · exact h1

theorem Calls.Short.cutThrough (h : k.Short x) (t : Chan) : (k.cutThrough t).Short x := by
  unfold Calls.cutThrough
  split
  · exact h.pair ..
  · exact h

theorem Calls.Short.cadence (h : k.Short none) (e : Env) (o : Chan) : (k.cadence e o).Short none := by
  unfold Calls.cadence
  split
  · exact (h.alter).ringOutputs ..
  · have h1 : (k.alter o fun r => { r with cycles := min ((k.ses o).cycles + 1) 15 }).Short none := h.alter
    dsimp only
    split
    · exact h1.noAnswer e o
    · exact (h1.alter).ringOutputs ..

theorem Calls.Short.queueOut (h : k.Short none) (e : Env) (o : Chan) : (k.queueOut e o).Short none := by
  have h1 : ((k.leaveQueues o).raise e .queueout o).Short (some o) :=
    ((h.same : (k.leaveQueues o).Short none).raise ..).loosen _
  unfold Calls.queueOut
  dsimp only
  split
  · exact h1.busyOutcome e
  · split
    · exact h1.hunt ..
    · exact h1.busyOutcome e
    · exact h1.busyOutcome e

/-! ### Release, hold and transfer -/

theorem Calls.Short.giveUp (h : k.Short x) (e : Env) (c : Chan) : (k.giveUp e c).Short x := by
  unfold Calls.giveUp
  split
  · exact h.same
  · split
    · exact (h.alter).returnReceiver ..
    · exact h
  · exact h.clearRinging c
  · exact h.clearRinging c
  · split
    · exact (h.alter).toReleasing ..
    · exact h
  · exact h.same
  · split
    · exact (h.alter).dropPartner ..
    · exact h
  · exact h.freeHolder c
  · exact h.leaveBridge c
  · split
    · exact (h.alter).toToneout ..
    · exact h
  all_goals exact h

theorem Calls.Short.passRinging (h : k.Short x) (c p : Chan) : (k.passRinging c p).Short x := by
  unfold Calls.passRinging
  refine Calls.Short.alter (Calls.Short.enter ?_ rfl rfl) rfl rfl
  exact h.fold (fun _ _ h => h.alter) _

theorem Calls.Short.passTrunk (h : k.Short x) (c p t : Chan) : (k.passTrunk c p t).Short x := by
  unfold Calls.passTrunk
  exact Calls.Short.alter (Calls.Short.enter (Calls.Short.alter h))

theorem Calls.Short.passQueue (h : k.Short x) (c p : Chan) : (k.passQueue c p).Short x := by
  unfold Calls.passQueue
  exact Calls.Short.alter (Calls.Short.enter (h.same) rfl rfl) rfl rfl

theorem Calls.Short.partHeld (h : k.Short x) (e : Env) (park : Bool) (p : Chan) : (k.partHeld e park p).Short x := by
  unfold Calls.partHeld
  split
  · exact (h.toHostwaitAnswered p).raise ..
  · exact h.dropPartner e p

theorem Calls.Short.handOn (h : k.Short x) (e : Env) (park : Bool) (c p : Chan) : (k.handOn e park c p).Short x := by
  have h0 : (k.alter c fun r => { r with holds := none }).Short x := h.alter
  unfold Calls.handOn
  dsimp only
  split
  · split
    · exact ((h0.alter).pair ..).raise ..
    · exact h0.partHeld ..
  · refine Calls.Short.raise ?_ ..
    split
    · exact h0.toHostwaitAnswered p
    · exact h0.passRinging ..
  · split
    · refine Calls.Short.raise ?_ ..
      split
      · exact h0.toHostwaitAnswered p
      · exact h0.passTrunk ..
    · exact h0.partHeld ..
  · refine Calls.Short.raise ?_ ..
    split
    · exact h0.toHostwaitAnswered p
    · exact h0.passQueue ..
  all_goals exact h0.partHeld ..

theorem Calls.Short.unwind (h : k.Short none) (e : Env) (park : Bool) (c : Chan) {last : Calls → Calls}
    (hl : ∀ k, Calls.Short k none → (last k).Short none) : (k.unwind e park c last).Short none := by
  have h1 : (k.handOnHeld e park c).Short none := by
    unfold Calls.handOnHeld
    split
    · exact h.handOn ..
    · exact h
  exact (hl _ (h1.giveUp e c)).idleStages ..

theorem Calls.Short.release (h : k.Short none) (e : Env) (c : Chan) : (k.release e c).Short none :=
  h.unwind e false c fun _ h => (h.toReleasing e c).raise ..

theorem Calls.Short.abandon (h : k.Short none) (e : Env) (c : Chan) : (k.abandon e c).Short none :=
  (((h.giveUp e c).toReleasing e c).raise ..).idleStages ..

theorem Calls.Short.consult (h : k.Short x) (e : Env) (c p : Chan) : (k.consult e c p).Short x :=
  ((h.enter : (k.toHeld p c).Short x).alter).startDialling ..

theorem Calls.Short.returnToHeld (h : k.Short none) (e : Env) (c p : Chan) : (k.returnToHeld e c p).Short none :=
  (((h.giveUp e c).alter).pair ..).idleStages ..

theorem Calls.Short.flash (h : k.Short none) (e : Env) (c : Chan) : (k.flash e c).Short none := by
  have h1 := h.raise e .flash c
  unfold Calls.flash
  dsimp only
  split
  · exact h1
  · split
    · split
      · exact h1.returnToHeld ..
      · exact h1
    · split
      · exact h1.consult ..
      · exact h1

theorem Calls.Short.dropSession (h : k.Short none) (e : Env) (c : Chan) : (k.dropSession e c).Short none := by
  refine h.unwind e false c fun k h => ?_
  split
  · exact h.toReleasing e c
  · exact h.toLockout c

theorem Calls.Short.dropRinging (h : k.Short none) (e : Env) (d : Chan) : (k.dropRinging e d).Short none := by
  unfold Calls.dropRinging
  split
  · next o _ =>
    have h1 : ((k.toIdle d).alter o fun r => { r with ringCount := r.ringCount - 1 }).Short none :=
      (h.toIdle d).alter
    dsimp only
    refine Calls.Short.idleStages ?_ ..
    split
    · exact h1.noAnswer e o
    · exact h1
  · exact h.enterIdle e d

/-! ### Collection -/

/-- A collection whose list may be full ends (R73, R84, R85). -/
theorem Calls.Short.endReorder (h : k.Short (some c)) (e : Env) : (k.endReorder e c).Short none := by
  unfold Calls.endReorder Calls.toToneout
  exact (h.giveUp e c).leave

theorem Calls.Short.endDirect (h : k.Short (some c)) (e : Env) (n : Nat) : (k.endDirect e c n).Short none := by
  unfold Calls.endDirect
  split
  · exact (h.giveUp e c).placeDirect e _
  · exact (h.endReorder e).raise ..

theorem Calls.Short.endComplete (h : k.Short (some c)) (e : Env) (en : Entry) : (k.endComplete e c en).Short none := by
  unfold Calls.endComplete
  split
  · exact (h.endReorder e).raise ..
  · split
    · exact (h.endReorder e).raise ..
    · exact ((h.giveUp e c).leave : Calls.Short (Calls.toHostwait c _) none).raise ..
    · exact h.endDirect e _
    · exact h.endDirect e _
    · exact (h.giveUp e c).huntFresh e _

/-- A verdict is acted on: the list stays open by WAIT and WAIT_SHORT alone (R81). -/
theorem Calls.Short.actOn (h : k.Short (some c)) (e : Env) {v : Verdict}
    (hv : v = .wait ∨ v = .waitShort → (k.ses c).digits.length < 12) : (k.actOn e c v).Short none := by
  have waits : (v = .wait ∨ v = .waitShort) → k.Short none := fun hw => h.tighten fun _ => hv hw
  unfold Calls.actOn
  split
  · exact (waits (.inl rfl)).alter
  · exact (waits (.inr rfl)).alter
  · exact (h.endReorder e).raise ..
  · split
    · exact h.endComplete e _
    · exact (h.endReorder e).raise ..

/-! ### Digits -/

/-- No pattern of the dial plan is longer than 12 symbols (R74). -/
def planWithin (plan : Vector (Option Entry) 128) : Prop := ∀ i en, look plan i = some en → en.pattern.length ≤ 12

theorem State.planLaw.within {s : State} (h : s.planLaw) : planWithin s.plan := fun i en hi => (h.1 i en hi).2.1

/-- An evaluation that waits has found a pattern longer than the list (R81). -/
theorem length_lt_of_waits {plan : Vector (Option Entry) 128} (hp : planWithin plan) {ds : List Digit}
    (h : evaluate plan ds = .wait ∨ evaluate plan ds = .waitShort) : ds.length < 12 := by
  have hl : someLonger plan ds = true := by
    unfold evaluate at h
    by_contra hn
    split at h <;> simp [hn] at h
  obtain ⟨i, en, hc, hlt⟩ := (someLonger_iff plan ds).mp hl
  exact hlt.trans_le (hp i en hc.1)

/-- A digit may fill the list it is appended to; then nothing longer is left to wait for (R70, R71, R81). -/
theorem Calls.Short.appendDigit (h : k.Short none) {e : Env} (hp : planWithin e.plan) (hs : (k.ses c).state = .collecting)
    (d : Digit) : (k.appendDigit e c d).Short none := by
  have full : ((k.alter c fun r => { r with digits := r.digits ++ [d] }).setListen c .none).Short (some c) := by
    refine ⟨fun a => ?_, fun a => ?_⟩ <;> rw [Calls.ses_setListen, Calls.ses_alter] <;> split
    · next e =>
      subst e
      simpa using h.unfilled c hs nofun
    · exact h.all a
    · next e => exact fun _ hn => absurd (congrArg some e) hn
    · exact fun ha _ => h.unfilled a ha nofun
  exact full.actOn e (length_lt_of_waits hp)

/-- At an expiry the evaluation does not wait (R83). -/
theorem Calls.Short.collectionExpiry (h : k.Short none) (e : Env) (c : Chan) : (k.collectionExpiry e c).Short none := by
  refine (h.loosen _).actOn e fun hv => ?_
  unfold evaluateAtExpiry at hv
  split at hv <;> simp at hv

theorem Calls.Short.toneDigit (h : k.Short none) {e : Env} (hp : planWithin e.plan) (r : RxIx) (c : Chan) (d : Digit) :
    (k.toneDigit e r c d).Short none := by
  unfold Calls.toneDigit
  split
  · next hc => exact h.appendDigit hp hc.2.1 d
  · exact h

theorem Calls.Short.pulseDigit (h : k.Short none) {e : Env} (hp : planWithin e.plan) (c : Chan) (d : Digit) :
    (k.pulseDigit e c d).Short none := by
  unfold Calls.pulseDigit
  split
  · next hc => exact h.appendDigit hp hc.2.1 d
  · exact h

/-- Whatever ST takes (R14, R15, R64). -/
theorem Calls.Short.takeDelivery (h : k.Short none) {e : Env} (hp : planWithin e.plan) (v : Delivery) :
    (k.takeDelivery e v).Short none := by
  cases v with
  | digit r c d => exact h.toneDigit hp r c d
  | event c ev =>
    show (k.take e c ev).Short none
    unfold Calls.take
    split
    · cases ev with
      | seize =>
        show (k.takeSeize e c).Short none
        unfold Calls.takeSeize
        split
        · exact h.seizure e c
        · exact h.raise ..
        · split
          · exact h.answer e c _
          · exact h
        all_goals exact h
      | pulseDigit d => exact h.pulseDigit hp c d
      | flash => exact h.flash e c
      | disconnect =>
        show (k.takeDisconnect e c).Short none
        unfold Calls.takeDisconnect
        split
        case h_12 | h_13 | h_14 | h_15 | h_16 | h_17 => exact h
        all_goals exact h.release e c
      | ringBurst =>
        show (k.takeRingBurst e c).Short none
        unfold Calls.takeRingBurst
        split
        · exact h.incomingCall e c
        · exact h
      | ringGone =>
        show (k.takeRingGone e c).Short none
        unfold Calls.takeRingGone
        split
        · exact h.abandon e c
        · exact h.abandon e c
        · split
          · exact h
          · exact h.abandon e c
        all_goals exact h
      | battOn =>
        show (k.takeBattOn e c).Short none
        unfold Calls.takeBattOn
        split
        · exact h.alter
        · exact h
      | farOpen =>
        show (k.takeFarOpen e c).Short none
        unfold Calls.takeFarOpen
        split
        · exact h.release e c
        · exact h.release e c
        · exact h.release e c
        · exact h.release e c
        · split
          · exact h.release e c
          · exact h
        all_goals exact h
    · exact h

/-! ### START, STOP and the receiver pool -/

theorem Calls.Short.takeUp (h : k.Short none) (e : Env) : (k.takeUp e).Short none :=
  (h.fold (fun _ c h => h.seizure e c) _).fold (fun _ c h => h.incomingCall e c) _

theorem Calls.Short.stopAll (h : k.Short none) : k.stopAll.Short none := by
  refine ⟨fun c => ?_, fun c => ?_⟩ <;> rw [Calls.stopAll_ses] <;> split
  · simp [Session.moved_digits]
  · exact h.all c
  · exact fun hs => nomatch hs
  · exact h.unfilled c

theorem Calls.Short.putInService (h : k.Short x) (e : Env) (r : RxIx) : (k.putInService e r).Short x := by
  unfold Calls.putInService
  split
  · exact (h.same : (k.setRx r .freed).Short x).returnReceiver ..
  all_goals exact h.same

theorem Calls.Short.withdraw (h : k.Short x) (r : RxIx) : (k.withdraw r).Short x := by
  unfold Calls.withdraw
  split <;> exact h.same

end

/-! ### The step -/

section

variable {s t : State}

theorem State.close_short {k : Calls} (h : k.Short none) : (s.close k).calls.Short none := by simpa using h

theorem State.hand_short (h : s.calls.Short none) (hp : planWithin s.plan) (x : Taking) (v : Delivery) :
    (s.hand x v).calls.Short none := by
  unfold State.hand
  split
  · exact State.close_short (h.takeDelivery hp v)
  · exact h

theorem State.deliver_short (h : s.calls.Short none) (hp : planWithin s.plan) (x : Taking) (c : Chan)
    (ev : Option LineEvent) : (s.deliver x c ev).calls.Short none := by
  unfold State.deliver
  split
  · exact State.hand_short h hp ..
  · exact h

theorem State.route_short (h : s.calls.Short none) (hp : planWithin s.plan) (x : Taking) (r : Report) :
    (s.route x r).calls.Short none := by
  unfold State.route
  split
  case h_1 => exact State.deliver_short (s := s.setLoopQ _ _) h hp ..
  case h_3 => exact h.setBatt ..
  all_goals exact h

theorem State.expire_short (h : s.calls.Short none) {kind : TimerKind} {c : Chan} {f : Env → Chan → Calls → Calls}
    (hf : (f s.env c s.calls).Short none) : (s.expire kind c f).calls.Short none := by
  unfold State.expire
  split
  · exact State.close_short hf
  · exact h

/-- The commands whose effect is an event of the Session Table. -/
theorem dropBody_short (h : s.calls.Short none) (c : Chan) : (dropBody c s).state.calls.Short none := by
  unfold dropBody
  split
  case h_1 | h_2 | h_3 => exact h
  case h_4 => exact State.close_short (h.dropRinging ..)
  all_goals exact State.close_short (h.dropSession ..)

theorem placeBody_short (h : s.calls.Short none) (a : Chan × PlaceOn) : (placeBody a s).state.calls.Short none := by
  unfold placeBody
  split
  · split
    · exact State.close_short ((h.loosen _).huntFresh ..)
    · split
      · exact State.close_short ((h.loosen _).placeDirect ..)
      · exact h
  · exact h

theorem configureBody_short (h : s.calls.Short none) (a : ConfigArgs) : (configureBody a s).state.calls.Short none := by
  have hc : (s.calls.alter a.chan (Session.configured a)).Short none := h.alter
  unfold configureBody
  split
  · exact h
  · rw [carried_state]
    unfold State.configure
    dsimp only
    split
    · exact hc
    · simp only [State.reclassed, State.kick_calls]
      exact (hc.setBatt ..).setOut ..

/-- Every command keeps the digit lists short. -/
theorem exec_short (i : Instr) (h : exec i s = .next t) (hs : s.calls.Short none) (hp : planWithin s.plan) :
    t.calls.Short none := by
  have mail : ∀ (u : State) (f : Mailbox → Mailbox), u.calls.Short none → (u.mail f).calls.Short none := fun _ _ h => h
  have act : ∀ {f : State → State}, (f s).calls.Short none → awake f s = .next t → t.calls.Short none := fun hf h =>
    awake_keeps (P := fun u => u.calls.Short none) hs hf h
  have taken : ∀ {α : Type} {cmd : Cmd} {allowed : OpState → Bool} {args : Params → Option α} {body : α → State → Reply},
      takeCommand cmd (checked allowed args body) s = .next t → (∀ a, (body a s).state.calls.Short none) →
      t.calls.Short none := fun h hb =>
    takeCommand_keeps (P := fun u => u.calls.Short none) mail hs (fun p =>
      checked_keeps (P := fun u => u.calls.Short none) hs fun a _ _ => hb a) h
  cases i with
  | hardwareReset =>
    dsimp only [exec, execHardwareReset] at h
    injection h with h; subst h
    exact ⟨fun c => by simp [Session.reset], fun c => by simp [Session.reset]⟩
  | resetEnd =>
    dsimp only [exec, execResetEnd] at h
    injection h with h; subst h
    split
    · simpa using hs
    · exact hs
  | conditionReport byte0 byte1 stop start x =>
    refine act ?_ h
    split
    · split
      · exact State.route_short hs hp ..
      · simpa using hs
    · exact hs
  | frameCompletion =>
    dsimp only [exec, execFrameCompletion] at h
    refine act ?_ h
    split
    · simpa using hs
    · exact hs
  | frameSync v x =>
    refine act ?_ h
    obtain ⟨w, e⟩ := s.highwayFrame_same v x
    rw [e]
    exact hs
  | toneStepEnd x => refine act ?_ h; unfold State.toneStep; dsimp only; split <;> exact hs
  | detectorIndication r ind => refine act ?_ h; unfold State.indication; split <;> exact hs.same
  | toneOnMinExpiry r x =>
    refine act ?_ h
    split
    · have lent : (s.calls.setRx r { s.calls.rx r with state := .digit, timer := none }).Short none := hs.same
      unfold State.toneOn
      dsimp only
      split
      · exact State.hand_short (s := { s with calls := _ }) lent hp ..
      · exact lent
    · exact hs
  | toneGapMinExpiry r => refine act ?_ h; split <;> exact hs.same
  | seizeQualExpiry c x =>
    refine act ?_ h
    unfold State.seizeQual
    dsimp only
    split
    · exact State.deliver_short (s := s.setLoopQ _ _) hs hp ..
    · exact hs
  | flashMaxExpiry c x =>
    refine act ?_ h
    unfold State.flashMax
    dsimp only
    split
    · exact State.deliver_short (s := s.setLoopQ _ _) hs hp ..
    · exact hs
  | pulseMakeEndExpiry c x =>
    refine act ?_ h
    unfold State.pulseMakeEnd
    dsimp only
    split
    · exact State.deliver_short (s := s.setLoopQ _ _) hs hp ..
    · exact hs
  | burstTimerExpiry c x =>
    refine act ?_ h
    unfold State.burstEnd
    dsimp only
    split
    · split
      · exact State.deliver_short (s := s.setRingQ _ _) hs hp ..
      all_goals exact hs
    · exact hs
  | gapTimerExpiry c x =>
    refine act ?_ h
    unfold State.gapEnd
    dsimp only
    split
    · exact State.deliver_short (s := s.setRingQ _ _) hs hp ..
    · exact hs
  | battSeizeQualExpiry c x =>
    refine act ?_ h
    unfold State.battOn
    split
    · exact State.deliver_short (s := { s with calls := _ }) (hs.setBatt ..) hp ..
    · exact hs
  | farOpenMinExpiry c x =>
    refine act ?_ h
    unfold State.farOpen
    split
    · exact State.deliver_short (s := { s with calls := _ }) (hs.setBatt ..) hp ..
    · exact hs
  | firstDigitExpiry c => exact act (State.expire_short hs ((hs.loosen _).endReorder _)) h
  | interdigitExpiry c => exact act (State.expire_short hs (hs.collectionExpiry ..)) h
  | overlapExpiry c => exact act (State.expire_short hs (hs.collectionExpiry ..)) h
  | rxWaitExpiry c => exact act (State.expire_short (f := Calls.rxWaitEnd) hs ((hs.alter).raise ..)) h
  | cadenceExpiry c => exact act (State.expire_short hs (hs.cadence ..)) h
  | queueWaitExpiry c => exact act (State.expire_short hs (hs.queueOut ..)) h
  | toneoutExpiry c => exact act (State.expire_short (f := fun _ => Calls.toLockout) hs (hs.toLockout ..)) h
  | guardExpiry c => exact act (State.expire_short hs (hs.enterIdle ..)) h
  | seizeWaitExpiry c => exact act (State.expire_short hs (hs.seizeFailed ..)) h
  | cutThroughExpiry c => exact act (State.expire_short (f := fun _ => Calls.cutThrough) hs (hs.cutThrough ..)) h
  | statusRead =>
    dsimp only [exec, execStatusRead] at h
    exact act (by exact hs) h
  | resultRead k =>
    dsimp only [exec, execResultRead] at h
    exact act (by exact hs) h
  | completionRead =>
    dsimp only [exec, execCompletionRead] at h
    exact act (by exact hs) h
  | controlWrite b =>
    dsimp only [exec, execControlWrite] at h
    exact act (by exact hs) h
  | paramWrite | ignoredRegisterWrite | unknown | commandOffer => exact act hs h
  | start => exact taken h fun _ => State.close_short (hs.takeUp _)
  | stop => exact taken h fun _ => by rw [stopBody_calls]; exact hs.stopAll
  | setParam | setNoticeMask | readParam | readSession | readDigits | readGroup | readBridge | clearEntry | writeGroup
  | setWatch | armWatch | disarmWatch => exact taken h fun _ => hs.same
  | applyParams => exact taken h fun _ => by unfold applyParamsBody; split <;> exact hs
  | configureChannel => exact taken h fun a => configureBody_short hs a
  | block => exact taken h fun c => by unfold blockBody; split; exacts [State.close_short hs.enter, hs]
  | restore => exact taken h fun c => by unfold restoreBody; split; exacts [State.close_short (hs.enterIdle ..), hs]
  | writeEntry => exact taken h fun a => by unfold writeEntryBody; split <;> exact hs
  | setMembers => exact taken h fun a => by unfold setMembersBody; split <;> exact hs.same
  | addMember => exact taken h fun a => by unfold addMemberBody; dsimp only; split; exacts [hs, by split <;> exact hs.same]
  | dropMember => exact taken h fun a => by unfold dropMemberBody; split <;> exact hs.same
  | receiverService =>
    exact taken h fun a => by
      rw [receiverServiceBody_calls]
      split
      · exact hs.putInService ..
      · exact hs.withdraw ..
  | hold => exact taken h fun c => by unfold holdBody; split; exacts [State.close_short (hs.consult ..), hs]
  | retrieve => exact taken h fun c => by unfold retrieveBody; split; exacts [State.close_short (hs.returnToHeld ..), hs]
  | transfer =>
    exact taken h fun c => by
      unfold transferBody
      split
      · exact State.close_short (hs.unwind _ _ _ fun _ h => h.toHostwait c)
      · exact hs
  | drop => exact taken h fun c => dropBody_short hs c
  | place => exact taken h fun a => placeBody_short hs a
  | connect => exact taken h fun a => by unfold connectBody; split; exacts [State.close_short (hs.pair ..), hs]
  | setListen => exact taken h fun a => by unfold setListenBody; split <;> exact hs.same
  | conference =>
    exact taken h fun c => by
      unfold conferenceBody
      split
      · exact hs
      · split
        · exact hs
        · exact State.close_short (hs.formBridge ..)
  | join =>
    exact taken h fun a => by
      unfold joinBody
      split
      · exact hs
      · split
        · exact hs
        · split
          · exact State.close_short (hs.joinBridge ..)
          · exact hs
  | takeNotices => exact taken h fun n => by unfold takeNoticesBody; split <;> exact hs.same

/-- Every step keeps the digit lists short while the entries are lawful (R71). -/
theorem step_short (h : step s = .next t) (hs : s.calls.Short none) (hp : planWithin s.plan) : t.calls.Short none := by
  unfold step at h
  split at h
  · injection h with h
    subst h
    unfold State.idleStep
    split
    · exact hs
    · split
      · exact State.close_short (hs.takeDelivery hp _)
      · next c _ _ =>
        obtain ⟨w, e⟩ := s.nextSlot_same c
        rw [e]
        exact hs
      · split
        · exact hs.congr (fun c => by rw [State.tick_ses]) fun c => by rw [State.tick_ses]
        · exact hs
  · exact exec_short _ h hs hp

end

end Sys2Proof.Machine
end

section
/-! The tables that every step keeps lawful (R75, R76, R94 to R96, R174 to R176), each through the cases of a step. -/

namespace Sys2Proof.Machine

/-! ### The parameters -/

/-- The law reads the two parameter sets alone. -/
theorem State.paramsLaw_congr {s t : State} (hs : t.params.staged = s.params.staged)
    (hc : t.params.current = s.params.current) (h : s.paramsLaw) : t.paramsLaw := by
  unfold State.paramsLaw at h ⊢
  rwa [hs, hc]

theorem setParamBody_paramsLaw {s : State} (a : ParamIx × Nat) (ha : paramInRange a.1 a.2 = true) (h : s.paramsLaw) :
    (setParamBody a s).state.paramsLaw := by
  refine ⟨h.1, fun i => ⟨?_, (h.2 i).2⟩⟩
  show paramInRange i (look (put s.params.staged a.1 a.2) i) = true
  rw [look_put]
  split
  · next e => exact e ▸ ha
  · exact (h.2 i).1

/-- APPLY_PARAMS copies the staged set when no relation fails (R176). -/
theorem applyParamsBody_paramsLaw {s : State} (h : s.paramsLaw) : (applyParamsBody () s).state.paramsLaw := by
  unfold applyParamsBody
  split
  · next hr => exact ⟨hr, fun i => ⟨(h.2 i).1, (h.2 i).1⟩⟩
  · exact h

theorem paramsLaw_kept : Kept State.paramsLaw where
  queue _ _ h := h
  tick s h := State.paramsLaw_congr (by simp) (by simp) h
  reset _ _ := State.reset_paramsLaw
  resetEnd s h := State.paramsLaw_congr (by simp) (by simp) h
  event _ _ he h := by rw [State.paramsLaw, he.still.params]; exact h
  badFrame s h := State.paramsLaw_congr (by simp) (by simp) h
  completeFrame s o h := State.paramsLaw_congr (by simp) (by simp) h
  highway _ _ h := h
  toneStep s x h := by unfold State.toneStep; dsimp only; split <;> exact h
  mail _ _ h := h
  data _ _ h := h
  attn _ _ _ h := h
  start s _ h := State.paramsLaw_congr (s := s) (by simp [startBody]) (by simp [startBody]) h
  stop s _ h := State.paramsLaw_congr (s := s) (by simp [stopBody]) (by simp [stopBody]) h
  staged _ a ha h := setParamBody_paramsLaw a ha h
  apply _ h := applyParamsBody_paramsLaw h
  mask _ _ h := h
  configure s a h := by
    unfold configureBody
    split
    · exact h
    · rw [carried_state, State.paramsLaw, (State.configure_still a s).params]
      exact h
  entry s _ a _ h := by unfold writeEntryBody; split <;> exact h
  clear _ _ h := h
  group _ _ _ _ h := h
  setMembers s _ a _ h := by unfold setMembersBody; split <;> exact h
  addMember s a h := by
    unfold addMemberBody
    dsimp only
    split
    · exact h
    · split <;> exact h
  dropMember s a h := by unfold dropMemberBody; split <;> exact h
  notices s n h := by unfold takeNoticesBody; split <;> exact h

/-! ### The dial plan -/

/-- The law reads the entries alone. -/
theorem State.planLaw_congr {s t : State} (hp : t.plan = s.plan) (h : s.planLaw) : t.planLaw := by
  unfold State.planLaw at h ⊢
  rwa [hp]

theorem allSome_length {α : Type} {l : List (Option α)} {m : List α} (h : allSome l = some m) : m.length = l.length := by
  induction l generalizing m with
  | nil => cases h; rfl
  | cons a l ih =>
    cases a with
    | none => cases h
    | some a =>
      obtain ⟨m', hm', rfl⟩ := Option.map_eq_some_iff.mp h
      simp [ih hm']

theorem readPattern_length {n : Nat} {bytes : List Byte} {l : List PatSym} (h : readPattern n bytes = some l) :
    1 ≤ n ∧ n ≤ 12 ∧ l.length = n := by
  unfold readPattern at h
  split at h
  · next hn => exact ⟨hn.1, hn.2, by simpa using allSome_length h⟩
  · cases h

/-- What WRITE_ENTRY reads is an entry that may stand in the plan (R76, R77). -/
theorem readEntry_lawful {p : Params} {a : SlotIx × Entry} (h : readEntry p = some a) :
    1 ≤ a.2.pattern.length ∧ a.2.pattern.length ≤ 12 ∧ actionFits a.2.action a.2.pattern = true := by
  unfold readEntry at h
  split at h
  · next hp _ _ =>
    split at h
    · next hf =>
      cases h
      obtain ⟨h1, h12, hl⟩ := readPattern_length hp
      exact ⟨hl ▸ h1, hl ▸ h12, hf⟩
    · cases h
  · cases h

theorem samePattern_eq_none {plan : Vector (Option Entry) 128} {slot : SlotIx} {pattern : List PatSym} :
    samePattern plan slot pattern = none ↔
      ∀ i en, i ≠ slot → look plan i = some en → en.pattern ≠ pattern := by
  unfold samePattern
  rw [List.find?_eq_none]
  constructor
  · intro h i en hi he hp
    exact h i (List.mem_finRange i) (by simp [hi, he, hp])
  · intro h i _ hf
    obtain ⟨hi, en, he, hp⟩ : i ≠ slot ∧ ∃ en, look plan i = some en ∧ en.pattern = pattern := by simpa using hf
    exact h i en hi he hp

/-- An entry put into the plan (R75, R76). -/
theorem State.planLaw_put {s : State} {slot : SlotIx} {new : Entry}
    (hn : 1 ≤ new.pattern.length ∧ new.pattern.length ≤ 12 ∧ actionFits new.action new.pattern = true)
    (hd : ∀ i en, i ≠ slot → look s.plan i = some en → en.pattern ≠ new.pattern) (h : s.planLaw) :
    State.planLaw { s with plan := put s.plan slot (some new) } := by
  have read : ∀ i en, look (put s.plan slot (some new)) i = some en →
      i = slot ∧ en = new ∨ i ≠ slot ∧ look s.plan i = some en := by
    intro i en he
    rw [look_put] at he
    split at he
    · next e => exact .inl ⟨e.symm, (Option.some.inj he).symm⟩
    · next e => exact .inr ⟨Ne.symm e, he⟩
  refine ⟨fun i en he => ?_, fun i j en en' he he' hp => ?_⟩
  · rcases read i en he with ⟨-, rfl⟩ | ⟨-, he⟩
    · exact hn
    · exact h.1 i en he
  · rcases read i en he with ⟨ei, en1⟩ | ⟨hi, old⟩ <;> rcases read j en' he' with ⟨ej, en2⟩ | ⟨hj, old'⟩
    · exact ei.trans ej.symm
    · exact absurd (hp.symm.trans (congrArg _ en1)) (hd j en' hj old')
    · exact absurd (hp.trans (congrArg _ en2)) (hd i en hi old)
    · exact h.2 i j en en' old old' hp

theorem State.planLaw_clear {s : State} (slot : SlotIx) (h : s.planLaw) :
    State.planLaw { s with plan := put s.plan slot none } := by
  have read : ∀ i en, look (put s.plan slot none) i = some en → look s.plan i = some en := by
    intro i en he
    rw [look_put] at he
    split at he
    · cases he
    · exact he
  exact ⟨fun i en he => h.1 i en (read i en he), fun i j en en' he he' => h.2 i j en en' (read i en he) (read j en' he')⟩

theorem planLaw_kept : Kept State.planLaw where
  queue _ _ h := h
  tick s h := State.planLaw_congr (by simp) h
  reset _ _ := State.reset_planLaw
  resetEnd s h := State.planLaw_congr (by simp) h
  event _ _ he h := State.planLaw_congr he.still.plan h
  badFrame s h := State.planLaw_congr (by simp) h
  completeFrame s o h := State.planLaw_congr (by simp) h
  highway _ _ h := h
  toneStep s x h := by unfold State.toneStep; dsimp only; split <;> exact h
  mail _ _ h := h
  data _ _ h := h
  attn _ _ _ h := h
  start s _ h := State.planLaw_congr (s := s) (by simp [startBody]) h
  stop s _ h := State.planLaw_congr (s := s) (by simp [stopBody]) h
  staged _ _ _ h := h
  apply s h := by unfold applyParamsBody; split <;> exact h
  mask _ _ h := h
  configure s a h := by
    unfold configureBody
    split
    · exact h
    · exact State.planLaw_congr (State.configure_still a s).plan h
  entry s _ a ha h := by
    unfold writeEntryBody
    split
    · exact h
    · next hn => exact State.planLaw_put (readEntry_lawful ha) (samePattern_eq_none.mp hn) h
  clear _ i h := State.planLaw_clear i h
  group _ _ _ _ h := h
  setMembers s _ a _ h := by unfold setMembersBody; split <;> exact h
  addMember s a h := by
    unfold addMemberBody
    dsimp only
    split
    · exact h
    · split <;> exact h
  dropMember s a h := by unfold dropMemberBody; split <;> exact h
  notices s n h := by unfold takeNoticesBody; split <;> exact h

/-! ### The hunt groups -/

/-- At most 16 members, each once, and the queue limit and wait in range (R94). -/
structure Group.Lawful (x : Group) : Prop where
  length : x.members.length ≤ 16
  nodup : x.members.Nodup
  limit : x.queueLimit ≤ 8
  wait_pos : 1 ≤ x.queueWait
  wait_le : x.queueWait ≤ 255

/-- Every group of the call state is lawful. -/
def Calls.groupsLaw (k : Calls) : Prop := ∀ g, (k.group g).Lawful

theorem State.groupsLaw_iff (s : State) : s.groupsLaw ↔ s.calls.groupsLaw :=
  ⟨fun h g => have ⟨hl, hn, hq, hw, hw'⟩ := h g; ⟨hl, hn, hq, hw, hw'⟩,
    fun h g => ⟨(h g).length, (h g).nodup, (h g).limit, (h g).wait_pos, (h g).wait_le⟩⟩

theorem Group.Lawful.alike {x y : Group} (h : x.Lawful) (ha : Group.Alike x y) : y.Lawful :=
  ⟨ha.members ▸ h.length, ha.members ▸ h.nodup, ha.queueLimit ▸ h.limit, ha.queueWait ▸ h.wait_pos,
    ha.queueWait ▸ h.wait_le⟩

theorem Group.reset_lawful : Group.reset.Lawful :=
  ⟨by simp [Group.reset], by simp [Group.reset], by simp [Group.reset], by simp [Group.reset], by simp [Group.reset]⟩

theorem Calls.groupsLaw_congr {k l : Calls} (hg : l.groups = k.groups) (h : k.groupsLaw) : l.groupsLaw := by
  intro g
  rw [Calls.group, hg]
  exact h g

/-- Every move keeps the groups lawful: only camp-on queues and positions change. -/
theorem Move.keeps_groupsLaw {k l : Calls} (hm : Move k l) (h : k.groupsLaw) : l.groupsLaw := by
  cases hm with
  | groups v hv => exact fun g => (h g).alike (hv g)
  | raise e n c => exact Calls.groupsLaw_congr (by simp) h
  | _ => exact h

theorem Reach.keeps_groupsLaw {k l : Calls} (hr : Reach k l) (h : k.groupsLaw) : l.groupsLaw :=
  Reach.keeps (P := Calls.groupsLaw) (fun _ _ => Move.keeps_groupsLaw) hr h

theorem Calls.stopAll_groupsLaw {k : Calls} (h : k.groupsLaw) : k.stopAll.groupsLaw := by
  intro g
  rw [Calls.stopAll_group]
  exact (h g).alike ⟨rfl, rfl, rfl, rfl, rfl, rfl⟩

/-- A group replaced by a lawful one. -/
theorem withGroup_groupsLaw {s : State} {g : GroupIx} {f : Group → Group} (h : s.calls.groupsLaw)
    (hf : (f (s.calls.group g)).Lawful) : (withGroup g f s).state.calls.groupsLaw := by
  intro i
  rw [withGroup_state, Calls.group_alterGroup]
  split
  · next e => exact e ▸ hf
  · exact h i

theorem readGroupArgs_limits {p : Params} {a : GroupArgs} (h : readGroupArgs p = some a) :
    a.queueLimit ≤ 8 ∧ 1 ≤ a.queueWait ∧ a.queueWait ≤ 255 := by
  unfold readGroupArgs at h
  split at h
  · split at h
    · next hl =>
      cases h
      exact ⟨hl.1, hl.2, Nat.le_of_lt_succ (look p 5).isLt⟩
    · cases h
  · cases h

theorem readMembers_length {p : Params} {a : GroupIx × List Chan} (h : readMembers p = some a) : a.2.length ≤ 6 := by
  unfold readMembers at h
  split at h
  · split at h
    · obtain ⟨l, hl, rfl⟩ := Option.map_eq_some_iff.mp h
      have e : l.length = min (look p 1).toNat 6 := by simpa using allSome_length hl
      exact e.trans_le (min_le_right ..)
    · cases h
  · cases h

theorem setMembersBody_groupsLaw {s : State} {p : Params} {a : GroupIx × List Chan} (ha : readMembers p = some a)
    (h : s.calls.groupsLaw) : (setMembersBody a s).state.calls.groupsLaw := by
  unfold setMembersBody
  split
  · next hn =>
    have hg := h a.1
    exact withGroup_groupsLaw h ⟨(readMembers_length ha).trans (by omega), hn, hg.limit, hg.wait_pos, hg.wait_le⟩
  · exact h

theorem addMemberBody_groupsLaw {s : State} (a : GroupIx × Chan) (h : s.calls.groupsLaw) :
    (addMemberBody a s).state.calls.groupsLaw := by
  unfold addMemberBody
  dsimp only
  split
  · exact h
  · next hm =>
    split
    · exact h
    · next hl =>
      have hg := h a.1
      refine withGroup_groupsLaw h ⟨?_, ?_, hg.limit, hg.wait_pos, hg.wait_le⟩
      · simpa [groupLimit] using hl
      · exact hg.nodup.append (by simp) (by simpa using hm)

theorem dropMemberBody_groupsLaw {s : State} (a : GroupIx × Chan) (h : s.calls.groupsLaw) :
    (dropMemberBody a s).state.calls.groupsLaw := by
  unfold dropMemberBody
  split
  · have hg := h a.1
    exact withGroup_groupsLaw h
      ⟨(List.length_erase_le).trans hg.length, hg.nodup.erase _, hg.limit, hg.wait_pos, hg.wait_le⟩
  · exact h

theorem State.configure_groupsLaw {s : State} (a : ConfigArgs) (h : s.calls.groupsLaw) :
    (s.configure a).calls.groupsLaw := by
  unfold State.configure
  dsimp only
  split
  · exact h
  · exact Calls.groupsLaw_congr (k := s.calls) (by simp [State.reclassed]) h

theorem groupsLaw_kept : Kept fun s => s.calls.groupsLaw where
  queue _ _ h := h
  tick s h := Calls.groupsLaw_congr (k := s.calls) (by simp) h
  reset _ _ g := by simpa using Group.reset_lawful
  resetEnd s h := Calls.groupsLaw_congr (k := s.calls) (by simp) h
  event _ _ he h := he.moves.keeps_groupsLaw h
  badFrame s h := Calls.groupsLaw_congr (k := s.calls) (by simp) h
  completeFrame s o h := Calls.groupsLaw_congr (k := s.calls) (by simp) h
  highway _ _ h := h
  toneStep s x h := by unfold State.toneStep; dsimp only; split <;> exact h
  mail _ _ h := h
  data _ _ h := h
  attn _ _ _ h := h
  start s _ h := by rw [startBody_calls]; exact (Calls.takeUp_reach _ s.calls).keeps_groupsLaw h
  stop s _ h := by rw [stopBody_calls]; exact Calls.stopAll_groupsLaw h
  staged _ _ _ h := h
  apply s h := by unfold applyParamsBody; split <;> exact h
  mask _ _ h := h
  configure s a h := by
    unfold configureBody
    split
    · exact h
    · exact State.configure_groupsLaw a h
  entry s _ a _ h := by unfold writeEntryBody; split <;> exact h
  clear _ _ h := h
  group s p a ha h :=
    have ⟨hq, hw, hw'⟩ := readGroupArgs_limits ha
    withGroup_groupsLaw h ⟨(h a.group).length, (h a.group).nodup, hq, hw, hw'⟩
  setMembers _ _ _ ha h := setMembersBody_groupsLaw ha h
  addMember _ a h := addMemberBody_groupsLaw a h
  dropMember _ a h := dropMemberBody_groupsLaw a h
  notices s n h := by unfold takeNoticesBody; split <;> exact h

/-- Settles O52: the three tables through the cases of a step, the digit lists row by row, each digit that fills a list
ending its collection because the plan's patterns are at most 12 long. -/
theorem everyStepKeepsTheTablesLawful : Obligations.EveryStepKeepsTheTablesLawful := by
  unfold Obligations.EveryStepKeepsTheTablesLawful
  intro s t h
  refine ⟨step_keeps paramsLaw_kept h, step_keeps planLaw_kept h, fun hp hd => ?_, fun hg => ?_⟩
  · exact t.digitsLaw_iff.mpr (step_short h (s.digitsLaw_iff.mp hd) hp.within)
  · exact t.groupsLaw_iff.mpr (step_keeps groupsLaw_kept h (s.groupsLaw_iff.mp hg))

end Sys2Proof.Machine
end

section
/-! The verdicts of an evaluation (R80, R81, R83): which of the candidates exactly as long as the list and the longer ones
there are. -/

namespace Sys2Proof.Machine

section

variable {plan : Vector (Option Entry) 128} {ds : List Digit}

/-- A slot holds one candidate at most. -/
theorem candidate.unique {i : SlotIx} {en en' : Entry} (h : candidate plan ds i en) (h' : candidate plan ds i en') :
    en = en' := Option.some.inj (h.1.symm.trans h'.1)

/-- A candidate is as long as the list or longer. -/
theorem candidate.exact_or_longer {i : SlotIx} {en : Entry} (h : candidate plan ds i en) :
    en.pattern.length = ds.length ∨ ds.length < en.pattern.length := (h.2.1.eq_or_lt).imp_left Eq.symm

theorem someLonger_eq_false : someLonger plan ds = false ↔
    ∀ i en, candidate plan ds i en → en.pattern.length = ds.length := by
  rw [Bool.eq_false_iff, Ne, someLonger_iff]
  constructor
  · exact fun h i en hc => hc.exact_or_longer.resolve_right fun hl => h ⟨i, en, hc, hl⟩
  · exact fun h ⟨i, en, hc, hl⟩ => hl.ne' (h i en hc)

theorem lowestExact_isSome : (lowestExact plan ds).isSome ↔
    ∃ i en, candidate plan ds i en ∧ en.pattern.length = ds.length := by
  rw [← Option.ne_none_iff_isSome, Ne, lowestExact_eq_none]
  push Not
  rfl

/-! ### The verdict as a case of the two searches -/

theorem evaluate_eq_vacant : evaluate plan ds = .vacant ↔ lowestExact plan ds = none ∧ someLonger plan ds = false := by
  unfold evaluate; split <;> split <;> simp_all

theorem evaluate_eq_wait : evaluate plan ds = .wait ↔ lowestExact plan ds = none ∧ someLonger plan ds = true := by
  unfold evaluate; split <;> split <;> simp_all

theorem evaluate_eq_waitShort :
    evaluate plan ds = .waitShort ↔ (lowestExact plan ds).isSome ∧ someLonger plan ds = true := by
  unfold evaluate; split <;> split <;> simp_all

theorem evaluate_eq_complete {i : SlotIx} :
    evaluate plan ds = .complete i ↔ lowestExact plan ds = some i ∧ someLonger plan ds = false := by
  unfold evaluate; split <;> split <;> simp_all

theorem evaluateAtExpiry_eq_vacant : evaluateAtExpiry plan ds = .vacant ↔ lowestExact plan ds = none := by
  unfold evaluateAtExpiry; split <;> simp_all

theorem evaluateAtExpiry_eq_complete {i : SlotIx} :
    evaluateAtExpiry plan ds = .complete i ↔ lowestExact plan ds = some i := by
  unfold evaluateAtExpiry; split <;> simp_all

end

/-- Settles O28: each verdict is a case of the two searches, and the searches answer for the candidates as long as the
list and for the longer ones; at the expiry the longer ones are not asked. -/
theorem evaluationGivesTheVerdict : Obligations.EvaluationGivesTheVerdict := by
  unfold Obligations.EvaluationGivesTheVerdict
  intro plan ds
  refine ⟨?vacant, ?wait, ?waitShort, fun i => ?complete, ?vacantAtExpiry, fun i => ?completeAtExpiry⟩
  case vacant =>
    rw [evaluate_eq_vacant, lowestExact_eq_none, someLonger_eq_false]
    exact ⟨fun ⟨hn, he⟩ i en hc => hn i en hc (he i en hc),
      fun h => ⟨fun i en hc => absurd hc (h i en), fun i en hc => absurd hc (h i en)⟩⟩
  case wait =>
    rw [evaluate_eq_wait, lowestExact_eq_none, someLonger_iff]
    constructor
    · exact fun ⟨hn, i, en, hc, _⟩ => ⟨⟨i, en, hc⟩, fun j en' hc' => hc'.exact_or_longer.resolve_left (hn j en' hc')⟩
    · exact fun ⟨⟨i, en, hc⟩, hl⟩ => ⟨fun j en' hc' => (hl j en' hc').ne', i, en, hc, hl i en hc⟩
  case waitShort => rw [evaluate_eq_waitShort, lowestExact_isSome, someLonger_iff]
  case complete =>
    rw [evaluate_eq_complete, lowestExact_eq_some, someLonger_eq_false]
    constructor
    · exact fun ⟨⟨⟨en, hc, _⟩, low⟩, he⟩ => ⟨⟨en, hc⟩, he, fun j en' hc' => low j en' hc' (he j en' hc')⟩
    · exact fun ⟨⟨en, hc⟩, he, low⟩ => ⟨⟨⟨en, hc, he i en hc⟩, fun j en' hc' _ => low j en' hc'⟩, he⟩
  case vacantAtExpiry => rw [evaluateAtExpiry_eq_vacant, lowestExact_eq_none]
  case completeAtExpiry => rw [evaluateAtExpiry_eq_complete, lowestExact_eq_some]

end Sys2Proof.Machine
end

section
/-! The commands of the dial plan (R76 to R78): what WRITE_ENTRY reads from the bytes of an entry, and the search for the
same pattern in another slot. -/

namespace Sys2Proof.Machine

/-! ### Reading an entry -/

/-- The code of a pattern symbol (R178, Codes), the inverse of `readSym`. -/
def PatSym.code : PatSym → Nat
  | .digit d => digitCode d
  | .x => 12

theorem readSym_code (y : PatSym) : readSym y.code = some y := by
  rcases y with (n | _ | _) | _
  · exact dif_pos n.isLt
  all_goals rfl

/-- All values of a list are there exactly when it lists them. -/
theorem allSome_eq_some {α : Type} {xs : List (Option α)} {l : List α} : allSome xs = some l ↔ xs = l.map some := by
  induction xs generalizing l with
  | nil => cases l <;> simp [allSome]
  | cons x xs ih =>
    cases x with
    | none => cases l <;> simp [allSome]
    | some a =>
      rw [allSome, Option.map_eq_some_iff]
      constructor
      · rintro ⟨m, hm, rfl⟩
        rw [List.map_cons, ih.mp hm]
      · intro h
        cases l with
        | nil => cases h
        | cons b m =>
          obtain ⟨ha, hm⟩ := List.cons.inj h
          exact ⟨m, ih.mpr hm, by rw [Option.some.inj ha]⟩

/-- Symbol `i` is a half of byte `8 + i / 2`, the earlier of two in the low half (R178). -/
theorem packedAt_patternBytes (p : Params) {i : Nat} (hi : i < 12) :
    packedAt (patternBytes p) i = (look p ⟨8 + i / 2, by omega⟩).toNat / 16 ^ (i % 2) % 16 := by
  have byte : ∀ j (hj : j < 6), (patternBytes p).getD j 0 = look p ⟨8 + j, by omega⟩ := fun j hj =>
    match j, hj with
    | 0, _ | 1, _ | 2, _ | 3, _ | 4, _ | 5, _ => rfl
  unfold packedAt
  rw [byte (i / 2) (by omega)]
  generalize look p ⟨8 + i / 2, by omega⟩ = b
  have := b.isLt
  rcases Nat.mod_two_eq_zero_or_one i with h | h
  · simp [h]
  · simp [h]; omega

/-- Bytes that spell the symbols of a pattern read as it. -/
theorem readPattern_eq_some {p : Params} {l : List PatSym} (hn : (look p 1).toNat = l.length) (h1 : 1 ≤ l.length)
    (h12 : l.length ≤ 12)
    (hy : ∀ i y (hi : i < 12), l[i]? = some y → (look p ⟨8 + i / 2, by omega⟩).toNat / 16 ^ (i % 2) % 16 = y.code) :
    readPattern (look p 1).toNat (patternBytes p) = some l := by
  rw [hn, readPattern, if_pos ⟨h1, h12⟩, allSome_eq_some]
  refine List.ext_getElem (by simp) fun i hi hi' => ?_
  have hl : i < l.length := by simpa using hi'
  have spelled := hy i l[i] (by omega) (List.getElem?_eq_getElem hl)
  rw [← packedAt_patternBytes p (by omega)] at spelled
  simp [spelled, readSym_code]

/-- The bytes of an action's code and argument (R76, R178); REFER and DENY have no argument. -/
def Action.spelled (code arg : Byte) : Action → Prop
  | .channel c => code = 0 ∧ arg.toNat = c
  | .extension o => code = 1 ∧ arg.toNat = o
  | .group g => code = 2 ∧ arg.toNat = g
  | .refer => code = 3
  | .deny => code = 4

theorem readAction_eq_some {code arg : Byte} {a : Action} (h : a.spelled code arg) : readAction code arg = some a := by
  cases a with
  | channel c => obtain ⟨rfl, ha⟩ := h; simp [readAction, readFin_eq_some ha]
  | extension o => obtain ⟨rfl, ha⟩ := h; simp [readAction, readFin_eq_some ha]
  | group g => obtain ⟨rfl, ha⟩ := h; simp [readAction, readFin_eq_some ha]
  | refer => obtain rfl := h; rfl
  | deny => obtain rfl := h; rfl

theorem readEntry_eq_some {p : Params} {slot : SlotIx} {en : Entry} (h0 : (look p 0).toNat = slot)
    (hp : readPattern (look p 1).toNat (patternBytes p) = some en.pattern)
    (ha : en.action.spelled (look p 2) (look p 3)) (hf : actionFits en.action en.pattern = true)
    (h4 : (look p 4).toNat = en.minClass) : readEntry p = some (slot, en) := by
  unfold readEntry
  rw [← patternBytes, readFin_eq_some h0, hp, readAction_eq_some ha, readFin_eq_some h4]
  exact if_pos hf

/-! ### The same pattern in another slot -/

theorem samePattern_eq_some {plan : Vector (Option Entry) 128} {slot i : SlotIx} {pattern : List PatSym}
    (here : ∃ en, i ≠ slot ∧ look plan i = some en ∧ en.pattern = pattern)
    (lowest : ∀ j < i, ∀ en, j ≠ slot → look plan j = some en → en.pattern ≠ pattern) :
    samePattern plan slot pattern = some i := by
  obtain ⟨en, hi, he, hp⟩ := here
  unfold samePattern allSlots
  rw [List.find?_eq_some_iff_getElem]
  refine ⟨by simp [hi, he, hp], i, by simp, by simp, fun j hj => ?_⟩
  rw [List.getElem_finRange, Bool.not_eq_true']
  refine Bool.eq_false_iff.mpr fun hf => ?_
  obtain ⟨hne, en', he', hp'⟩ :
      (⟨j, by omega⟩ : SlotIx) ≠ slot ∧ ∃ en', look plan ⟨j, by omega⟩ = some en' ∧ en'.pattern = pattern := by
    simpa using hf
  exact lowest _ hj en' hne he' hp'

/-! ### The commands -/

theorem exec_writeEntry {s : State} {p : Params} {a : SlotIx × Entry} (ht : s.taking .writeEntry p)
    (ho : s.op ≠ .stopping) (ha : readEntry p = some a) : exec .writeEntry s =
      .next ((writeEntryBody a s).state.mail (Mailbox.post (writeEntryBody a s).code (writeEntryBody a s).bytes)) :=
  takeChecked _ ht ha (outsideStopping_of_ne ho)

/-- Settles O48: the bytes of an entry read as the entry, and the search for its pattern in the other slots decides. -/
theorem dialPlanEntriesAreWrittenAndCleared : Obligations.DialPlanEntriesAreWrittenAndCleared := by
  unfold Obligations.DialPlanEntriesAreWrittenAndCleared
  refine ⟨fun slot en s p ht ho h0 hn h1 h12 hy ha h4 => ?write, fun slot s p ht ho h0 => ?clear⟩
  case clear => exact takeChecked _ ht (readFin_eq_some h0) (outsideStopping_of_ne ho)
  case write =>
    have symbols : ∀ i y (hi : i < 12), en.pattern[i]? = some y →
        (look p ⟨8 + i / 2, by omega⟩).toNat / 16 ^ (i % 2) % 16 = y.code := by
      intro i y hi h
      rw [hy i y hi h]
      rcases y with (_ | _ | _) | _ <;> rfl
    have action : en.action.spelled (look p 2) (look p 3) ∧ actionFits en.action en.pattern = true := by
      cases he : en.action with
      | extension o =>
        rw [he] at ha
        obtain ⟨hc, harg, hx⟩ := ha
        exact ⟨⟨hc, harg⟩, by simpa [actionFits] using hx⟩
      | _ => rw [he] at ha; exact ⟨ha, rfl⟩
    have read := readEntry_eq_some h0 (readPattern_eq_some hn h1 h12 symbols) action.1 action.2 h4
    rw [exec_writeEntry ht ho read, writeEntryBody]
    refine ⟨fun other => ?new, fun i en' hi he hp lowest => ?duplicate⟩
    case new => rw [samePattern_eq_none.mpr other]; rfl
    case duplicate => rw [samePattern_eq_some ⟨en', hi, he, hp⟩ lowest]

end Sys2Proof.Machine
end

section
/-! The reading commands (R92, R97, R137, R158, R177): the bytes of the session record, the packed digits, and the codes of
their fields (R178). -/

namespace Sys2Proof.Machine

/-! ### Codes below their bounds -/

theorem ChanClass.code_lt (x : ChanClass) : x.code < 4 := by cases x <;> decide
theorem DigitMode.code_lt (x : DigitMode) : x.code < 4 := by cases x <;> decide
theorem FlashMode.code_lt (x : FlashMode) : x.code < 2 := by cases x <;> decide
theorem ToneOut.code_lt (x : ToneOut) : x.code < 2 := by cases x <;> decide

theorem digitCode_lt (d : Digit) : digitCode d < 16 := by
  rcases d with n | _ | _
  · exact n.isLt.trans (by decide)
  all_goals decide

@[simp] theorem byteOf_toNat (n : Nat) : (byteOf n).toNat = n % 256 := BitVec.toNat_ofNat n 8

/-! ### Packed fields -/

/-- The configuration byte holds its five fields (R158). -/
theorem configByte_fields (r : Session) :
    let v := byteOf (r.cls.code + 4 * r.digitMode.code + 16 * r.serviceClass + 64 * r.flashMode.code +
      128 * r.toneKind.code)
    v.toNat % 4 = r.cls.code ∧ v.toNat / 4 % 4 = r.digitMode.code ∧ v.toNat / 16 % 4 = r.serviceClass.val ∧
      v.toNat / 64 % 2 = r.flashMode.code ∧ v.toNat / 128 = r.toneKind.code := by
  have h1 := r.cls.code_lt
  have h2 := r.digitMode.code_lt
  have h3 := r.serviceClass.isLt
  have h4 := r.flashMode.code_lt
  have h5 := r.toneKind.code_lt
  simp only [byteOf_toNat]
  omega

/-- The cadence byte holds the cycles and the phase (R158). -/
theorem cadenceByte_fields (cycles : Nat) (on : Bool) :
    let v := byteOf (cycles % 16 + 128 * bit on)
    v.toNat % 16 = cycles % 16 ∧ v.toNat / 16 = if on then 8 else 0 := by
  cases on <;> simp [bit] <;> omega

/-- The levels byte holds the four levels (R158). -/
theorem levelsByte_fields (a b c d : Bool) :
    let v := byteOf (bit a + 2 * bit b + 4 * bit c + 8 * bit d)
    v.toNat < 16 ∧ v.getLsbD 0 = a ∧ v.getLsbD 1 = b ∧ v.getLsbD 2 = c ∧ v.getLsbD 3 = d := by
  revert a b c d
  decide

/-- Digit `i` is a half of byte `i / 2`, the earlier of two in the low half (R178). -/
theorem packDigits_getElem? (ds : List Digit) (i : Nat) (d : Digit) (h : ds[i]? = some d) :
    ∃ v, (packDigits ds)[i / 2]? = some v ∧ v.toNat / 16 ^ (i % 2) % 16 = digitCode d := by
  induction ds using packDigits.induct generalizing i with
  | case1 => simp at h
  | case2 e =>
    obtain rfl | i := i
    · obtain rfl : e = d := by simpa using h
      have := digitCode_lt e
      exact ⟨_, rfl, by simp; omega⟩
    · simp at h
  | case3 e e' ds ih =>
    have he := digitCode_lt e
    have he' := digitCode_lt e'
    match i with
    | 0 =>
      obtain rfl : e = d := by simpa using h
      exact ⟨_, rfl, by simp; omega⟩
    | 1 =>
      obtain rfl : e' = d := by simpa using h
      exact ⟨_, rfl, by simp; omega⟩
    | i + 2 =>
      rw [show (i + 2) / 2 = i / 2 + 1 by omega, show (i + 2) % 2 = i % 2 by omega]
      exact ih i (by simpa using h)

/-! ### The session record -/

theorem qualifierBytes_two (s : State) (c : Chan) : ∃ x y, qualifierBytes s c = [x, y] := by
  unfold qualifierBytes
  split <;> exact ⟨_, _, rfl⟩

/-- The record from byte 20 begins with the qualifiers. -/
theorem sessionRecord_qualifiers {s : State} {c : Chan} {x y : Byte} (h : qualifierBytes s c = [x, y]) :
    (sessionRecord s c)[20]? = some x ∧ (sessionRecord s c)[21]? = some y := by
  simp only [sessionRecord, h]
  exact ⟨rfl, rfl⟩

/-- The record from byte 22: the queue position, the notices, and the digits. -/
theorem sessionRecord_tail (s : State) (c : Chan) (n : Nat) : (sessionRecord s c)[n + 22]? =
    (queuePosition s.calls c :: BitVec.ofNat 8 (s.noticesAt c).toNat :: BitVec.ofNat 8 ((s.noticesAt c).toNat / 256) ::
      byteOf (s.calls.ses c).digits.length :: packDigits (s.calls.ses c).digits)[n]? := by
  obtain ⟨x, y, h⟩ := qualifierBytes_two s c
  simp only [sessionRecord, h, noticeBytes_eq]
  rfl

theorem placeIn_of_mem {c : Chan} {q : List Chan} (h : c ∈ q) : placeIn c q = byteOf (q.idxOf c + 1) := by
  simp [placeIn, h]

theorem queuePosition_seized {k : Calls} {c : Chan} (h : (k.ses c).state = .seized) :
    queuePosition k c = placeIn c k.rxQueue := by
  rw [queuePosition, h]

theorem queuePosition_queued {k : Calls} {c : Chan} {g : GroupIx} (h : (k.ses c).state = .queued)
    (hg : (k.ses c).curGroup = some g) : queuePosition k c = placeIn c (k.group g).queue := by
  rw [queuePosition, h, hg]

theorem queuePosition_elsewhere {k : Calls} {c : Chan} (hs : (k.ses c).state ≠ .seized)
    (hq : (k.ses c).state ≠ .queued) : queuePosition k c = 0xFF := by
  unfold queuePosition
  split
  · next h => exact absurd h hs
  · next h _ => exact absurd h hq
  · rfl

/-! ### The commands -/

theorem exec_readSession {s : State} {p : Params} {c : Chan} (ht : s.taking .readSession p) (hc : (look p 0).toNat = c) :
    exec .readSession s = .next (s.mail (Mailbox.post .ok (sessionRecord s c))) :=
  takeChecked _ ht (readChan_eq_some hc) rfl

theorem exec_readDigits {s : State} {p : Params} {c : Chan} (ht : s.taking .readDigits p) (hc : (look p 0).toNat = c) :
    exec .readDigits s = .next (s.mail (Mailbox.post .ok (digitsResult s.calls c))) :=
  takeChecked _ ht (readChan_eq_some hc) rfl

theorem exec_readGroup {s : State} {p : Params} {g : GroupIx} (ht : s.taking .readGroup p) (hg : (look p 0).toNat = g) :
    exec .readGroup s = .next (s.mail (Mailbox.post .ok (groupResult s.calls g))) :=
  takeChecked _ ht (readFin_eq_some hg) rfl

theorem exec_readBridge {s : State} {p : Params} {b : BridgeIx} (ht : s.taking .readBridge p)
    (hb : (look p 0).toNat = b) : exec .readBridge s = .next (s.mail (Mailbox.post .ok (bridgeResult s.calls b))) :=
  takeChecked _ ht (readFin_eq_some hb) rfl

theorem exec_readParam {s : State} {p : Params} {i : ParamIx} (ht : s.taking .readParam p) (hi : (look p 0).toNat = i) :
    exec .readParam s = .next (s.mail (Mailbox.post .ok (paramResult s i))) :=
  takeChecked _ ht (readFin_eq_some hi) rfl

/-- Settles O41: each command posts its record, whose bytes are read off it; the codes are the tables of section 8.7. -/
theorem readingCommandsChangeNothing : Obligations.ReadingCommandsChangeNothing := by
  unfold Obligations.ReadingCommandsChangeNothing
  refine ⟨fun c s p r left ht hc hr hl => ?session, fun c s p ht hc => ?digits, fun g s p ht hg => exec_readGroup ht hg,
    fun k g x hx => ?group, fun b s p ht hb => exec_readBridge ht hb, fun i s p ht hi => exec_readParam ht hi, ?codes⟩
  case group => subst hx; rfl
  case digits => exact ⟨_, exec_readDigits ht hc, packDigits_getElem? _⟩
  case codes =>
    refine ⟨rfl, rfl, rfl, rfl, rfl, ⟨rfl, fun _ => rfl⟩, ⟨rfl, fun _ => rfl, fun _ => rfl, rfl⟩, ⟨fun _ => rfl, rfl, rfl⟩,
      rfl, rfl, rfl, rfl, rfl, rfl⟩
  case session =>
    subst hr hl
    have tail := sessionRecord_tail s c
    refine ⟨sessionRecord s c, exec_readSession ht hc, rfl, ⟨_, rfl, configByte_fields _⟩, rfl, rfl, rfl, rfl, rfl, rfl, rfl,
      rfl, rfl, rfl, ⟨_, rfl, cadenceByte_fields _ _⟩, rfl, rfl, rfl, rfl, rfl, rfl, ⟨_, rfl, levelsByte_fields _ _ _ _⟩,
      fun h => ?station, fun h => ?trunk, fun h => ?unused, fun hs hq => ?seized, fun g hs hg hq => ?queued,
      fun hs hq => ?elsewhere, tail 1, tail 2, tail 3, fun i d hd => ?list⟩
    case station => exact sessionRecord_qualifiers (by rw [qualifierBytes, h])
    case trunk => exact sessionRecord_qualifiers (by rw [qualifierBytes, h]; rfl)
    case unused => exact sessionRecord_qualifiers (by rw [qualifierBytes, h])
    case seized => exact (tail 0).trans (congrArg some ((queuePosition_seized hs).trans (placeIn_of_mem hq)))
    case queued => exact (tail 0).trans (congrArg some ((queuePosition_queued hs hg).trans (placeIn_of_mem hq)))
    case elsewhere => exact (tail 0).trans (congrArg some (queuePosition_elsewhere hs hq))
    case list =>
      rw [show 26 + i / 2 = i / 2 + 4 + 22 by omega, tail]
      exact packDigits_getElem? _ i d hd

end Sys2Proof.Machine
end

section
/-! The end of a collection (R81 to R89): the list as the verdict finds it, the records when the receiver has been
returned, and each verdict's end. -/

namespace Sys2Proof.Machine

/-! ### The number dialled -/

/-- The digit dialled in a place of `X` (R88). -/
def digitAtX : PatSym × Digit → Option Nat
  | (.x, .num n) => some n.val
  | _ => none

theorem numberAtXs_eq (pattern : List PatSym) (ds : List Digit) :
    numberAtXs pattern ds = ((pattern.zip ds).filterMap digitAtX).foldl (fun a n => 10 * a + n) 0 := by
  unfold numberAtXs
  congr 2

theorem dialledNumber_eq_foldl (pattern : List PatSym) (ds : List Digit) (acc : Nat) :
    dialledNumber pattern ds acc = ((pattern.zip ds).filterMap digitAtX).foldl (fun a n => 10 * a + n) acc := by
  induction pattern generalizing ds acc with
  | nil => rfl
  | cons y pattern ih =>
    cases ds with
    | nil => cases y <;> rfl
    | cons d ds =>
      rcases y with _ | _ <;> rcases d with n | _ | _
      case x.num => rw [dialledNumber, ih, mul_comm]; rfl
      all_goals exact ih ds acc

theorem dialledNumber_eq (pattern : List PatSym) (ds : List Digit) :
    dialledNumber pattern ds 0 = numberAtXs pattern ds := by
  rw [dialledNumber_eq_foldl, numberAtXs_eq]

/-! ### Channels that stand, both ways -/

theorem Calls.sameAt_symm {d : Chan} {k l : Calls} (h : Calls.sameAt d k l) : Calls.sameAt d l k := by
  obtain ⟨⟨h1, h2, h3, h4⟩, h5⟩ := h
  exact ⟨⟨h1.symm, h2.symm, h3.symm, h4.symm⟩, h5.symm⟩

theorem Calls.onlyAt_symm {cs : List Chan} {k l : Calls} (h : k.onlyAt cs l) : l.onlyAt cs k := by
  obtain ⟨others, batt, ⟨receivers, queue⟩, groups, bridges⟩ := h
  exact ⟨fun d hd => Calls.sameAt_symm (others d hd), batt.symm, ⟨receivers.symm, queue.symm⟩, groups.symm, bridges.symm⟩

/-- What an originator's placement leaves depends on the parameters alone. -/
theorem Calls.placedOn_of_params {s u : State} (hp : u.params = s.params) {o m : Chan} {k l : Calls}
    (h : k.placedOn u.env o m l) : k.placedOn s.env o m l := by
  unfold Calls.placedOn at h ⊢
  rwa [State.env, hp] at h

theorem Calls.busied_of_params {s u : State} (hp : u.params = s.params) {o : Chan} {k l : Calls}
    (h : k.busied u.env o l) : k.busied s.env o l := by
  unfold Calls.busied at h ⊢
  rwa [State.env, hp] at h

theorem Calls.busyOutcome_busied (s : State) (k : Calls) (o : Chan) (ho : (k.ses o).cls ≠ .trunk) :
    k.busied s.env o (k.busyOutcome s.env o) := by
  obtain ⟨stands, only⟩ := Calls.busyOutcome_station { s with calls := k } k o ho rfl
  exact ⟨only, fun _ => stands, fun ht => absurd ht ho⟩

/-! ### The digit list -/

/-- A digit put at the end of the list of `c`, and dial tone off (R69, R70). -/
def Calls.dial (c : Chan) (d : Digit) (k : Calls) : Calls :=
  (k.alter c fun r => { r with digits := r.digits ++ [d] }).setListen c .none

theorem Calls.appendDigit_eq (e : Env) (c : Chan) (d : Digit) (k : Calls) :
    k.appendDigit e c d = (k.dial c d).actOn e c (evaluate e.plan ((k.dial c d).ses c).digits) := rfl

theorem Calls.ses_dial_self (c : Chan) (d : Digit) (k : Calls) :
    (k.dial c d).ses c = { k.ses c with digits := (k.ses c).digits ++ [d] } := by simp [Calls.dial]

theorem Calls.ses_dial_ne {c a : Chan} (h : a ≠ c) (d : Digit) (k : Calls) : (k.dial c d).ses a = k.ses a := by
  simp [Calls.dial, h.symm]

theorem Calls.onlyAt_dial (c : Chan) (d : Digit) (k : Calls) : k.onlyAt [c] (k.dial c d) := by
  refine ⟨fun a ha => ?_, rfl, ⟨rfl, rfl⟩, rfl, rfl⟩
  have hne : c ≠ a := fun e => ha (by simp [e])
  refine ⟨⟨?_, ?_, ?_, ?_⟩, ?_⟩ <;> simp [Calls.dial, hne]

/-- The records that an evaluation finds: with the digit taken, or as they stand (R69, R83). -/
def Asking.evaluated (x : Asking) (s : State) (c : Chan) : Calls :=
  match x with
  | .interdigit | .overlap => s.calls
  | .tone _ d => (x.delivered s c).calls.dial c d
  | .pulse d => s.calls.dial c (.num d)

/-- Each way to an evaluation acts on its verdict (R81, R83). -/
theorem Asking.exec_row {x : Asking} {s : State} {c : Chan} (hr : s.resetAsserted = false)
    (hc : (s.calls.ses c).cls = .station) (hs : (s.calls.ses c).state = .collecting) (hx : x.ready s c) :
    exec (x.row c) s = .next ((x.delivered s c).close
      ((x.evaluated s c).actOn (x.delivered s c).env c (x.verdict s.plan (x.list (s.calls.ses c).digits)))) := by
  cases x with
  | interdigit => exact exec_expiry (f := Calls.collectionExpiry) rfl hr hx (by rw [hs]; rfl)
  | overlap => exact exec_expiry (f := Calls.collectionExpiry) rfl hr hx (by rw [hs]; rfl)
  | tone r d =>
    obtain ⟨ho, hon, ht, ha, hd, hrx, hf⟩ := hx
    let u := Asking.delivered s c (.tone r d)
    have taken : u.hand .now (.digit r c d) = u.close (u.calls.appendDigit u.env c d) :=
      (State.hand_fresh (s := u) hf).trans (congrArg u.close (if_pos ⟨ho, hs, hrx⟩))
    rw [Calls.appendDigit_eq, Calls.ses_dial_self] at taken
    exact (exec_toneOnMinExpiry hr hon ht ha hd).trans (congrArg _ taken)
  | pulse d =>
    obtain ⟨ho, hm, hoff, ht, hd, hf⟩ := hx
    let u := Asking.delivered s c (.pulse d)
    have taken : u.deliver .now c (some (.pulseDigit (.num d))) = u.close (u.calls.appendDigit u.env c (.num d)) :=
      (State.deliver_fresh (s := u) (v := .pulseDigit (.num d)) ho hc hf).trans (congrArg u.close (if_pos ⟨ho, hs, hm⟩))
    rw [Calls.appendDigit_eq, Calls.ses_dial_self] at taken
    refine (exec_pulseMakeEndExpiry .now c hr hoff ht).trans ?_
    rw [pulseDigitOf_eq_some hd]
    exact congrArg _ taken

/-! ### A dialled list -/

/-- `u` is the state of the collection of `c` in `s` when its list is `ds`: nothing else that the end of the collection
reads differs. -/
structure State.Dialled (s u : State) (c : Chan) (ds : List Digit) : Prop where
  station : (s.calls.ses c).cls = .station
  collecting : (s.calls.ses c).state = .collecting
  served : c ∉ s.calls.rxQueue
  own : u.calls.ses c = { s.calls.ses c with digits := ds }
  others : ∀ d, d ≠ c → u.calls.ses d = s.calls.ses d
  queue : u.calls.rxQueue = s.calls.rxQueue
  notices : u.noticesAt c = s.noticesAt c
  params : u.params = s.params
  plan : u.plan = s.plan

/-- The state that an evaluation finds. -/
def Asking.asked (x : Asking) (s : State) (c : Chan) : State := { x.delivered s c with calls := x.evaluated s c }

theorem Asking.dialled (x : Asking) {s : State} {c : Chan} (hc : (s.calls.ses c).cls = .station)
    (hs : (s.calls.ses c).state = .collecting) (hq : c ∉ s.calls.rxQueue) :
    s.Dialled (x.asked s c) c (x.list (s.calls.ses c).digits) := by
  cases x with
  | interdigit | overlap => exact ⟨hc, hs, hq, rfl, fun _ _ => rfl, rfl, rfl, rfl, rfl⟩
  | tone r d =>
    exact ⟨hc, hs, hq, Calls.ses_dial_self .., fun _ h => Calls.ses_dial_ne h .., rfl, rfl, rfl, rfl⟩
  | pulse d => exact ⟨hc, hs, hq, Calls.ses_dial_self .., fun _ h => Calls.ses_dial_ne h .., rfl, rfl, rfl, rfl⟩

theorem Asking.onlyAt_evaluated (x : Asking) (s : State) (c : Chan) :
    (x.delivered s c).calls.onlyAt [c] (x.evaluated s c) := by
  cases x with
  | interdigit | overlap => exact Calls.onlyAt_refl ..
  | tone r d => exact Calls.onlyAt_dial ..
  | pulse d => exact Calls.onlyAt_dial ..

theorem Asking.ses_delivered (x : Asking) (s : State) (c d : Chan) : (x.delivered s c).calls.ses d = s.calls.ses d := by
  cases x <;> rfl

theorem Asking.rxQueue_delivered (x : Asking) (s : State) (c : Chan) :
    (x.delivered s c).calls.rxQueue = s.calls.rxQueue := by
  cases x <;> rfl

/-! ### The receiver returned -/

/-- The records when the receiver of a collection has been returned and a placement attempt may begin (R84 to R89, R99). -/
def Calls.ended (e : Env) (c : Chan) (k : Calls) : Calls := (k.giveUp e c).newAttempt c

theorem Calls.onlyAt_ended {e : Env} {c : Chan} {k l : Calls} (hl : (k.giveUp e c).onlyAt [c] l) :
    (k.ended e c).onlyAt [c] l :=
  Calls.onlyAt_trans (Calls.onlyAt_symm (Calls.onlyAt_alter (by simp) ..)) hl

theorem Calls.toHostwait_station {c : Chan} {k : Calls} (hc : (k.ses c).cls = .station) :
    (k.toHostwait c).stands c ((k.ses c).moved .hostwait) .none noOutput (look k.notices c) := by
  have closed : (ChanClass.station == .trunk) = false := rfl
  have := Calls.stands_enter c .hostwait id k
  simpa [Calls.toHostwait, Session.listen, Session.levels, hc, closed, noOutput] using this

theorem Calls.ringSet_congr {k l : Calls} {c : Chan} (hs : ∀ d, (l.ses d).state = (k.ses d).state)
    (hp : ∀ d, (l.ses d).peer = (k.ses d).peer) : l.ringSet c = k.ringSet c := by
  unfold Calls.ringSet
  simp only [hs, hp]

/-- A collection given up has no receiver left. -/
theorem Calls.giveUp_unlent {e : Env} {c : Chan} {k : Calls} (hs : (k.ses c).state = .collecting) (hq : c ∉ k.rxQueue) :
    (k.giveUp e c).ses c = { k.ses c with receiver := none } := by
  unfold Calls.giveUp
  rw [hs]
  dsimp only
  split
  · next r hr =>
    obtain ⟨⟨h1, -⟩, -⟩ := Calls.sameAt_returnReceiver e r c (k.alter c fun x => { x with receiver := none }) hq
    rw [h1, Calls.ses_alter_self]
  · next hr => rw [← hr]

theorem Asking.gaveUp_ended (x : Asking) {s : State} {c : Chan}
    (h : s.Dialled (x.asked s c) c (x.list (s.calls.ses c).digits)) :
    (x.delivered s c).gaveUp c [c] ((x.evaluated s c).ended (x.delivered s c).env c) := by
  have hst : ((x.delivered s c).calls.ses c).state = .collecting := by rw [x.ses_delivered, h.collecting]
  have hq : c ∉ (x.delivered s c).calls.rxQueue := x.rxQueue_delivered s c ▸ h.served
  have same : ∀ d, ((x.evaluated s c).ses d).state = ((x.delivered s c).calls.ses d).state ∧
      ((x.evaluated s c).ses d).peer = ((x.delivered s c).calls.ses d).peer ∧
      ((x.evaluated s c).ses d).receiver = ((x.delivered s c).calls.ses d).receiver := by
    intro d
    rw [x.ses_delivered]
    by_cases hd : d = c
    · subst hd
      rw [show (x.evaluated s d).ses d = _ from h.own]
      exact ⟨rfl, rfl, rfl⟩
    · rw [show (x.evaluated s c).ses d = _ from h.others d hd]
      exact ⟨rfl, rfl, rfl⟩
  have only := (x.onlyAt_evaluated s c).giveUp (c := c) (x.delivered s c).env (same c).1 (same c).2.2 (same c).2.1
    (Calls.ringSet_congr (fun d => (same d).1) fun d => (same d).2.1) (by simp [hst, SState.aside])
  refine State.gaveUp_trans _ c [c] _ _ (State.giveUp_collection hst hq)
    (Calls.onlyAt_trans only (Calls.onlyAt_alter (by simp) ..)) (by simp) fun d hd => ?_
  simpa using ne_of_mem_of_not_mem (Calls.linked_collecting hst hd) hq

namespace State.Dialled

variable {s u : State} {c : Chan} {ds : List Digit} (h : s.Dialled u c ds)

include h

theorem still_collecting : (u.calls.ses c).state = .collecting := by rw [h.own]; exact h.collecting

theorem not_waiting : c ∉ u.calls.rxQueue := h.queue ▸ h.served

theorem recorded (ns : List Notice) : u.recorded ns c = s.recorded ns c := by
  rw [State.recorded, State.recorded, h.params, show look u.calls.notices c = _ from h.notices]
  rfl

theorem timerOf (kind : TimerKind) (i : ParamIx) : u.timerOf kind i = s.timerOf kind i := by
  rw [State.timerOf, State.timerOf, h.params]

theorem ses_ended : (u.calls.ended u.env c).ses c =
    { s.calls.ses c with digits := ds, receiver := none, tried := 0, curGroup := none } := by
  rw [Calls.ended, Calls.newAttempt, Calls.ses_alter_self, Calls.giveUp_unlent h.still_collecting h.not_waiting, h.own]

theorem ses_ended_ne {d : Chan} (hd : d ≠ c) (hw : d ∉ s.calls.rxQueue) :
    (u.calls.ended u.env c).ses d = s.calls.ses d := by
  obtain ⟨-, -, others, -⟩ := Calls.giveUp_collecting u.env c u.calls h.still_collecting h.not_waiting
  obtain ⟨⟨stands, -⟩, -⟩ := others d hd (h.queue ▸ hw)
  rw [Calls.ended, Calls.newAttempt, Calls.ses_alter_ne _ _ _ _ hd.symm, stands, h.others d hd]

theorem notices_ended : look (u.calls.ended u.env c).notices c = s.noticesAt c := by
  obtain ⟨-, notices, -⟩ := Calls.giveUp_collecting u.env c u.calls h.still_collecting h.not_waiting
  exact notices.trans h.notices

/-! ### The ends -/

/-- A collection that ends in TONEOUT REORDER with a notice (R84, R85, R86). -/
theorem reordered (n : Notice) : s.reordered c ds [n] (u.calls.ended u.env c)
    ((u.calls.endReorder u.env c).raise u.env n c) := by
  have stands := Calls.stands_raise u n (Calls.endReorder_stands u c h.still_collecting h.not_waiting)
  rw [h.recorded, h.timerOf, h.own] at stands
  exact ⟨Calls.onlyAt_ended (Calls.onlyAt_trans (Calls.onlyAt_enter (by simp) ..) (Calls.onlyAt_raise (by simp) ..)), stands⟩

/-- A collection that ends in HOSTWAIT (R87). -/
theorem referred : (u.calls.ended u.env c).onlyAt [c] (((u.calls.giveUp u.env c).toHostwait c).raise u.env .refer c) ∧
    (((u.calls.giveUp u.env c).toHostwait c).raise u.env .refer c).stands c
      { (s.calls.ses c).moved .hostwait with digits := ds } .none noOutput (s.recorded [.refer] c) := by
  obtain ⟨-, notices, -⟩ := Calls.giveUp_collecting u.env c u.calls h.still_collecting h.not_waiting
  have own : (u.calls.giveUp u.env c).ses c = { s.calls.ses c with digits := ds, receiver := none } := by
    rw [Calls.giveUp_unlent h.still_collecting h.not_waiting, h.own]
  have entered := Calls.toHostwait_station (c := c) (k := u.calls.giveUp u.env c) (by rw [own]; exact h.station)
  rw [own, notices] at entered
  have stands := Calls.stands_raise u .refer entered
  rw [h.recorded] at stands
  exact ⟨Calls.onlyAt_ended (Calls.onlyAt_trans (Calls.onlyAt_enter (by simp) ..) (Calls.onlyAt_raise (by simp) ..)), stands⟩

/-- The channel of a number is no destination when it is UNUSED, BLOCKED or the station itself, or there is none (R88). -/
theorem destination_eq_none {n : Nat}
    (hn : ∀ d : Chan, n = d.val → (s.calls.ses d).cls = .unused ∨ (s.calls.ses d).state = .blocked ∨ d = c) :
    u.calls.destination c n = none := by
  unfold Calls.destination
  split
  · next hlt =>
    refine if_pos ?_
    by_cases hd : (⟨n, hlt⟩ : Chan) = c
    · exact .inr (.inr hd)
    · rw [h.others _ hd]
      exact hn ⟨n, hlt⟩ rfl
  · rfl

theorem destination_eq_some {d : Chan} (hcls : (s.calls.ses d).cls ≠ .unused) (hst : (s.calls.ses d).state ≠ .blocked)
    (hd : d ≠ c) : u.calls.destination c d = some d := by
  unfold Calls.destination
  rw [dif_pos d.isLt]
  exact if_neg (by simp [h.others d hd, hcls, hst, hd])

/-- A completion that names no channel to be placed on is vacant (R88). -/
theorem endDirect_vacant {n : Nat}
    (hn : ∀ d : Chan, n = d.val → (s.calls.ses d).cls = .unused ∨ (s.calls.ses d).state = .blocked ∨ d = c) :
    s.reordered c ds [.vacant] (u.calls.ended u.env c) (u.calls.endDirect u.env c n) := by
  rw [Calls.endDirect, h.destination_eq_none hn]
  exact h.reordered .vacant

theorem giveUp_ses_ne {d : Chan} (hd : d ≠ c) (hw : d ∉ s.calls.rxQueue) :
    (u.calls.giveUp u.env c).ses d = s.calls.ses d := by
  rw [← h.ses_ended_ne hd hw, Calls.ended, Calls.newAttempt, Calls.ses_alter_ne _ _ _ _ hd.symm]

theorem not_trunk : ((u.calls.ended u.env c).ses c).cls ≠ .trunk := by
  rw [h.ses_ended]
  simp [h.station]

/-- A completion that names a channel in IDLE places on it (R88, R105). -/
theorem endDirect_idle {d : Chan} (hcls : (s.calls.ses d).cls ≠ .unused) (hst : (s.calls.ses d).state = .idle)
    (hd : d ≠ c) (hw : d ∉ s.calls.rxQueue) :
    (u.calls.ended u.env c).placedOn s.env c d (u.calls.endDirect u.env c d) := by
  have placed : u.calls.endDirect u.env c d = (u.calls.ended u.env c).placeOn u.env c d := by
    rw [Calls.endDirect, h.destination_eq_some hcls (by simp [hst]) hd]
    have own : ((u.calls.giveUp u.env c).ses c).cls = .station := by
      rw [Calls.giveUp_unlent h.still_collecting h.not_waiting, h.own]
      exact h.station
    have there : ((u.calls.giveUp u.env c).newAttempt c).ses d = s.calls.ses d := h.ses_ended_ne hd hw
    cases hk : (s.calls.ses d).cls with
    | unused => exact absurd hk hcls
    | station | trunk =>
      simp [Calls.placeDirect, Calls.placeOn, Calls.ended, h.giveUp_ses_ne hd hw, there, hst, hk, own]
  rw [placed]
  refine Calls.placedOn_of_params h.params (Calls.placeOn_placedOn u c d _ hd ?_)
  rw [h.ses_ended]
  simp [h.collecting, SState.rings]

/-- A completion that names a channel that is not in IDLE is busy (R103, R105). -/
theorem endDirect_busy {d : Chan} (hcls : (s.calls.ses d).cls ≠ .unused) (hst : (s.calls.ses d).state ≠ .blocked)
    (hd : d ≠ c) (hw : d ∉ s.calls.rxQueue) (hb : (s.calls.ses d).state ≠ .idle) :
    (u.calls.ended u.env c).busied s.env c (u.calls.endDirect u.env c d) := by
  have busy : u.calls.endDirect u.env c d = (u.calls.ended u.env c).busyOutcome u.env c := by
    rw [Calls.endDirect, h.destination_eq_some hcls hst hd]
    dsimp only
    rw [Calls.placeDirect, h.giveUp_ses_ne hd hw]
    cases hk : (s.calls.ses d).state with
    | idle => exact absurd hk hb
    | _ => rfl
  rw [busy]
  exact Calls.busied_of_params h.params (Calls.busyOutcome_busied u _ c h.not_trunk)

theorem actOn_complete {i : SlotIx} {en : Entry} (hen : look s.plan i = some en) :
    u.calls.actOn u.env c (.complete i) = u.calls.endComplete u.env c en := by
  have found : look u.env.plan i = some en := by rw [State.env, h.plan, hen]
  rw [Calls.actOn, found]

/-- A station below the entry's class, and an entry that denies, are barred (R85, R86). -/
theorem endComplete_barred {en : Entry} (hb : (s.calls.ses c).serviceClass < en.minClass ∨ en.action = .deny) :
    s.reordered c ds [.barred] (u.calls.ended u.env c) (u.calls.endComplete u.env c en) := by
  have barred : u.calls.endComplete u.env c en = u.calls.endBarred u.env c := by
    unfold Calls.endComplete
    split
    · rfl
    · next hn =>
      rw [h.own] at hn
      rw [hb.resolve_left hn]
  rw [barred]
  exact h.reordered .barred

/-- A station of the entry's class or above goes by the entry's action (R85). -/
theorem allowed {en : Entry} (hmin : en.minClass ≤ (s.calls.ses c).serviceClass) :
    ¬ (u.calls.ses c).serviceClass < en.minClass := by
  rw [h.own]
  exact hmin.not_gt

theorem endComplete_refer {en : Entry} (hmin : en.minClass ≤ (s.calls.ses c).serviceClass) (ha : en.action = .refer) :
    (u.calls.ended u.env c).onlyAt [c] (u.calls.endComplete u.env c en) ∧
      (u.calls.endComplete u.env c en).stands c
        { (s.calls.ses c).moved .hostwait with digits := ds } .none noOutput (s.recorded [.refer] c) := by
  rw [Calls.endComplete, if_neg (h.allowed hmin), ha]
  exact h.referred

theorem endComplete_group {en : Entry} {g : GroupIx} (hmin : en.minClass ≤ (s.calls.ses c).serviceClass)
    (ha : en.action = .group g) :
    u.calls.endComplete u.env c en = (u.calls.ended u.env c).hunt u.env huntFuel g c := by
  rw [Calls.endComplete, if_neg (h.allowed hmin), ha]
  rfl

/-- An entry that names a number places directly on it (R88). -/
theorem endComplete_eq_endDirect {en : Entry} {n : Nat} (hmin : en.minClass ≤ (s.calls.ses c).serviceClass)
    (hn : en.names ds n) : u.calls.endComplete u.env c en = u.calls.endDirect u.env c n := by
  rw [Calls.endComplete, if_neg (h.allowed hmin)]
  rcases hn with ⟨d, ha, rfl⟩ | ⟨o, ha, rfl⟩
  · rw [ha]
  · rw [ha]
    dsimp only
    rw [show (u.calls.ses c).digits = ds by rw [h.own], dialledNumber_eq]

theorem endComplete_names {en : Entry} {n : Nat} (hmin : en.minClass ≤ (s.calls.ses c).serviceClass)
    (hn : en.names ds n) :
    ((∀ d : Chan, n = d.val → (s.calls.ses d).cls = .unused ∨ (s.calls.ses d).state = .blocked ∨ d = c) →
      s.reordered c ds [.vacant] (u.calls.ended u.env c) (u.calls.endComplete u.env c en)) ∧
    ∀ d : Chan, n = d.val → (s.calls.ses d).cls ≠ .unused → (s.calls.ses d).state ≠ .blocked → d ≠ c →
      d ∉ s.calls.rxQueue →
      ((s.calls.ses d).state = .idle →
        (u.calls.ended u.env c).placedOn s.env c d (u.calls.endComplete u.env c en)) ∧
      ((s.calls.ses d).state ≠ .idle →
        (u.calls.ended u.env c).busied s.env c (u.calls.endComplete u.env c en)) := by
  rw [h.endComplete_eq_endDirect hmin hn]
  refine ⟨fun hno => h.endDirect_vacant hno, fun d hd hcls hst hne hw => ?_⟩
  subst hd
  exact ⟨fun hi => h.endDirect_idle hcls hi hne hw, fun hb => h.endDirect_busy hcls hst hne hw hb⟩

end State.Dialled

/-! ### The verdicts -/

theorem Asking.time_delivered (x : Asking) (s : State) (c : Chan) (i : ParamIx) :
    (x.delivered s c).env.time i = look s.params.current i := by
  cases x <;> rfl

theorem evaluateAtExpiry_ends (plan : Vector (Option Entry) 128) (ds : List Digit) :
    evaluateAtExpiry plan ds ≠ .wait ∧ evaluateAtExpiry plan ds ≠ .waitShort := by
  unfold evaluateAtExpiry
  split <;> simp

/-- A verdict that waits for more digits starts its timer (R82): it is one on a digit just taken. -/
theorem Asking.waiting {x : Asking} {s : State} {c : Chan} {ds : List Digit} (hd : ds = x.list (s.calls.ses c).digits)
    (hv : x.verdict s.plan ds = .wait ∨ x.verdict s.plan ds = .waitShort) (kind : TimerKind) (left : Nat) :
    (x.evaluated s c).alter c (fun r => r.startTimer kind left) = { (x.delivered s c).calls with
      listen := put s.calls.listen c .none
      sessions := put s.calls.sessions c { s.calls.ses c with digits := ds, timer := some ⟨kind, left⟩ } } := by
  subst hd
  cases x with
  | interdigit | overlap => exact (hv.elim (evaluateAtExpiry_ends ..).1 (evaluateAtExpiry_ends ..).2).elim
  | tone | pulse =>
    simp [Asking.evaluated, Asking.delivered, Asking.list, Calls.dial, Calls.alter, Calls.setSes, Calls.setListen,
      Calls.ses, Session.startTimer]

/-- Settles O27: each way to an evaluation acts on its verdict, on the records with the list as it is then; each verdict
by the lemma about its end. -/
theorem collectionsGoByTheirVerdict : Obligations.CollectionsGoByTheirVerdict := by
  unfold Obligations.CollectionsGoByTheirVerdict
  intro x c ds s hr hc hs hq hx hds
  have h := hds ▸ x.dialled hc hs hq
  have row := hds ▸ Asking.exec_row hr hc hs hx
  refine ⟨_, row, fun hv => ?wait, fun hv => ?waitShort, fun _ _ => ⟨(x.evaluated s c).ended (x.delivered s c).env c,
    x.gaveUp_ended (hds ▸ h), h.ses_ended, h.notices_ended, fun hv => ?vacant, fun i en hv hen => ?complete⟩⟩
  case wait =>
    rw [hv, State.timerOf, ← x.time_delivered s c]
    exact Asking.waiting hds (.inl hv) .interdigit _
  case waitShort =>
    rw [hv, State.timerOf, ← x.time_delivered s c]
    exact Asking.waiting hds (.inr hv) .overlap _
  case vacant =>
    rw [hv]
    exact h.reordered .vacant
  case complete =>
    rw [hv, show (x.evaluated s c).actOn (x.delivered s c).env c (.complete i) = _ from h.actOn_complete hen]
    exact ⟨fun hb => h.endComplete_barred hb, fun hm => ⟨fun ha => h.endComplete_refer hm ha,
      fun g ha => h.endComplete_group hm ha, fun n hn => h.endComplete_names hm hn⟩⟩

end Sys2Proof.Machine
end

section
/-! The camp-on queues and the bridges (R115, R128): every step leaves the records lawful as a whole, through the cases of
the instruction. -/

namespace Sys2Proof.Machine

section

variable {s t : State}

/-! ### Updates beside the records -/

/-- A group is given other settings and members; its camp-on queue stands (R95, R96). -/
theorem Calls.Lawful.alterGroup {k : Calls} (h : k.Lawful) (g : GroupIx) (f : Group → Group)
    (hq : (f (k.group g)).queue = (k.group g).queue)
    (hs : (f (k.group g)).members.Nodup ∧ (f (k.group g)).queueLimit ≤ 8) : (k.alterGroup g f).Lawful := by
  obtain ⟨fits, holder, web, spare, settings⟩ := h.bound
  have ht : (k.alterGroup g f).tables = k.tables := by
    simp only [Calls.tables, Tables.mk.injEq]
    refine ⟨rfl, rfl, rfl, ?_, rfl⟩
    funext i
    rw [Calls.group_alterGroup]
    split
    · next e => exact e ▸ hq
    · rfl
  refine ⟨_, fits, holder, ht ▸ web, spare, fun i => ?_⟩
  rw [Calls.group_alterGroup]
  split
  · next e => exact e ▸ hs
  · exact settings i

/-- The ties read of a receiver whose it is and whether it is FREE. -/
theorem Web.setReceivers {B : Chan → Bond} {T : Tables} (w : Web B T) {rx : RxIx → Receiver}
    (hrx : ∀ r, (rx r).state = (T.rx r).state ∧ (rx r).assigned = (T.rx r).assigned) : Web B { T with rx := rx } := by
  intro κ
  cases κ with
  | wait =>
    obtain ⟨nodup, members, busy⟩ := w .wait
    exact ⟨nodup, members, fun hn r => (hrx r).1 ▸ busy hn r⟩
  | collect => exact fun r c => (hrx r).2 ▸ w .collect r c
  | _ => exact Kind.law_congr (Kind.same_refl _ _) (w _) rfl

/-- A millisecond changes of the call state only timers, which the ties do not read. -/
theorem State.tick_lawful (h : s.calls.Lawful) : s.tick.calls.Lawful := by
  obtain ⟨fits, holder, web, spare, settings⟩ := h.bound
  have ht : s.tick.calls.tables = { s.calls.tables with rx := s.tick.calls.rx } := by
    have hb : s.tick.calls.members = s.calls.members := funext fun b => by simp [Calls.members]
    simp [Calls.tables, Calls.group, hb]
  refine ⟨s.calls.bonds, fun d hd => ?_, fun d hd => ?_, ?_, fun r => ?_, fun g => ?_⟩
  · rw [State.tick_ses]
    exact fits d hd
  · rw [State.tick_ses] at hd ⊢
    exact holder d hd
  · rw [ht]
    exact web.setReceivers fun r => by rw [State.tick_rx]; exact ⟨rfl, rfl⟩
  · rw [State.tick_rx]
    exact spare r
  · rw [Calls.group, State.tick_groups]
    exact settings g

/-- The records after hardware reset. -/
theorem Calls.reset_lawful : Calls.reset.Lawful := by
  obtain ⟨-, -, groups, -, -, -, receivers, -⟩ := resetStateIsLawful
  exact State.lawful_of_laws receivers groups State.reset_recordsLaw

/-! ### Deliveries and expiries -/

theorem State.hand_lawful (h : s.calls.Lawful) (x : Taking) (v : Delivery) : (s.hand x v).calls.Lawful := by
  unfold State.hand
  split
  · rw [State.close_calls]
    exact h.takeDelivery ..
  · exact h

theorem State.deliver_lawful (h : s.calls.Lawful) (x : Taking) (c : Chan) (ev : Option LineEvent) :
    (s.deliver x c ev).calls.Lawful := by
  unfold State.deliver
  split
  · exact State.hand_lawful h ..
  · exact h

theorem State.route_lawful (h : s.calls.Lawful) (x : Taking) (r : Report) : (s.route x r).calls.Lawful := by
  unfold State.route
  split
  case h_1 => exact State.deliver_lawful (s := s.setLoopQ _ _) h ..
  case h_3 => exact h.setBatt ..
  all_goals exact h

theorem State.toneOn_lawful (h : s.calls.Lawful) (x : Taking) (r : RxIx) : (s.toneOn x r).calls.Lawful := by
  have h1 : (s.calls.setRx r { s.calls.rx r with state := .digit, timer := none }).Lawful := h.works rfl rfl
  unfold State.toneOn
  dsimp only
  split
  · exact State.hand_lawful (s := { s with calls := _ }) h1 ..
  · exact h1

theorem State.indication_lawful (h : s.calls.Lawful) (r : RxIx) (slot : Chan) (ind : Option Digit) :
    (s.indication r slot ind).calls.Lawful := by
  unfold State.indication
  split
  · next ha =>
    have hst : (s.calls.rx r).state.assigned = true := by
      cases hn : (s.calls.rx r).state.assigned with
      | true => rfl
      | false => cases (h.bound.spare r hn).symm.trans ha
    obtain ⟨h1, h2, -⟩ := Receiver.indicate_keeps s.params.current ind _ hst
    exact h.works h2 h1
  · exact h

theorem State.expire_lawful (h : s.calls.Lawful) {kind : TimerKind} {c : Chan} {f : Env → Chan → Calls → Calls}
    (hk : kind.runsIn (s.calls.ses c).state = true → (f s.env c s.calls).Lawful) :
    (s.expire kind c f).calls.Lawful := by
  unfold State.expire
  split
  · next hd =>
    unfold Session.due at hd
    rw [Bool.and_eq_true] at hd
    rw [State.close_calls]
    exact hk hd.2
  · exact h

/-! ### Bodies of commands -/

theorem withSessions_lawful {k : Calls} (h : k.Lawful) (c : Chan) (d : Option Chan) :
    (withSessions c d k s).state.calls.Lawful := by
  rwa [withSessions_state, State.close_calls]

theorem configureBody_lawful (h : s.calls.Lawful) (hq : s.quietLaw) (a : ConfigArgs) :
    (configureBody a s).state.calls.Lawful := by
  unfold configureBody
  split
  · exact h
  · next hn =>
    have ha : (s.calls.ses a.chan).active = false := by
      by_cases hr : s.op = .run
      · simpa [hr] using hn
      · rcases (hq hr).1 a.chan with hs | hs <;> simp [Session.active, hs]
    have hl := h.configured ha
    rw [carried_state]
    unfold State.configure
    dsimp only
    split
    · exact hl
    · simp only [State.reclassed, State.kick_calls]
      exact (hl.setBatt ..).setOut ..

theorem holdBody_lawful (h : s.calls.Lawful) (c : Chan) : (holdBody c s).state.calls.Lawful := by
  unfold holdBody
  split
  · next hp => exact withSessions_lawful (h.consult hp _) ..
  · exact h

theorem retrieveBody_lawful (h : s.calls.Lawful) (c : Chan) : (retrieveBody c s).state.calls.Lawful := by
  unfold retrieveBody
  split
  · next hp => exact withSessions_lawful (h.returnToHeld hp _) ..
  · exact h

theorem transferBody_lawful (h : s.calls.Lawful) (c : Chan) : (transferBody c s).state.calls.Lawful := by
  unfold transferBody
  split
  · next p hp =>
    have hc : (s.calls.ses c).cls = .station := (h.fits c).holder (by simp [hp])
    refine withSessions_lawful (h.transfer (fun hr => ?_) (by simp [hc]) _) ..
    have := (h.fits c).holds_none (.inl (by simp [hr, SState.holder]))
    simp [this] at hp
  · exact h

theorem dropBody_lawful (h : s.calls.Lawful) (c : Chan) : (dropBody c s).state.calls.Lawful := by
  unfold dropBody
  split
  case h_1 | h_2 | h_3 => exact h
  case h_4 hs => exact withSessions_lawful (h.dropRinging hs _) ..
  all_goals
    next hs =>
      exact withSessions_lawful (h.dropSession (by simp [hs]) ((h.fits c).used (by simp [hs])) _) ..

theorem placeBody_lawful (h : s.calls.Lawful) (a : Chan × PlaceOn) : (placeBody a s).state.calls.Lawful := by
  unfold placeBody
  split
  · next hm =>
    have hs : (s.calls.ses a.1).state = .hostwait := by
      unfold Calls.mayPlace at hm
      simp only [Bool.and_eq_true, beq_iff_eq] at hm
      exact hm.1
    have hl := h.loose (c := a.1) (by simp [hs, SState.plain])
    have hc := (h.fits a.1).used (by simp [hs])
    split
    · exact withSessions_lawful (hl.huntFresh _ _ hc) ..
    · split
      · next hr =>
        refine withSessions_lawful (hl.placeDirect _ hc ?_) ..
        unfold Calls.mayReach at hr
        simp only [Bool.and_eq_true, bne_iff_ne] at hr
        exact hr.1.1.symm
      · exact h
  · exact h

theorem connectBody_lawful (h : s.calls.Lawful) {a : Chan × Chan} (hne : a.1 ≠ a.2) :
    (connectBody a s).state.calls.Lawful := by
  unfold connectBody
  split
  · next hs => exact withSessions_lawful (h.connect hs.1 hs.2 hne) ..
  · exact h

theorem setListenBody_lawful (h : s.calls.Lawful) (a : Chan × Listen) : (setListenBody a s).state.calls.Lawful := by
  unfold setListenBody
  split
  · exact h.setListen ..
  · exact h

theorem conferenceBody_lawful (h : s.calls.Lawful) (c : Chan) : (conferenceBody c s).state.calls.Lawful := by
  unfold conferenceBody
  split
  · exact h
  · next hp =>
    split
    · exact h
    · next hb =>
      rw [carried_state, State.close_calls]
      exact h.formBridge hp hb

theorem joinBody_lawful (h : s.calls.Lawful) (a : BridgeIx × Chan) : (joinBody a s).state.calls.Lawful := by
  unfold joinBody
  split
  · exact h
  · next hl =>
    split
    · exact h
    · next hb =>
      split
      · next hj =>
        rw [carried_state, State.close_calls]
        exact h.joinBridge hb hl hj
      · exact h

theorem blockBody_lawful (h : s.calls.Lawful) (c : Chan) : (blockBody c s).state.calls.Lawful := by
  unfold blockBody
  split
  · next hs =>
    have hn : (s.calls.ses c).holds = none := (h.fits c).holds_none (.inl (by simp [hs, SState.holder]))
    exact withSessions_lawful ((h.loose (by simp [hs, SState.plain])).toBlocked hn) ..
  · exact h

theorem restoreBody_lawful (h : s.calls.Lawful) (c : Chan) : (restoreBody c s).state.calls.Lawful := by
  unfold restoreBody
  split
  · next hs =>
    have hn : (s.calls.ses c).holds = none := (h.fits c).holds_none (.inl (by simp [hs, SState.holder]))
    exact withSessions_lawful (h.enterIdle (by simp [hs, SState.plain]) hn _) ..
  · exact h

theorem withGroup_lawful (h : s.calls.Lawful) {g : GroupIx} {f : Group → Group}
    (hq : (f (s.calls.group g)).queue = (s.calls.group g).queue)
    (hs : (f (s.calls.group g)).members.Nodup ∧ (f (s.calls.group g)).queueLimit ≤ 8) :
    (withGroup g f s).state.calls.Lawful := h.alterGroup g f hq hs

theorem writeGroup_lawful (h : s.calls.Lawful) {p : Params} {a : GroupArgs} (ha : readGroupArgs p = some a) :
    (withGroup a.group (Group.written a) s).state.calls.Lawful :=
  withGroup_lawful h rfl ⟨(h.bound.settings a.group).1, (readGroupArgs_limits ha).1⟩

theorem setMembersBody_lawful (h : s.calls.Lawful) (a : GroupIx × List Chan) :
    (setMembersBody a s).state.calls.Lawful := by
  unfold setMembersBody
  split
  · next hn => exact withGroup_lawful h rfl ⟨hn, (h.bound.settings a.1).2⟩
  · exact h

theorem addMemberBody_lawful (h : s.calls.Lawful) (a : GroupIx × Chan) : (addMemberBody a s).state.calls.Lawful := by
  obtain ⟨nodup, limit⟩ := h.bound.settings a.1
  unfold addMemberBody
  dsimp only
  split
  · exact h
  · next hm =>
    split
    · exact h
    · exact withGroup_lawful h rfl ⟨nodup.append (List.nodup_singleton _) (by simpa using hm), limit⟩

theorem dropMemberBody_lawful (h : s.calls.Lawful) (a : GroupIx × Chan) :
    (dropMemberBody a s).state.calls.Lawful := by
  obtain ⟨nodup, limit⟩ := h.bound.settings a.1
  unfold dropMemberBody
  split
  · exact withGroup_lawful h rfl ⟨nodup.erase _, limit⟩
  · exact h

theorem receiverServiceBody_lawful (h : s.calls.Lawful) (a : RxIx × Bool) :
    (receiverServiceBody a s).state.calls.Lawful := by
  rw [receiverServiceBody_calls]
  split
  · exact h.putInService ..
  · exact h.withdraw ..

/-! ### The step -/

/-- Every command leaves the records lawful. -/
theorem exec_lawful (i : Instr) (h : exec i s = .next t) (hl : s.calls.Lawful) (hq : s.quietLaw) :
    t.calls.Lawful := by
  have gate : ∀ {f : State → State} {u : State}, awake f s = .next u → (f s).calls.Lawful → u.calls.Lawful :=
    fun h hf => awake_keeps (P := fun u => u.calls.Lawful) hl hf h
  have taken : ∀ {α : Type} {cmd : Cmd} {allowed : OpState → Bool} {args : Params → Option α} {body : α → State → Reply}
      {u : State}, takeCommand cmd (checked allowed args body) s = .next u →
      (∀ p a, args p = some a → (body a s).state.calls.Lawful) → u.calls.Lawful := fun h hb =>
    takeCommand_keeps (P := fun u => u.calls.Lawful) (fun _ _ h => h) hl
      (fun p => checked_keeps (P := fun u => u.calls.Lawful) hl fun a ha _ => hb p a ha) h
  cases i with
  | hardwareReset =>
    dsimp only [exec, execHardwareReset] at h
    injection h with h; subst h; exact Calls.reset_lawful
  | resetEnd =>
    dsimp only [exec, execResetEnd] at h
    injection h with h; subst h
    split
    · simpa using hl
    · exact hl
  | conditionReport byte0 byte1 stop start x =>
    dsimp only [exec, execConditionReport] at h
    refine gate h ?_
    split
    · split
      · exact State.route_lawful hl ..
      · simpa using hl
    · exact hl
  | frameCompletion =>
    dsimp only [exec, execFrameCompletion] at h
    refine gate h ?_
    split
    · simpa using hl
    · exact hl
  | frameSync v x =>
    refine gate h ?_
    obtain ⟨w, e⟩ := s.highwayFrame_same v x
    rw [e]
    exact hl
  | toneStepEnd x =>
    refine gate h ?_
    unfold State.toneStep
    dsimp only
    split <;> exact hl
  | detectorIndication r ind => exact gate h (State.indication_lawful hl ..)
  | toneOnMinExpiry r x =>
    dsimp only [exec, execToneOnMinExpiry] at h
    refine gate h ?_
    split
    · exact State.toneOn_lawful hl ..
    · exact hl
  | toneGapMinExpiry r =>
    dsimp only [exec, execToneGapMinExpiry] at h
    refine gate h ?_
    split
    · exact hl.toneGap
    · exact hl
  | seizeQualExpiry c x =>
    refine gate h ?_
    unfold State.seizeQual
    dsimp only
    split
    · exact State.deliver_lawful (s := s.setLoopQ _ _) hl ..
    · exact hl
  | flashMaxExpiry c x =>
    refine gate h ?_
    unfold State.flashMax
    dsimp only
    split
    · exact State.deliver_lawful (s := s.setLoopQ _ _) hl ..
    · exact hl
  | pulseMakeEndExpiry c x =>
    refine gate h ?_
    unfold State.pulseMakeEnd
    dsimp only
    split
    · exact State.deliver_lawful (s := s.setLoopQ _ _) hl ..
    · exact hl
  | burstTimerExpiry c x =>
    refine gate h ?_
    unfold State.burstEnd
    dsimp only
    split
    · split
      · exact State.deliver_lawful (s := s.setRingQ _ _) hl ..
      all_goals exact hl
    · exact hl
  | gapTimerExpiry c x =>
    refine gate h ?_
    unfold State.gapEnd
    dsimp only
    split
    · exact State.deliver_lawful (s := s.setRingQ _ _) hl ..
    · exact hl
  | battSeizeQualExpiry c x =>
    refine gate h ?_
    unfold State.battOn
    split
    · exact State.deliver_lawful (s := { s with calls := _ }) (hl.setBatt ..) ..
    · exact hl
  | farOpenMinExpiry c x =>
    refine gate h ?_
    unfold State.farOpen
    split
    · exact State.deliver_lawful (s := { s with calls := _ }) (hl.setBatt ..) ..
    · exact hl
  | firstDigitExpiry c =>
    exact gate h (State.expire_lawful hl fun hk => hl.endReorder (by simpa [TimerKind.runsIn] using hk) _)
  | interdigitExpiry c | overlapExpiry c =>
    exact gate h (State.expire_lawful hl fun hk => hl.actOn (by simpa [TimerKind.runsIn] using hk) _ _)
  | rxWaitExpiry c => exact gate h (State.expire_lawful hl fun _ => (hl.alterDigits c rfl).raise ..)
  | cadenceExpiry c =>
    exact gate h (State.expire_lawful (kind := .cadence) (c := c) hl fun hk => hl.cadence hk _)
  | queueWaitExpiry c =>
    exact gate h (State.expire_lawful hl fun hk => hl.queueOut (by simpa [TimerKind.runsIn] using hk) _)
  | toneoutExpiry c =>
    refine gate h (State.expire_lawful hl fun hk => ?_)
    have hs : (s.calls.ses c).state = .toneout := by simpa [TimerKind.runsIn] using hk
    exact (hl.loose (by simp [hs, SState.plain])).toLockout ((hl.fits c).station (by simp [hs]))
  | guardExpiry c =>
    refine gate h (State.expire_lawful hl fun hk => ?_)
    have hs : (s.calls.ses c).state = .releasing := by simpa [TimerKind.runsIn] using hk
    exact hl.enterIdle (by simp [hs, SState.plain]) ((hl.fits c).holds_none (.inl (by simp [hs, SState.holder]))) _
  | seizeWaitExpiry c =>
    exact gate h (State.expire_lawful hl fun hk => hl.seizeFailed (by simpa [TimerKind.runsIn] using hk) _)
  | cutThroughExpiry c =>
    exact gate h (State.expire_lawful hl fun hk => hl.cutThrough (by simpa [TimerKind.runsIn] using hk))
  | statusRead | resultRead _ | completionRead | controlWrite _ =>
    dsimp only [exec, execStatusRead, execResultRead, execCompletionRead, execControlWrite] at h
    exact gate h hl
  | paramWrite _ _ | ignoredRegisterWrite _ _ | unknown _ | commandOffer _ => exact gate h hl
  | start =>
    refine taken h fun _ _ _ => ?_
    rw [startBody_calls]
    exact hl.takeUp _
  | stop =>
    refine taken h fun _ _ _ => ?_
    rw [stopBody_calls]
    exact hl.stopAll
  | applyParams =>
    refine taken h fun _ _ _ => ?_
    unfold applyParamsBody
    split <;> exact hl
  | setParam | setNoticeMask | readParam | readSession | readDigits | readGroup | readBridge | clearEntry | setWatch
  | armWatch | disarmWatch => exact taken h fun _ _ _ => hl
  | writeEntry =>
    refine taken h fun _ _ _ => ?_
    unfold writeEntryBody
    split <;> exact hl
  | takeNotices =>
    refine taken h fun _ _ _ => ?_
    unfold takeNoticesBody
    split
    · exact hl.congr rfl rfl rfl rfl rfl
    · exact hl
  | configureChannel => exact taken h fun _ a _ => configureBody_lawful hl hq a
  | block => exact taken h fun _ c _ => blockBody_lawful hl c
  | restore => exact taken h fun _ c _ => restoreBody_lawful hl c
  | writeGroup => exact taken h fun _ _ ha => writeGroup_lawful hl ha
  | setMembers => exact taken h fun _ a _ => setMembersBody_lawful hl a
  | addMember => exact taken h fun _ a _ => addMemberBody_lawful hl a
  | dropMember => exact taken h fun _ a _ => dropMemberBody_lawful hl a
  | receiverService => exact taken h fun _ a _ => receiverServiceBody_lawful hl a
  | hold => exact taken h fun _ c _ => holdBody_lawful hl c
  | retrieve => exact taken h fun _ c _ => retrieveBody_lawful hl c
  | transfer => exact taken h fun _ c _ => transferBody_lawful hl c
  | drop => exact taken h fun _ c _ => dropBody_lawful hl c
  | place => exact taken h fun _ a _ => placeBody_lawful hl a
  | connect => exact taken h fun _ _ ha => connectBody_lawful hl (readTwoChans_ne ha)
  | setListen => exact taken h fun _ a _ => setListenBody_lawful hl a
  | conference => exact taken h fun _ c _ => conferenceBody_lawful hl c
  | join => exact taken h fun _ a _ => joinBody_lawful hl a

/-- Every step leaves the records lawful. -/
theorem step_lawful (h : step s = .next t) (hl : s.calls.Lawful) (hq : s.quietLaw) : t.calls.Lawful := by
  unfold step at h
  split at h
  · injection h with h
    subst h
    unfold State.idleStep
    split
    · exact hl
    · split
      · rw [State.takeFlying, State.close_calls]
        exact hl.takeDelivery ..
      · next c _ _ =>
        obtain ⟨w, e⟩ := s.nextSlot_same c
        rw [e]
        exact hl
      · split
        · exact State.tick_lawful hl
        · exact hl
  · exact exec_lawful _ h hl hq

end

/-- Settles O59: the ties of the records, kept by every step, include each QUEUED channel's to its camp-on queue and each
CONFER channel's to its bridge. -/
theorem everyStepKeepsTheQueuesAndBridgesInStep : Obligations.EveryStepKeepsTheQueuesAndBridgesInStep := by
  unfold Obligations.EveryStepKeepsTheQueuesAndBridgesInStep
  intro s t h hq hr hg hs
  have hl := step_lawful h (State.lawful_of_laws hr hg hs) hq
  exact ⟨hl.queuesLaw, hl.bridgesLaw⟩

end Sys2Proof.Machine
end

section
/-! The group commands (R95, R96): what each reads from its parameters, and the group it leaves. -/

namespace Sys2Proof.Machine

section

variable {s : State} {p : Params} {g : GroupIx} {c : Chan}

/-! ### Parameters -/

theorem readGroupArgs_eq_some {a : GroupArgs} (h0 : (look p 0).toNat = a.group) (h1 : (look p 1).toNat = a.method.code)
    (h2 : look p 2 = optByte a.overflow) (h3 : look p 3 = optByte a.noAnswer) (h4 : (look p 4).toNat = a.queueLimit)
    (h5 : (look p 5).toNat = a.queueWait) (hl : a.queueLimit ≤ 8) (hw : 1 ≤ a.queueWait) :
    readGroupArgs p = some a := by
  unfold readGroupArgs
  rw [readFin_eq_some h0, readMethod_code _ _ h1, readOptFin_optByte (by omega) h2, readOptFin_optByte (by omega) h3,
    h4, h5]
  exact if_pos ⟨hl, hw⟩

theorem readMembers_eq_some {l : List Chan} (h0 : (look p 0).toNat = g) (h1 : (look p 1).toNat = l.length)
    (hl : l.length ≤ 6)
    (hm : ([look p 2, look p 3, look p 4, look p 5, look p 6, look p 7].take l.length).map (·.toNat) =
      l.map fun c => c.val) : readMembers p = some (g, l) := by
  unfold readMembers
  rw [readFin_eq_some h0, h1]
  exact (if_pos hl).trans (by rw [allSome_channels _ _ hm]; rfl)

theorem readMember_eq_some (h0 : (look p 0).toNat = g) (h1 : (look p 1).toNat = c) : readMember p = some (g, c) := by
  unfold readMember
  rw [readFin_eq_some h0, readFin_eq_some h1]

/-! ### The group changed -/

/-- A group command completes with the record of the group as it leaves it (R95, R96). -/
theorem withGroup_reply (g : GroupIx) (f : Group → Group) (s : State) :
    (withGroup g f s).state.mail (Mailbox.post (withGroup g f s).code (withGroup g f s).bytes) =
      { s with
        calls := { s.calls with groups := put s.calls.groups g (f (s.calls.group g)) }
        mbox := s.mbox.post .ok
          (groupResult { s.calls with groups := put s.calls.groups g (f (s.calls.group g)) } g) } := rfl

theorem exec_writeGroup {a : GroupArgs} (ht : s.taking .writeGroup p) (ho : s.op ≠ .stopping)
    (hr : readGroupArgs p = some a) : exec .writeGroup s = .next
      { s with
        calls := { s.calls with
          groups := put s.calls.groups a.group (Group.written a (s.calls.group a.group)) }
        mbox := s.mbox.post .ok (groupResult { s.calls with
          groups := put s.calls.groups a.group (Group.written a (s.calls.group a.group)) } a.group) } := by
  have taken := takeChecked (allowed := outsideStopping) (fun (a : GroupArgs) s => withGroup a.group (Group.written a) s)
    ht hr (outsideStopping_of_ne ho)
  rw [withGroup_reply] at taken
  exact taken

theorem exec_setMembers {l : List Chan} (ht : s.taking .setMembers p) (ho : s.op ≠ .stopping)
    (hr : readMembers p = some (g, l)) :
    (¬ l.Nodup → exec .setMembers s = .next (s.mail (Mailbox.post .duplicate []))) ∧
    (l.Nodup → ∃ k, exec .setMembers s = .next { s with calls := k, mbox := s.mbox.post .ok (groupResult k g) } ∧
      k = { s.calls with groups := put s.calls.groups g { s.calls.group g with
        members := l, position := l.length - 1 } }) := by
  have taken : exec .setMembers s = _ := takeChecked setMembersBody ht hr (outsideStopping_of_ne ho)
  rw [taken, setMembersBody]
  refine ⟨fun hn => ?_, fun hn => ⟨_, ?_, rfl⟩⟩
  · rw [if_neg hn]; rfl
  · rw [if_pos hn, withGroup_reply]

theorem exec_addMember (ht : s.taking .addMember p) (ho : s.op ≠ .stopping) (hr : readMember p = some (g, c)) :
    (c ∈ (s.calls.group g).members → exec .addMember s = .next (s.mail (Mailbox.post .duplicate []))) ∧
    (c ∉ (s.calls.group g).members → 16 ≤ (s.calls.group g).members.length →
      exec .addMember s = .next (s.mail (Mailbox.post .noResource []))) ∧
    (c ∉ (s.calls.group g).members → (s.calls.group g).members.length < 16 →
      ∃ k, exec .addMember s = .next { s with calls := k, mbox := s.mbox.post .ok (groupResult k g) } ∧
        k = { s.calls with groups := put s.calls.groups g { s.calls.group g with
          members := (s.calls.group g).members ++ [c] } }) := by
  have taken : exec .addMember s = _ := takeChecked addMemberBody ht hr (outsideStopping_of_ne ho)
  rw [taken, addMemberBody]
  refine ⟨fun hm => ?_, fun hm hl => ?_, fun hm hl => ⟨_, ?_, rfl⟩⟩
  · rw [if_pos hm]; rfl
  · rw [if_neg hm, if_pos (show groupLimit ≤ _ from hl)]; rfl
  · rw [if_neg hm, if_neg (show ¬ groupLimit ≤ _ from Nat.not_le.mpr hl), withGroup_reply]

theorem exec_dropMember (ht : s.taking .dropMember p) (ho : s.op ≠ .stopping) (hr : readMember p = some (g, c)) :
    (c ∉ (s.calls.group g).members → exec .dropMember s = .next (s.mail (Mailbox.post .badArg []))) ∧
    (c ∈ (s.calls.group g).members → exec .dropMember s = .next
      { s with
        calls := { s.calls with groups := put s.calls.groups g (Group.without c (s.calls.group g)) }
        mbox := s.mbox.post .ok (groupResult { s.calls with
          groups := put s.calls.groups g (Group.without c (s.calls.group g)) } g) }) := by
  have taken : exec .dropMember s = _ := takeChecked dropMemberBody ht hr (outsideStopping_of_ne ho)
  rw [taken, dropMemberBody]
  refine ⟨fun hm => ?_, fun hm => ?_⟩
  · rw [if_neg hm]; rfl
  · rw [if_pos hm, withGroup_reply]

/-- The circular position after a drop (R96): it stays on its member, or falls back to the one before, round the end. -/
theorem positionAfterDrop_cases (n i position : Nat) :
    (i < position → positionAfterDrop n i position = position - 1) ∧
    (i = position → 0 < position → positionAfterDrop n i position = position - 1) ∧
    (i = 0 → position = 0 → positionAfterDrop n i position = n - 2) ∧
    (position < i → positionAfterDrop n i position = position) := by
  unfold positionAfterDrop
  refine ⟨fun h => ?_, fun h h0 => ?_, fun h h0 => ?_, fun h => ?_⟩
  · rw [if_pos h]
  · rw [if_neg (by omega), if_pos h, if_neg (by omega)]
  · rw [if_neg (by omega), if_pos (by omega), if_pos h0]
  · rw [if_neg (by omega), if_neg (by omega)]

end

/-- Settles O49: the parameters read as the statement spells them, and each command's tests decide in their order. -/
theorem groupCommandsChangeTheirGroup : Obligations.GroupCommandsChangeTheirGroup := by
  unfold Obligations.GroupCommandsChangeTheirGroup
  refine ⟨fun a s p ht ho h0 h1 h2 h3 h4 h5 hl hw => ?write, fun g l s p ht ho h0 h1 hl hm => ?set,
    fun g c s p ht ho h0 h1 => ?add, fun g c s p ht ho h0 h1 => ?drop⟩
  case write => exact ⟨_, exec_writeGroup ht ho (readGroupArgs_eq_some h0 h1 h2 h3 h4 h5 hl hw), rfl⟩
  case set => exact exec_setMembers ht ho (readMembers_eq_some h0 h1 hl hm)
  case add => exact exec_addMember ht ho (readMember_eq_some h0 h1)
  case drop =>
    obtain ⟨refused, dropped⟩ := exec_dropMember ht ho (readMember_eq_some h0 h1)
    exact ⟨refused, fun hm => ⟨_, _, dropped hm, rfl, positionAfterDrop_cases ..⟩⟩

end Sys2Proof.Machine
end

section
/-! How a hunt ends (R99 to R104, R110, R116): what stands after each ending, the order in which the members are
examined, the number of groups that a chain of hunts visits, and the choice. -/

namespace Sys2Proof.Machine

section

variable {k l : Calls} {e : Env} {g : GroupIx} {o d m : Chan}

/-! ### Ringing -/

/-- Station `d` enters RINGING for `o`, its ring output in the phase of the cadence (R104). -/
def Calls.rung (o d : Chan) (on : Bool) (k : Calls) : Calls :=
  (k.enter d .ringing fun r => { r with peer := some o }).setOut d ⟨on, false⟩

theorem Calls.rung_stands (k : Calls) (o d : Chan) (on : Bool) :
    (k.rung o d on).stands d { (k.ses d).moved .ringing with peer := some o } .none ⟨on, false⟩ (look k.notices d) := by
  refine ⟨?_, ?_, ?_, ?_⟩ <;> simp [Calls.rung, Session.listen]

theorem Calls.onlyAt_rung (k : Calls) (o d : Chan) (on : Bool) : k.onlyAt [d] (k.rung o d on) :=
  Calls.onlyAt_trans (Calls.onlyAt_enter (by simp) ..) (Calls.onlyAt_setOut (by simp) ..)

/-- The first station rung starts the cadence (R104). -/
theorem Calls.ring_eq_of_first (hr : (k.ses o).ringCount = 0) (hne : d ≠ o) : k.ring e o d =
    (k.enter o (if (k.ses o).cls = .trunk then .ringin else .outring) fun r =>
      { r with ringCount := 1, phaseOn := true, cycles := 0 }.startTimer .cadence (e.time Param.ringOnTime)).rung
        o d true := by
  simp [Calls.ring, Calls.rung, hr, hne, Session.startTimer]

/-- Every other station takes the present phase (R104). -/
theorem Calls.ring_eq_of_next (hs : (k.ses o).state.rings = true) (hr : 0 < (k.ses o).ringCount) (hne : d ≠ o) :
    k.ring e o d = (k.alter o fun r => { r with ringCount := r.ringCount + 1 }).rung o d (k.ses o).phaseOn := by
  simp [Calls.ring, Calls.rung, hs, hr, hne]

theorem Calls.ring_allRung (hr : (k.ses o).ringCount = 0) (hne : d ≠ o) : k.allRung e o [d] (k.ring e o d) := by
  rw [Calls.ring_eq_of_first hr hne]
  generalize hk : k.enter o _ _ = k1
  have only1 : k.onlyAt [o] k1 := hk ▸ Calls.onlyAt_enter (by simp) ..
  have only2 := k1.onlyAt_rung o d true
  obtain ⟨others1, batt1, pool1, groups1, bridges1⟩ := only1
  obtain ⟨others2, batt2, pool2, groups2, bridges2⟩ := only2
  refine ⟨fun x ho hd => Calls.sameAt_trans (others1 x (by simpa using ho)) (others2 x hd), batt2.trans batt1,
    pool1.trans pool2, groups2.trans groups1, bridges2.trans bridges1, ?_, fun m hm => ?_⟩
  · refine Calls.stands_of_sameAt (others2 o (by simpa using hne.symm)) ?_
    rw [← hk]
    refine ⟨?_, ?_, ?_, ?_⟩ <;> cases hc : (k.ses o).cls <;>
      simp [hc, Session.startTimer, Session.listen, Session.levels, noOutput, Env.time]
  · obtain rfl := List.mem_singleton.mp hm
    obtain ⟨⟨ses, -, -, notices⟩, -⟩ := others1 m (by simpa using hne)
    rw [← ses, ← notices]
    exact k1.rung_stands o m true

/-- One station more is rung (R104). -/
theorem Calls.allRung.ring {ms : List Chan} (h : k.allRung e o ms l) (hms : 0 < ms.length) (ho : o ∉ ms) (hd : d ∉ ms)
    (hne : d ≠ o) : k.allRung e o (ms ++ [d]) (l.ring e o d) := by
  obtain ⟨others, batt, pool, groups, bridges, ⟨ses, listen, levels, notices⟩, rung⟩ := h
  have rings : (l.ses o).state.rings = true := by rw [ses]; dsimp only [Session.moved]; split <;> rfl
  have count : (l.ses o).ringCount = ms.length := by rw [ses]
  have phase : (l.ses o).phaseOn = true := by rw [ses]
  rw [Calls.ring_eq_of_next rings (count ▸ hms) hne, phase]
  generalize hk : l.alter o _ = l1
  obtain ⟨others1, batt1, pool1, groups1, bridges1⟩ : l.onlyAt [o] l1 := hk ▸ Calls.onlyAt_alter (by simp) ..
  obtain ⟨others2, batt2, pool2, groups2, bridges2⟩ := l1.onlyAt_rung o d true
  have after : ∀ x, x ≠ o → x ≠ d → Calls.sameAt x l (l1.rung o d true) := fun x ho hx =>
    Calls.sameAt_trans (others1 x (by simpa using ho)) (others2 x (by simpa using hx))
  refine ⟨fun x ho hx => ?_, batt2.trans (batt1.trans batt), pool.trans (pool1.trans pool2),
    groups2.trans (groups1.trans groups), bridges2.trans (bridges1.trans bridges), ?_, fun m hm => ?_⟩
  · simp only [List.mem_append, List.mem_singleton, not_or] at hx
    exact Calls.sameAt_trans (others x ho hx.1) (after x ho hx.2)
  · refine Calls.stands_of_sameAt (others2 o (by simpa using hne.symm)) ?_
    rw [← hk]
    refine ⟨?_, listen, levels, notices⟩
    rw [Calls.ses_alter_self, ses]
    simp
  · rcases List.mem_append.mp hm with hm | hm
    · exact Calls.stands_of_sameAt (after m (ne_of_mem_of_not_mem hm ho) (ne_of_mem_of_not_mem hm hd)) (rung m hm)
    · obtain rfl := List.mem_singleton.mp hm
      obtain ⟨⟨ses0, -, -, notices0⟩, -⟩ := others m hne hd
      obtain ⟨⟨ses1, -, -, notices1⟩, -⟩ := others1 m (by simpa using hne)
      rw [← ses0, ← notices0, ← ses1, ← notices1]
      exact l1.rung_stands o m true

/-- Every station of a list is rung (R101). -/
theorem Calls.ringAll_allRung {ms : List Chan} (hr : (k.ses o).ringCount = 0) (hn : ms.Nodup) (ho : o ∉ ms)
    (hms : ms ≠ []) : k.allRung e o ms (ms.foldl (fun k m => k.ring e o m) k) := by
  induction ms using List.reverseRecOn with
  | nil => exact absurd rfl hms
  | append_singleton ms d ih =>
    simp only [List.mem_append, List.mem_singleton, not_or] at ho
    have hd : d ∉ ms := fun hm => List.disjoint_of_nodup_append hn hm (by simp)
    rw [List.foldl_append]
    by_cases he : ms = []
    · subst he
      exact Calls.ring_allRung hr (Ne.symm ho.2)
    · exact (ih hn.of_append_left ho.1 he).ring (List.length_pos_iff.mpr he) ho.1 hd (Ne.symm ho.2)

/-! ### Placed, busy or queued -/

/-- An originator with no station ringing for it is placed on another channel (R104, R110). -/
theorem Calls.placeOn_places (hr : (k.ses o).ringCount = 0) (hne : m ≠ o) : k.placedOn e o m (k.placeOn e o m) := by
  unfold Calls.placeOn
  split
  · next ht =>
    obtain ⟨so, st⟩ := k.seizeTrunk_stands e o m hne ht
    refine ⟨fun d ho hm => ?_, ⟨rfl, rfl⟩, rfl, rfl, fun h => absurd ht h, fun _ => ⟨?_, so, st⟩⟩
    · rw [Calls.seizeTrunk_eq]
      exact Calls.sameAt_trans (Calls.sameAt_trans (Calls.sameAt_enter hm ..) (Calls.sameAt_setBatt hm ..))
        (Calls.sameAt_enter ho ..)
    · rw [Calls.seizeTrunk_batt]
      rfl
  · next ht =>
    obtain ⟨others, batt, pool, groups, bridges, so, sm⟩ := Calls.ring_allRung (e := e) hr hne
    exact ⟨fun d ho hm => others d ho (by simpa using hm), pool, groups, bridges,
      fun _ => ⟨batt, so, sm m (by simp)⟩, fun h => absurd h ht⟩

theorem Calls.busyOutcome_busies (e : Env) (o : Chan) (k : Calls) : k.busied e o (k.busyOutcome e o) := by
  refine ⟨?_, fun hc => ?_, fun hc => ?_⟩
  · unfold Calls.busyOutcome
    refine Calls.onlyAt_trans ?_ (Calls.onlyAt_raise (by simp) ..)
    split <;> exact Calls.onlyAt_enter (by simp) ..
  · refine ⟨?_, ?_, ?_, ?_⟩ <;>
      simp [Calls.busyOutcome, hc, Calls.toToneout, Session.startTimer, Session.listen, Session.levels, noOutput,
        Env.time, Calls.notices_raise, raisedIn]
  · refine ⟨?_, ?_, ?_, ?_⟩ <;>
      simp [Calls.busyOutcome, hc, Calls.toHostwait, Session.listen, Session.levels, Calls.notices_raise, raisedIn]

theorem Calls.joinQueue_joined (g : GroupIx) (o : Chan) (k : Calls) : k.joined g o (k.joinQueue g o) := by
  unfold Calls.joinQueue
  refine ⟨fun d hd => ?_, rfl, ⟨rfl, rfl⟩, rfl, fun f hf => ?_, ?_, ?_, ?_, ?_, ?_⟩
  · exact Calls.sameAt_trans (Calls.sameAt_groups ..) (Calls.sameAt_enter hd ..)
  · simp [Calls.group_alterGroup, Ne.symm hf]
  · simp
  all_goals cases hc : (k.ses o).cls <;> simp [hc, Session.startTimer, Session.listen, Session.levels, noOutput]

/-! ### The order of the members -/

/-- The list `cands` is what a hunt examines: the members for which `seen` holds, in the order of the method (R100, R101,
R111). -/
structure Group.Examines (x : Group) (seen : Chan → Prop) (cands : List Chan) : Prop where
  mem : ∀ m, m ∈ cands ↔ m ∈ x.members ∧ seen m
  ordered : cands.Pairwise fun a b => x.rank a < x.rank b
  all : x.method = .all → cands = x.members

theorem pairwise_idxOf {l : List Chan} (h : l.Nodup) : l.Pairwise fun a b => l.idxOf a < l.idxOf b := by
  rw [List.pairwise_iff_getElem]
  intro i j hi hj hij
  rwa [h.idxOf_getElem, h.idxOf_getElem]

theorem mem_drop_iff_idxOf {l : List Chan} (h : l.Nodup) {n : Nat} : m ∈ l.drop n ↔ m ∈ l ∧ n ≤ l.idxOf m := by
  constructor
  · intro hm
    obtain ⟨i, hi, rfl⟩ := List.mem_drop_iff_getElem.mp hm
    exact ⟨List.getElem_mem _, by rw [h.idxOf_getElem]; omega⟩
  · rintro ⟨hm, hn⟩
    have hi := List.idxOf_lt_length_of_mem hm
    refine List.mem_drop_iff_getElem.mpr ⟨l.idxOf m - n, by omega, ?_⟩
    simp [Nat.add_sub_cancel' hn]

/-- The first match of an ordered list. -/
theorem find_of_ordered {l : List Chan} {r : Chan → Nat} (hl : l.Pairwise fun a b => r a < r b) {p : Chan → Bool}
    (hm : m ∈ l) (hp : p m = true) (hmin : ∀ x ∈ l, p x = true → r m ≤ r x) : l.find? p = some m := by
  obtain ⟨as, bs, rfl⟩ := List.append_of_mem hm
  rw [List.pairwise_append] at hl
  refine List.find?_eq_some_iff_append.mpr ⟨hp, as, bs, rfl, fun a ha => ?_⟩
  have before := hl.2.2 a ha m (by simp)
  by_contra hpa
  have := hmin a (by simp [ha]) (by simpa using hpa)
  omega

theorem Group.examines_searchOrder {x : Group} (hn : x.members.Nodup) :
    x.Examines (fun _ => True) x.searchOrder := by
  refine ⟨fun m => by simp [Group.mem_searchOrder], ?_, fun ha => by simp [Group.searchOrder, ha]⟩
  cases hm : x.method with
  | linear | all => simpa [Group.searchOrder, Group.rank, hm] using pairwise_idxOf hn
  | circular =>
    have hs := Group.searchOrder_nodup hn
    have mem : ∀ c ∈ x.searchOrder, c ∈ x.members := fun c => (x.mem_searchOrder c).mp
    simp only [Group.searchOrder, Group.rank, hm] at hs mem ⊢
    refine (pairwise_idxOf hs).imp_of_mem fun {a b} ha hb hab => ?_
    have hlen : (x.position + 1) % x.members.length < x.members.length :=
      Nat.mod_lt _ (List.length_pos_of_mem (mem a ha))
    rwa [idxOf_rotated _ hn _ hlen a (mem a ha), idxOf_rotated _ hn _ hlen b (mem b hb)] at hab

/-- After the failure of trunk `t` a LINEAR hunt examines the members behind it, the others all of them (R111). -/
theorem Group.examines_searchAfter {x : Group} (hn : x.members.Nodup) (t : Chan) :
    x.Examines (fun m => x.method = .linear → t ∈ x.members → x.members.idxOf t < x.members.idxOf m)
      (x.searchAfter t) := by
  by_cases ht : x.method = .linear ∧ t ∈ x.members
  · obtain ⟨hm, ht⟩ := ht
    have after : x.searchAfter t = x.members.drop (x.members.idxOf t + 1) := by simp [Group.searchAfter, hm, ht]
    rw [after]
    refine ⟨fun m => ?_, ?_, fun ha => by simp [hm] at ha⟩
    · simp only [mem_drop_iff_idxOf hn, Nat.succ_le_iff, hm, ht, true_implies]
    · simpa [Group.rank, hm] using (pairwise_idxOf hn).sublist (List.drop_sublist ..)
  · have same : x.searchAfter t = x.searchOrder := by
      unfold Group.searchAfter
      split
      · next hm => simp [hm] at ht; simp [ht, Group.searchOrder, hm]
      all_goals rfl
    obtain ⟨mem, ordered, all⟩ := Group.examines_searchOrder hn
    rw [same]
    exact ⟨fun m => (mem m).trans (and_congr_right' (by simpa using fun hm h => absurd ⟨hm, h⟩ ht)), ordered, all⟩

/-! ### The groups of an attempt -/

/-- The groups that an attempt has not tried. -/
def untriedGroups (t : BitVec 8) : Finset GroupIx := Finset.univ.filter fun h => t.getLsbD h = false

theorem untriedGroups_add (t : BitVec 8) (g : GroupIx) :
    untriedGroups (t ||| BitVec.twoPow 8 g) = (untriedGroups t).erase g := by
  ext h
  simp only [untriedGroups, Finset.mem_filter, Finset.mem_univ, true_and, Finset.mem_erase, BitVec.getLsbD_or,
    BitVec.getLsbD_twoPow, Bool.or_eq_false_iff, Fin.isLt, decide_true, Bool.true_and, decide_eq_false_iff_not, Fin.val_inj]
  rw [and_comm, ne_comm]

/-- What a search in `g` for `o` among the members `cands` leads to, with `n` hunts more at most (R100 to R103). -/
def Calls.searched (e : Env) (n : Nat) (g : GroupIx) (o : Chan) (cands : List Chan) (k : Calls) : Calls :=
  match k.choose e g o cands with
  | some l => l
  | none =>
    match k.onward g o with
    | .queue => k.joinQueue g o
    | .overflow h => k.hunt e n h o
    | .busy => k.busyOutcome e o

theorem Calls.hunt_succ (e : Env) (n : Nat) (g : GroupIx) (o : Chan) (k : Calls) :
    k.hunt e (n + 1) g o =
      (k.markGroup g o).searched e n g o ((k.markGroup g o).group g).searchOrder := rfl

theorem Calls.onward_eq_overflow {h : GroupIx} (hk : k.onward g o = .overflow h) :
    (k.group g).overflow = some h ∧ (k.ses o).tried.getLsbD h = false := by
  unfold Calls.onward at hk
  split at hk
  · cases hk
  · unfold Calls.overflowStep at hk
    split at hk
    · next f hu =>
      cases hk
      unfold Calls.untried at hu
      split at hu
      · next ho =>
        split at hu
        · cases hu
        · next ht =>
          cases hu
          exact ⟨ho, by simpa using ht⟩
      · cases hu
    · cases hk

/-- A chain of hunts visits each group once, so more hunts than there are untried groups are of no use (R102). -/
theorem Calls.hunt_fuel {n : Nat} (hn : (untriedGroups (k.ses o).tried).card ≤ n)
    (hg : (k.ses o).tried.getLsbD g = false) : k.hunt e (n + 1) g o = k.hunt e n g o := by
  induction n generalizing k g with
  | zero =>
    have : g ∈ untriedGroups (k.ses o).tried := by simpa [untriedGroups] using hg
    rw [Finset.card_eq_zero.mp (Nat.le_zero.mp hn)] at this
    cases this
  | succ n ih =>
    rw [Calls.hunt_succ, Calls.hunt_succ]
    generalize hk : k.markGroup g o = k1
    have tried : (k1.ses o).tried = (k.ses o).tried ||| BitVec.twoPow 8 g := by simp [← hk, Calls.markGroup]
    unfold Calls.searched
    split
    · rfl
    · split
      · rfl
      · next h ho =>
        refine ih ?_ (Calls.onward_eq_overflow ho).2
        rw [tried, untriedGroups_add, Finset.card_erase_of_mem (by simpa [untriedGroups] using hg)]
        omega
      · rfl

/-! ### The choice -/

theorem Calls.onward_of_room (h : (k.group g).queue.length < (k.group g).queueLimit) : k.onward g o = .queue := by
  have : 0 < (k.group g).queueLimit := by omega
  simp [Calls.onward, h, this]

theorem Calls.onward_of_full (h : (k.group g).queueLimit ≤ (k.group g).queue.length) :
    k.onward g o = k.overflowStep g o := by
  simp [Calls.onward, Nat.not_lt.mpr h]

theorem Calls.overflowStep_untried {h : GroupIx} (ho : (k.group g).overflow = some h)
    (ht : (k.ses o).tried.getLsbD h = false) : k.overflowStep g o = .overflow h := by
  simp only [Calls.overflowStep, Calls.untried, ho, ht]
  rfl

theorem Calls.overflowStep_none (ht : ∀ h, (k.group g).overflow = some h → (k.ses o).tried.getLsbD h = true) :
    k.overflowStep g o = .busy := by
  cases ho : (k.group g).overflow with
  | none => simp [Calls.overflowStep, Calls.untried, ho]
  | some h => simp only [Calls.overflowStep, Calls.untried, ho, ht h ho, if_true]

/-- The first eligible member is the one that the search finds (R98, R100). -/
theorem Calls.firstEligible.find {seen : Chan → Prop} {cands : List Chan} (hs : (k.group g).Examines seen cands)
    (hm : k.firstEligible g o seen m) : cands.find? (k.eligible (k.group g).method o) = some m := by
  obtain ⟨⟨mem, sees, elig⟩, first⟩ := hm
  exact find_of_ordered hs.ordered ((hs.mem m).mpr ⟨mem, sees⟩) elig fun x hx =>
    first x ((hs.mem x).mp hx).1 ((hs.mem x).mp hx).2

theorem Calls.ne_of_eligible {method : Method} (h : k.eligible method o m = true) : m ≠ o :=
  (Calls.eligible_iff.mp h).2.2.1

/-- A search ends as R100 to R103 say; what it needs of a hunt in the overflow group is that the fuel suffices. -/
theorem Calls.searched_ends {seen : Chan → Prop} {cands : List Chan} {n : Nat} (hn : (k.group g).members.Nodup)
    (hr : (k.ses o).ringCount = 0) (hs : (k.group g).Examines seen cands)
    (hf : ∀ h : GroupIx, (k.ses o).tried.getLsbD h = false → k.hunt e n h o = k.hunt e huntFuel h o) :
    k.huntEnds e g o seen (k.searched e n g o cands) := by
  refine ⟨fun m hl hm => ?linear, fun m hc hm => ?circular, fun ms ha hne hms => ?all, fun none => ?none⟩
  case linear =>
    have chosen : k.choose e g o cands = some (k.placeOn e o m) := by
      have := hm.find hs
      rw [hl] at this
      simp [Calls.choose, hl, this]
    rw [Calls.searched, chosen]
    exact Calls.placeOn_places hr (Calls.ne_of_eligible hm.1.2.2)
  case circular =>
    have chosen : k.choose e g o cands = some
        ((k.alterGroup g fun x => { x with position := x.members.idxOf m }).placeOn e o m) := by
      have := hm.find hs
      rw [hc] at this
      simp [Calls.choose, hc, this]
    rw [Calls.searched, chosen]
    exact Calls.placeOn_places (k := k.alterGroup g _) hr (Calls.ne_of_eligible hm.1.2.2)
  case all =>
    have chosen : k.choose e g o cands = some (ms.foldl (fun k m => k.ring e o m) k) := by
      rw [hs.all ha, Calls.choose, ha, ← hms]
      cases ms with
      | nil => exact absurd rfl hne
      | cons => rfl
    rw [Calls.searched, chosen]
    refine Calls.ringAll_allRung hr (hms ▸ hn.filter _) (fun ho => ?_) hne
    rw [hms] at ho
    exact Calls.ne_of_eligible (List.mem_filter.mp ho).2 rfl
  case none =>
    have chosen : k.choose e g o cands = .none :=
      Calls.choose_none e g o k cands fun x hx => none x ((hs.mem x).mp hx).1 ((hs.mem x).mp hx).2
    rw [Calls.searched, chosen]
    refine ⟨fun room => ?_, fun full => ⟨fun h ho ht => ?_, fun ht => ?_⟩⟩
    · rw [Calls.onward_of_room room]
      exact k.joinQueue_joined g o
    · rw [Calls.onward_of_full full, Calls.overflowStep_untried ho ht]
      exact hf h ht
    · rw [Calls.onward_of_full full, Calls.overflowStep_none ht]
      exact k.busyOutcome_busies e o

end

/-- Settles O31: a hunt is a search of the marked group in the order of its method, and the fuel suffices for the groups
that are left. -/
theorem huntsChooseByMethod : Obligations.HuntsChooseByMethod := by
  unfold Obligations.HuntsChooseByMethod
  refine ⟨fun k method o m => ?_, fun e g o k hn hr => ?_⟩
  · rw [Calls.eligible_iff]
    have known : (k.ses m).cls ≠ .unused ↔ (k.ses m).cls = .station ∨ (k.ses m).cls = .trunk := by
      cases (k.ses m).cls <;> simp
    rw [known, imp_and, not_and, not_and]
  · have marked : (k.markGroup g o).ses o =
        { k.ses o with tried := (k.ses o).tried ||| BitVec.twoPow 8 g, curGroup := some g } := by simp [Calls.markGroup]
    refine Calls.searched_ends (k := k.markGroup g o) hn ?_ (Group.examines_searchOrder hn) fun h ht => ?_
    · rw [marked]
      exact hr
    · refine (Calls.hunt_fuel ?_ ht).symm
      rw [marked]
      refine Nat.le_of_lt_succ (Finset.card_lt_univ_of_notMem (x := g) ?_)
      simp [untriedGroups_add]

end Sys2Proof.Machine
end

section
/-! The seizure of a trunk (R110, R111): its cut-through, and its failure, after which the hunt goes on. -/

namespace Sys2Proof.Machine

section

variable {s : State} {t o : Chan}

/-- BATT_ON at a trunk being seized starts its cut-through (R110). -/
theorem exec_battOn_seizing (hr : s.resetAsserted = false) (ho : s.op = .run) (hs : (s.calls.ses t).state = .seizing)
    (hc : (s.calls.ses t).cls = .trunk) (hq : s.calls.batt t = ⟨.timing, some 0⟩) (hf : s.freshFor (.event t .battOn))
    (ht : ∃ left, (s.calls.ses t).timer = some ⟨.seizeWait, left⟩) :
    exec (.battSeizeQualExpiry t .now) s = .next (({ s with calls := { s.calls with
      battQ := put s.calls.battQ t ⟨.present, none⟩ } }).close { s.calls with
        battQ := put s.calls.battQ t ⟨.present, none⟩
        sessions := put s.calls.sessions t
          { s.calls.ses t with timer := s.timerOf .cutThrough Param.cutThroughDelay } }) := by
  obtain ⟨left, ht⟩ := ht
  rw [exec_battSeizeQualExpiry .now t hr hq]
  have taken := State.deliver_fresh (s := { s with calls := s.calls.setBatt t ⟨.present, none⟩ }) (c := t) (v := .battOn)
    ho hc hf
  have acts : (s.calls.setBatt t ⟨.present, none⟩).takeBattOn s.env t = _ := if_pos ⟨hs, by rw [Calls.ses_setBatt, ht]; rfl⟩
  exact congrArg _ (taken.trans (congrArg (State.close · _) acts))

/-- A trunk cut through and its originator are connected (R110). -/
theorem Calls.cutThrough_pairs {k : Calls} (hp : (k.ses t).peer = some o) : k.cutThrough t = k.pair t o := by
  rw [Calls.cutThrough, hp]

/-- The records with a trunk blocked whose seizure failed (R111). -/
def Calls.faulted (e : Env) (t : Chan) (k : Calls) : Calls := (k.enter t .blocked id).raise e .trunkfault t

theorem Calls.onlyAt_faulted (e : Env) (t : Chan) (k : Calls) : k.onlyAt [t] (k.faulted e t) :=
  Calls.onlyAt_trans (Calls.onlyAt_enter (by simp) ..) (Calls.onlyAt_raise (by simp) ..)

theorem State.faulted_stands (s : State) (t : Chan) : (s.calls.faulted s.env t).stands t
    ((s.calls.ses t).moved .blocked) .none noOutput (s.recorded [.trunkfault] t) :=
  Calls.stands_raise s .trunkfault (by
    simpa [Session.listen, Session.levels, noOutput, State.noticesAt] using Calls.stands_enter t .blocked id s.calls)

theorem Calls.seizeFailed_eq {e : Env} {k : Calls} (hp : (k.ses t).peer = some o) :
    k.seizeFailed e t = (k.faulted e t).continueHunt e t o := by
  unfold Calls.seizeFailed
  rw [hp]
  rfl

/-- A hunt that goes on is a search of the current group, which is not marked again (R111). -/
theorem Calls.continueHunt_some {e : Env} {g : GroupIx} {k : Calls} (hg : (k.ses o).curGroup = some g) :
    k.continueHunt e t o = k.searched e huntFuel g o ((k.group g).searchAfter t) := by
  unfold Calls.continueHunt
  rw [hg]
  rfl

theorem Calls.continueHunt_none {e : Env} {k : Calls} (hg : (k.ses o).curGroup = none) :
    k.continueHunt e t o = k.busyOutcome e o := by
  unfold Calls.continueHunt
  rw [hg]

end

/-- Settles O34: the cut-through is a connection, and after a failure the hunt goes on as a search of the members that
R111 leaves, with the fuel of a whole attempt. -/
theorem trunkSeizureSucceedsOrFails : Obligations.TrunkSeizureSucceedsOrFails := by
  unfold Obligations.TrunkSeizureSucceedsOrFails
  intro t o s hr hs hp hne
  refine ⟨fun ho hc hq hf ht => ⟨_, exec_battOn_seizing hr ho hs hc hq hf ht, rfl⟩, fun ht => ?connected, fun ht => ?failed⟩
  case connected =>
    refine ⟨_, exec_expiry (f := fun _ => Calls.cutThrough) rfl hr ht (by rw [hs]; rfl), ?_⟩
    rw [Calls.cutThrough_pairs hp]
    exact ⟨Calls.onlyAt_pair (by simp) (by simp) _, s.calls.pair_stands hne.symm⟩
  case failed =>
    have only := s.calls.onlyAt_faulted s.env t
    have stands := s.faulted_stands t
    refine ⟨s.calls.faulted s.env t, _, exec_expiry (f := Calls.seizeFailed) rfl hr ht (by rw [hs]; rfl), only, stands, ?_⟩
    rw [Calls.seizeFailed_eq hp]
    obtain ⟨others, -, -, groups, -⟩ := only
    have own : (s.calls.faulted s.env t).ses o = s.calls.ses o := (others o (by simpa using hne)).1.1
    refine ⟨fun hg => ?_, fun g hg hn hc => ?_⟩
    · rw [Calls.continueHunt_none (own ▸ hg)]
      exact Calls.busyOutcome_busies ..
    · have group := Calls.group_of_groups groups g
      rw [Calls.continueHunt_some (own ▸ hg), ← group]
      exact Calls.searched_ends (group ▸ hn) (own ▸ hc) (Group.examines_searchAfter (group ▸ hn) t) fun _ _ => rfl

end Sys2Proof.Machine
end

section
/-! What starts a hunt, or a direct placement (R99, R103 to R105, R107, R114, R116, R153): PLACE, the RING_BURST of an
IDLE trunk, the no-answer outcome and the QUEUE_WAIT expiry. -/

namespace Sys2Proof.Machine

section

variable {k : Calls} {e : Env} {s : State} {p : Params} {g : GroupIx} {c d o : Chan}

/-! ### PLACE -/

theorem readPlace_group (hc : (look p 0).toNat = c) (h1 : look p 1 = 0) (h2 : (look p 2).toNat = g) :
    readPlace p = some (c, .group g) := by
  unfold readPlace
  rw [readFin_eq_some hc, h1, readFin_eq_some h2]
  rfl

theorem readPlace_channel (hc : (look p 0).toNat = c) (h1 : look p 1 = 1) (h2 : (look p 2).toNat = d) :
    readPlace p = some (c, .channel d) := by
  unfold readPlace
  rw [readFin_eq_some hc, h1, readFin_eq_some h2]
  rfl

/-- PLACE completes with the state that its channel is in after the placement (R153). -/
theorem withSessions_reply (c : Chan) (k : Calls) (s : State) :
    (withSessions c none k s).state.mail
        (Mailbox.post (withSessions c none k s).code (withSessions c none k s).bytes) =
      (s.close k).mail (Mailbox.post .ok [byteOf c, byteOf (k.ses c).state.code, 0xFF, 0xFF]) := by
  rw [withSessions_bytes]
  rfl

theorem Calls.mayPlace_iff : k.mayPlace c = true ↔
    (k.ses c).state = .hostwait ∧ ¬ ((k.ses c).cls = .trunk ∧ (k.levels c).loop = true) := by
  simp only [Calls.mayPlace, Bool.and_eq_true, beq_iff_eq, Bool.not_eq_true', ← Bool.not_eq_true]

theorem Calls.mayReach_iff : k.mayReach c d = true ↔
    d ≠ c ∧ (k.ses d).cls ≠ .unused ∧ (k.ses d).state ≠ .blocked := by
  simp [Calls.mayReach, and_assoc]

theorem exec_place {a : Chan × PlaceOn} (ht : s.taking .place p) (ho : s.op = .run) (ha : readPlace p = some a) :
    exec .place s = .next ((placeBody a s).state.mail (Mailbox.post (placeBody a s).code (placeBody a s).bytes)) :=
  takeChecked _ ht ha (by rw [ho]; rfl)

theorem exec_place_refused {a : PlaceOn} (ht : s.taking .place p) (ho : s.op = .run) (ha : readPlace p = some (c, a))
    (hn : (s.calls.ses c).state ≠ .hostwait ∨ (s.calls.ses c).cls = .trunk ∧ (s.calls.levels c).loop = true) :
    exec .place s = .next (s.mail (Mailbox.post .badState [])) := by
  have may : ¬ s.calls.mayPlace c = true := by
    rw [Calls.mayPlace_iff]
    exact fun h => hn.elim (fun hn => hn h.1) h.2
  rw [exec_place ht ho ha, placeBody, if_neg may]
  rfl

theorem exec_place_group (ht : s.taking .place p) (ho : s.op = .run) (ha : readPlace p = some (c, .group g))
    (may : s.calls.mayPlace c = true) :
    exec .place s = .next ((s.close (s.calls.huntFresh s.env g c)).mail (Mailbox.post .ok
      [byteOf c, byteOf ((s.calls.huntFresh s.env g c).ses c).state.code, 0xFF, 0xFF])) := by
  rw [exec_place ht ho ha, placeBody, if_pos may, ← withSessions_reply]

theorem exec_place_unreachable (ht : s.taking .place p) (ho : s.op = .run) (ha : readPlace p = some (c, .channel d))
    (may : s.calls.mayPlace c = true) (hd : (s.calls.ses d).state = .blocked ∨ (s.calls.ses d).cls = .unused ∨ d = c) :
    exec .place s = .next (s.mail (Mailbox.post .badState [])) := by
  have reach : ¬ s.calls.mayReach c d = true := by
    rw [Calls.mayReach_iff]
    rintro ⟨hne, hu, hb⟩
    exact hd.elim hb fun h => h.elim hu hne
  rw [exec_place ht ho ha, placeBody, if_pos may]
  dsimp only
  rw [if_neg reach]
  rfl

theorem exec_place_channel (ht : s.taking .place p) (ho : s.op = .run) (ha : readPlace p = some (c, .channel d))
    (may : s.calls.mayPlace c = true) (reach : s.calls.mayReach c d = true) :
    exec .place s = .next ((s.close (s.calls.placeDirect s.env c d)).mail (Mailbox.post .ok
      [byteOf c, byteOf ((s.calls.placeDirect s.env c d).ses c).state.code, 0xFF, 0xFF])) := by
  rw [exec_place ht ho ha, placeBody, if_pos may]
  dsimp only
  rw [if_pos reach, withSessions_reply]

/-- A direct placement on an IDLE channel that the originator may reach (R105). -/
theorem Calls.placeDirect_eq_placeOn (hi : (k.ses d).state = .idle) (hu : (k.ses d).cls ≠ .unused)
    (ht : (k.ses d).cls = .trunk → (k.ses o).cls ≠ .trunk) : k.placeDirect e o d = (k.newAttempt o).placeOn e o d := by
  unfold Calls.placeDirect Calls.placeOn
  rw [hi, Calls.newAttempt_cls]
  cases hc : (k.ses d).cls with
  | unused => exact absurd hc hu
  | station => rfl
  | trunk => simp [ht hc]

/-- A direct placement on any other channel is busy (R103, R105). -/
theorem Calls.placeDirect_eq_busy (h : (k.ses d).state ≠ .idle ∨ (k.ses d).cls = .trunk ∧ (k.ses o).cls = .trunk) :
    k.placeDirect e o d = (k.newAttempt o).busyOutcome e o := by
  unfold Calls.placeDirect
  split
  · next hi hc => simp [hi, hc] at h
  · next hi hc => simp [(h.resolve_left (not_not.mpr hi)).2]
  · rfl

/-! ### The no-answer outcome -/

/-- A ringing set given up (R11, R107): the originator keeps its state, the stations of the set stand in IDLE. -/
theorem Calls.clearRinging_stands (hst : (k.ses c).state ≠ .ringing) :
    (k.clearRinging c).stands c (k.ses c).noRinging (look k.listen c) (k.levels c) (look k.notices c) ∧
    (∀ d, k.ringsFor c d →
      (k.clearRinging c).stands d ((k.ses d).moved .idle) .none noOutput (look k.notices d)) ∧
    (∀ d, d ≠ c → ¬ k.ringsFor c d → k.sameAt d (k.clearRinging c)) ∧
    (k.clearRinging c).battQ = k.battQ ∧ k.samePool (k.clearRinging c) ∧ (k.clearRinging c).groups = k.groups ∧
    (k.clearRinging c).bridges = k.bridges := by
  obtain ⟨only, batt, pool, groups, bridges⟩ := Calls.foldIdle_only (k.ringSet c) k
  have hne : ∀ d, k.ringsFor c d → d ≠ c := by
    rintro d hd rfl
    exact hst hd.1
  refine ⟨?_, fun d hd => ?_, fun d hd hn => ?_, batt, pool, groups, bridges⟩
  · obtain ⟨⟨ses, listen, levels, notices⟩, -⟩ := only c (by rw [Calls.mem_ringSet_iff]; exact fun h => hst h.1)
    exact ⟨by rw [Calls.clearRinging, Calls.ses_alter_self, ses], listen, levels, notices⟩
  · exact Calls.stands_of_sameAt (Calls.sameAt_alter (hne d hd) ..)
      (Calls.foldIdle_stands _ k d ((Calls.mem_ringSet_iff ..).mpr hd))
  · exact Calls.sameAt_trans (only d (by rwa [Calls.mem_ringSet_iff])) (Calls.sameAt_alter hd ..)

/-- The records on which a no-answer hunt starts: NOANSWER raised and the ringing set given up (R107). -/
def Calls.unanswered (e : Env) (o : Chan) (k : Calls) : Calls := (k.raise e .noanswer o).clearRinging o

/-- The ringing set when the last cycle has been counted and NOANSWER raised. -/
theorem State.ringsFor_cycled (s : State) (c d : Chan) :
    ((s.calls.alter c Session.cycled).raise s.env .noanswer c).ringsFor c d ↔ s.calls.ringsFor c d := by
  rw [← Calls.ringsFor_alter (k := s.calls) (c := c) (f := Session.cycled) rfl rfl]
  simp [Calls.ringsFor]

theorem State.unanswered_reach (s : State) (c : Chan) :
    Reach s.calls ((s.calls.alter c Session.cycled).unanswered s.env c) :=
  ((Move.fields _ c _ ⟨rfl, rfl, rfl, rfl, rfl, rfl, rfl⟩).reach.trans (Calls.raise_reach ..)).trans
    (Calls.clearRinging_reach ..)

/-- What stands on the records on which a no-answer hunt starts (R107). -/
theorem State.cycled_unanswered (hst : (s.calls.ses c).state ≠ .ringing) :
    ((s.calls.alter c Session.cycled).unanswered s.env c).stands c
      { s.calls.ses c with ringCount := 0, phaseOn := false, cycles := 0 } (look s.calls.listen c) (s.calls.levels c)
      (s.recorded [.noanswer] c) ∧
    (∀ d, s.calls.ringsFor c d → ((s.calls.alter c Session.cycled).unanswered s.env c).stands d
      ((s.calls.ses d).moved .idle) .none noOutput (s.noticesAt d)) ∧
    (∀ d, d ≠ c → ¬ s.calls.ringsFor c d →
      s.calls.sameAt d ((s.calls.alter c Session.cycled).unanswered s.env c)) ∧
    ((s.calls.alter c Session.cycled).unanswered s.env c).battQ = s.calls.battQ ∧
    s.calls.samePool ((s.calls.alter c Session.cycled).unanswered s.env c) ∧
    ((s.calls.alter c Session.cycled).unanswered s.env c).groups = s.calls.groups ∧
    ((s.calls.alter c Session.cycled).unanswered s.env c).bridges = s.calls.bridges := by
  obtain ⟨same, batt, pool, groups, bridges⟩ :
      s.calls.onlyAt [c] ((s.calls.alter c Session.cycled).raise s.env .noanswer c) :=
    Calls.onlyAt_trans (Calls.onlyAt_alter (by simp) ..) (Calls.onlyAt_raise (by simp) ..)
  have rings := State.ringsFor_cycled s c
  have raised : ((s.calls.alter c Session.cycled).raise s.env .noanswer c).stands c (s.calls.ses c).cycled
      (look s.calls.listen c) (s.calls.levels c) (s.recorded [.noanswer] c) :=
    Calls.stands_raise s .noanswer ⟨Calls.ses_alter_self .., rfl, rfl, rfl⟩
  unfold Calls.unanswered
  generalize (s.calls.alter c Session.cycled).raise s.env .noanswer c = k at *
  obtain ⟨ses, listen, levels, notices⟩ := raised
  obtain ⟨own, rung, others, batt', pool', groups', bridges'⟩ :=
    Calls.clearRinging_stands (k := k) (c := c) (by rw [ses]; exact hst)
  refine ⟨?_, fun d hd => ?_, fun d hd hn => Calls.sameAt_trans (same d (by simpa using hd))
    (others d hd fun h => hn ((rings d).mp h)), batt'.trans batt, pool.trans pool', groups'.trans groups,
    bridges'.trans bridges⟩
  · rw [ses, listen, levels, notices] at own
    exact own
  · have hne : d ≠ c := by
      rintro rfl
      exact hst hd.1
    obtain ⟨⟨ses', -, -, notices'⟩, -⟩ := same d (by simpa using hne)
    rw [State.noticesAt, ← ses', ← notices']
    exact rung d ((rings d).mpr hd)

theorem Calls.noAnswer_hunts {n : GroupIx} (hg : (k.raise e .noanswer o).noAnswerGroup o = some n) :
    k.noAnswer e o =
      ((k.unanswered e o).hunt e huntFuel n o).idleStages e ((k.raise e .noanswer o).ringSet o) := by
  unfold Calls.noAnswer
  dsimp only
  rw [hg]
  rfl

/-! ### The QUEUE_WAIT expiry -/

/-- The records with `c` out of its queue and QUEUEOUT raised (R116). -/
def Calls.queuedOut (e : Env) (c : Chan) (k : Calls) : Calls := (k.leaveQueues c).raise e .queueout c

theorem Calls.group_queuedOut (e : Env) (c : Chan) (k : Calls) (g : GroupIx) :
    (k.queuedOut e c).group g = { k.group g with queue := (k.group g).queue.filter (· ≠ c) } := by
  rw [Calls.queuedOut, Calls.group_raise, Calls.group_leaveQueues]

theorem Calls.queueOut_overflows {h : GroupIx} (hg : (k.ses c).curGroup = some g) (ho : (k.group g).overflow = some h)
    (ht : (k.ses c).tried.getLsbD h = false) : k.queueOut e c = (k.queuedOut e c).hunt e huntFuel h c := by
  have step : (k.queuedOut e c).overflowStep g c = .overflow h :=
    Calls.overflowStep_untried (by rw [Calls.group_queuedOut]; exact ho)
      (by rw [Calls.queuedOut, Calls.ses_raise]; exact ht)
  unfold Calls.queuedOut at step ⊢
  unfold Calls.queueOut
  dsimp only
  rw [hg]
  dsimp only
  rw [step]

theorem Calls.queueOut_busy (ht : ∀ g h, (k.ses c).curGroup = some g → (k.group g).overflow = some h →
    (k.ses c).tried.getLsbD h = true) : k.queueOut e c = (k.queuedOut e c).busyOutcome e c := by
  unfold Calls.queueOut
  dsimp only
  split
  · rfl
  · next g hg =>
    have step : (k.queuedOut e c).overflowStep g c = .busy := Calls.overflowStep_none fun h ho => by
      rw [Calls.group_queuedOut] at ho
      rw [Calls.queuedOut, Calls.ses_raise]
      exact ht g h hg ho
    unfold Calls.queuedOut at step ⊢
    rw [step]

end

/-- Settles O32: each event by the operation it comes to on the records, and each of these by the group that is left to
go on to. -/
theorem placementsStartHuntsOrGoDirect : Obligations.PlacementsStartHuntsOrGoDirect := by
  unfold Obligations.PlacementsStartHuntsOrGoDirect
  refine ⟨fun c s p ht ho hc => ⟨fun hn hp => ?refused, fun hs hn k0 hk0 => ⟨fun g h1 h2 => ?group, fun d h1 h2 => ?direct⟩⟩,
    fun c g s hr ho hc hs hg hq hb hf => ?burst, fun c g n s hr hs ht hp hle hg hn hu => ?noanswer,
    fun c s hr hs ht => ?queueout⟩
  case refused =>
    rcases hp with ⟨h1, h2⟩ | ⟨h1, h2⟩
    · exact exec_place_refused ht ho (readPlace_group (g := ⟨_, h2⟩) hc h1 rfl) hn
    · exact exec_place_refused ht ho (readPlace_channel (d := ⟨_, h2⟩) hc h1 rfl) hn
  case group =>
    exact ⟨_, exec_place_group ht ho (readPlace_group hc h1 h2) (Calls.mayPlace_iff.mpr ⟨hs, hn⟩), hk0 ▸ rfl⟩
  case direct =>
    have read := readPlace_channel hc h1 h2
    have may := Calls.mayPlace_iff.mpr ⟨hs, hn⟩
    refine ⟨exec_place_unreachable ht ho read may, fun hb hu hd =>
      ⟨_, exec_place_channel ht ho read may (Calls.mayReach_iff.mpr ⟨hd, hu, hb⟩), fun hi htr => ?_, fun hbusy => ?_⟩⟩
    · rw [Calls.placeDirect_eq_placeOn hi hu htr, hk0]
      exact Calls.placeOn_placedOn s c d (s.calls.newAttempt c) hd (by rw [Calls.newAttempt_state, hs]; rfl)
    · rw [Calls.placeDirect_eq_busy hbusy, hk0]
      exact Calls.busyOutcome_busies ..
  case burst =>
    rw [exec_ringBurst hr ho hc hq hb hf, show s.calls.takeRingBurst (s.inBurstAt c).env c = _ from if_pos hs]
    refine ⟨(s.calls.raise (s.inBurstAt c).env .ringin c).newAttempt c, s.inBurstAt c, rfl, ?_, ?_, ?_⟩
    · unfold Calls.incomingCall
      rw [hg]
      rfl
    · exact Calls.onlyAt_trans (Calls.onlyAt_raise (by simp) ..) (Calls.onlyAt_alter (by simp) ..)
    · obtain ⟨ses, listen, levels, notices⟩ := Calls.stands_raise (s.inBurstAt c) .ringin
        (k := s.calls) (c := c) ⟨rfl, rfl, rfl, rfl⟩
      exact ⟨by rw [Calls.newAttempt, Calls.ses_alter_self, ses], listen, levels, notices⟩
  case noanswer =>
    have hx : exec (.cadenceExpiry c) s = .next (s.close (s.calls.cadence s.env c)) :=
      exec_expiry (f := Calls.cadence) rfl hr ht (by rcases hs with hs | hs <;> rw [hs] <;> rfl)
    rw [hx, Calls.cadence_off hp, if_pos (by simpa using hle)]
    have hst : (s.calls.ses c).state ≠ .ringing := by rcases hs with hs | hs <;> simp [hs]
    obtain ⟨own, rung, others, batt, pool, groups, bridges⟩ := State.cycled_unanswered hst
    have next : ((s.calls.alter c Session.cycled).raise s.env .noanswer c).noAnswerGroup c = some n :=
      Calls.noAnswerGroup_eq_some (by simpa [Session.cycled] using hg) (by simpa using hn)
        (by rw [Calls.ses_raise, Calls.ses_alter_self]; exact hu)
    rw [Calls.noAnswer_hunts next]
    refine ⟨(s.calls.alter c Session.cycled).unanswered s.env c, _, rfl, others, rung, batt, pool, groups, bridges, own,
      fun hq hrest => State.idleStages_atRest (Reach.cls ?_) hq fun d hd => hrest d ?_⟩
    · exact (State.unanswered_reach s c).trans (Calls.hunt_reach ..)
    · exact (State.ringsFor_cycled s c d).mp ((Calls.mem_ringSet_iff ..).mp hd)
  case queueout =>
    refine ⟨s.calls.queuedOut s.env c, _, exec_expiry (f := Calls.queueOut) rfl hr ht (by rw [hs]; rfl),
      fun d hd => Calls.sameAt_trans (Calls.sameAt_groups ..) (Calls.sameAt_raise hd ..), Calls.raise_battQ ..,
      ⟨Calls.raise_receivers .., Calls.raise_rxQueue ..⟩, Calls.raise_bridges .., Calls.group_queuedOut _ _ _,
      Calls.stands_raise s .queueout ⟨rfl, rfl, rfl, rfl⟩, fun g h hg ho ht => Calls.queueOut_overflows hg ho ht,
      fun hn => ?_⟩
    rw [Calls.queueOut_busy hn]
    exact Calls.busyOutcome_busies ..

end Sys2Proof.Machine
end

section
/-! Channels in HOSTWAIT that the host joins or gives a tone (R154, R155). -/

namespace Sys2Proof.Machine

section

variable {s : State} {p : Params} {a b c : Chan} {l : Listen}

/-- A command that closes an event and names two channels in its result (08, section 8.7). -/
theorem reply_sessions (a b : Chan) (k : Calls) (s : State) :
    (withSessions a (some b) k s).state.mail
        (Mailbox.post (withSessions a (some b) k s).code (withSessions a (some b) k s).bytes) =
      (s.close k).mail (Mailbox.post .ok
        [byteOf a, byteOf (k.ses a).state.code, byteOf b, byteOf (k.ses b).state.code]) := by
  rw [withSessions_state, withSessions_code, withSessions_bytes]
  rfl

/-! ### CONNECT -/

theorem readTwoChans_eq_some (ha : (look p 0).toNat = a) (hb : (look p 1).toNat = b) (hab : a ≠ b) :
    readTwoChans p = some (a, b) := by
  simp [readTwoChans, readFin_eq_some ha, readFin_eq_some hb, hab]

theorem exec_connect (ht : s.taking .connect p) (ho : s.op = .run) (hp : readTwoChans p = some (a, b)) :
    exec .connect s = .next ((connectBody (a, b) s).state.mail
      (Mailbox.post (connectBody (a, b) s).code (connectBody (a, b) s).bytes)) :=
  takeChecked _ ht hp (by rw [ho]; rfl)

theorem connectBody_refused (h : (s.calls.ses a).state ≠ .hostwait ∨ (s.calls.ses b).state ≠ .hostwait) :
    connectBody (a, b) s = refuse .badState s := if_neg fun ⟨ha, hb⟩ => h.elim (· ha) (· hb)

theorem connectBody_joins (ha : (s.calls.ses a).state = .hostwait) (hb : (s.calls.ses b).state = .hostwait) :
    connectBody (a, b) s = withSessions a (some b) (s.calls.pair a b) s := if_pos ⟨ha, hb⟩

/-! ### SET_LISTEN -/

/-- A tone is read from its code (R178). -/
theorem readTone_toneIx {x : Byte} {t : Tone} (h : x.toNat = toneIx t) : readTone x = some t := by
  unfold readTone readCode
  rw [h]
  cases t <;> rfl

/-- What SET_LISTEN names, with the two result bytes that its source is given back in (R155; 08, section 8.7). -/
theorem readListen_eq_some (hc : (look p 0).toNat = c)
    (h : look p 1 = 0 ∧ l = .none ∨ look p 1 = 1 ∧ ∃ x, (look p 2).toNat = toneIx x ∧ l = .tone x) :
    readListen p = some (c, l) ∧ byteOf l.code.1 = look p 1 ∧
      byteOf l.code.2 = if look p 1 = 0 then 0 else look p 2 := by
  unfold readListen
  rw [readFin_eq_some hc]
  rcases h with ⟨h1, rfl⟩ | ⟨h1, x, h2, rfl⟩
  · rw [h1]
    exact ⟨rfl, rfl, rfl⟩
  · rw [h1, readTone_toneIx h2]
    exact ⟨rfl, rfl, (congrArg byteOf h2.symm).trans (by simp [byteOf])⟩

theorem Calls.mayListen_iff {k : Calls} : k.mayListen c = true ↔
    (k.ses c).state = .hostwait ∧ ((k.ses c).cls = .trunk → (k.levels c).loop = true) := by
  simp [Calls.mayListen, imp_iff_not_or]

theorem exec_setListen (ht : s.taking .setListen p) (ho : s.op = .run) (hp : readListen p = some (c, l)) :
    exec .setListen s = .next ((setListenBody (c, l) s).state.mail
      (Mailbox.post (setListenBody (c, l) s).code (setListenBody (c, l) s).bytes)) :=
  takeChecked _ ht hp (by rw [ho]; rfl)

end

/-- Settles O39: the two commands by their conditions; CONNECT joins its channels as every two-party connection does. -/
theorem hostwaitChannelsAreConnectedOrGivenATone : Obligations.HostwaitChannelsAreConnectedOrGivenATone := by
  unfold Obligations.HostwaitChannelsAreConnectedOrGivenATone
  refine ⟨fun a b s p ht ho ha hb hab => ?connect, fun c l s p ht ho hc hl => ?listen⟩
  case connect =>
    rw [exec_connect ht ho (readTwoChans_eq_some ha hb hab)]
    refine ⟨fun h => by rw [connectBody_refused h]; rfl, fun hsa hsb => ?_⟩
    obtain ⟨sa, sb⟩ := Calls.pair_stands hab s.calls
    rw [connectBody_joins hsa hsb, reply_sessions]
    refine ⟨_, ?_, Calls.onlyAt_pair (by simp) (by simp) _, sa, sb⟩
    rw [sa.1, sb.1]
    rfl
  case listen =>
    obtain ⟨read, kind, tone⟩ := readListen_eq_some hc hl
    rw [exec_setListen ht ho read, setListenBody]
    refine ⟨fun h => ?refused, fun hs htr => ?given⟩
    case refused =>
      have hn : ¬ s.calls.mayListen c = true := by
        rw [Calls.mayListen_iff]
        rintro ⟨hs, hloop⟩
        rcases h with h | ⟨htr, hopen⟩
        · exact h hs
        · exact absurd (hloop htr) (by simp [hopen])
      rw [if_neg hn]
      rfl
    case given =>
      rw [if_pos (Calls.mayListen_iff.mpr ⟨hs, htr⟩), ← tone, ← kind, ← hs]
      rfl

end Sys2Proof.Machine
end

section
/-! Consultation and return (R139 to R142, R148, R149): what a command of the host, or a flash, does to the parties. -/

namespace Sys2Proof.Machine

section

variable {q : Request} {s : State} {cmd : Cmd} {c h x : Chan} {p : Params} {e : Env} {k l : Calls}

/-! ### The requests -/

/-- The records with the request's own notice raised (R139). -/
def Request.noted (e : Env) (c : Chan) (k : Calls) : Request → Calls
  | .command => k
  | .flash => k.raise e .flash c

theorem Request.noted_reach : Reach k (q.noted e c k) := by
  cases q with
  | command => exact .refl k
  | flash => exact k.raise_reach e .flash c

theorem Request.noted_only : k.onlyAt [c] (q.noted e c k) := by
  cases q with
  | command => exact Calls.onlyAt_refl [c] k
  | flash => exact Calls.onlyAt_raise (by simp) ..

/-- A request changes no session record by its notice. -/
theorem Request.noted_ses (d : Chan) : (q.noted e c k).ses d = k.ses d := by
  cases q with
  | command => rfl
  | flash => exact Calls.ses_raise ..

/-- What stands at the channel of a request when its notice has been raised. -/
theorem Request.noted_stands (q : Request) (s : State) (c : Chan) : (q.noted s.env c s.calls).stands c (s.calls.ses c)
    (look s.calls.listen c) (s.calls.levels c) (s.recorded q.notices c) := by
  cases q with
  | command => exact ⟨rfl, rfl, rfl, rfl⟩
  | flash => exact Calls.stands_raise s .flash ⟨rfl, rfl, rfl, rfl⟩

/-- A request changes nothing before the Session Table does but the loop qualifier of its own line. -/
theorem Request.delivered_eq (q : Request) (s : State) (c : Chan) :
    q.delivered s c = { s with loopQ := (q.delivered s c).loopQ } := by
  cases q <;> rfl

theorem Request.delivered_loopQ (q : Request) (s : State) {c d : Chan} (h : d ≠ c) :
    look (q.delivered s c).loopQ d = look s.loopQ d := by
  cases q with
  | command => rfl
  | flash => exact look_put_ne _ _ _ _ h.symm

/-- The flash of a station is taken where it is delivered (R42, R139). -/
theorem exec_flash (hr : Request.flash.ready s cmd c p) : exec (Request.flash.row cmd c) s =
    .next ((Request.flash.delivered s c).close (s.calls.flash (Request.flash.delivered s c).env c)) := by
  obtain ⟨hres, ho, hc, hq, hhit, hbreak, hflash, hf⟩ := hr
  rw [Request.row, exec_loopReport true hres hc, LoopQual.report_closure _ _ _ hq,
    LoopQual.classify_flash _ _ hhit hbreak hflash]
  exact congrArg _ (State.deliver_fresh (s := Request.flash.delivered s c) ho hc hf)

/-! ### The start of a consultation -/

theorem Calls.consultPeer_of (hcls : (k.ses c).cls = .station) (hs : (k.ses c).state = .talk)
    (hh : (k.ses c).holds = none) (hp : (k.ses c).peer = some x) (hx : (k.ses x).holds = none) :
    k.consultPeer c = some x := by
  simp [Calls.consultPeer, hcls, hs, hh, hp, hx]

/-- The condition of a consultation fails (R139, R148). -/
theorem Calls.consultPeer_eq_none (h : (k.ses c).cls ≠ .station ∨ (k.ses c).state ≠ .talk ∨ (k.ses c).holds ≠ none ∨
    ∃ x, (k.ses c).peer = some x ∧ (k.ses x).holds ≠ none) : k.consultPeer c = none := by
  rw [Option.eq_none_iff_forall_ne_some]
  intro x hx
  obtain ⟨hcls, hs, hh, hp, hxh⟩ := Calls.consultPeer_eq_some hx
  rcases h with h | h | h | ⟨y, hy, hyh⟩
  · exact h hcls
  · exact h hs
  · exact h hh
  · cases hp.symm.trans hy
    exact hyh hxh

theorem exec_hold (hr : Request.command.ready s .hold c p) :
    exec .hold s = .next ((holdBody c s).state.mail (Mailbox.post (holdBody c s).code (holdBody c s).bytes)) := by
  obtain ⟨ht, ho, hc⟩ := hr
  exact takeChecked _ ht (readChan_eq_some hc) (by rw [ho]; rfl)

theorem holdBody_refused (h : s.calls.consultPeer c = none) : holdBody c s = refuse .badState s := by
  unfold holdBody
  rw [h]

/-- A flash that is only reported (R139). -/
theorem Calls.flash_reported (h : (k.ses c).flashMode = .notice ∨ (k.ses c).holds = none ∧ k.consultPeer c = none) :
    k.flash e c = k.raise e .flash c := by
  unfold Calls.flash
  rcases h with h | ⟨hh, hp⟩
  · rw [h]
  · rw [hh, hp]
    cases (k.ses c).flashMode <;> rfl

/-- A consultation, asked for either way (R139, R140, R148). -/
theorem Request.exec_consult (hr : q.ready s .hold c p) (hp : s.calls.consultPeer c = some x)
    (hm : q = .flash → (s.calls.ses c).flashMode = .consult) :
    exec (q.row .hold c) s = .next (q.result s c x
      ((q.noted (q.delivered s c).env c s.calls).consult (q.delivered s c).env c x)) := by
  cases q with
  | command =>
    have hb : holdBody c s = withSessions c (some x) (s.calls.consult s.env c x) s := by
      unfold holdBody
      rw [hp]
    rw [Request.row, show Cmd.hold.row = .hold from rfl, exec_hold hr, hb, reply_sessions]
    rfl
  | flash =>
    obtain ⟨-, -, hh, -⟩ := Calls.consultPeer_eq_some hp
    rw [exec_flash hr]
    unfold Calls.flash
    rw [hm rfl, hh, hp]
    rfl

/-- A party put on hold (R140). -/
theorem Calls.toHeld_stands (c holder : Chan) (k : Calls) : (k.toHeld c holder).stands c
    { (k.ses c).moved .held with heldBy := some holder } (.tone .hold) ⟨false, (k.ses c).cls == .trunk⟩
    (look k.notices c) := by
  have := Calls.stands_enter c .held (fun r => { r with heldBy := some holder }) k
  simpa [Calls.toHeld, Session.listen, Session.levels] using this

/-- The records of a consultation before its collection starts (R140): `x` on hold, `c` its holder without a partner. -/
def Calls.consulting (c x : Chan) (k : Calls) : Calls :=
  (k.toHeld x c).alter c fun r => { r with holds := some x, peer := none }

theorem Calls.consult_eq : k.consult e c x = (k.consulting c x).startDialling e c := rfl

theorem Calls.consulting_only : k.onlyAt [c, x] (k.consulting c x) :=
  Calls.onlyAt_trans (Calls.onlyAt_enter (by simp) ..) (Calls.onlyAt_alter (by simp) ..)

theorem Calls.consulting_ses (h : x ≠ c) :
    (k.consulting c x).ses c = { k.ses c with holds := some x, peer := none } := by
  rw [Calls.consulting, Calls.ses_alter_self, Calls.toHeld, Calls.ses_enter_ne _ _ _ _ _ h]

/-- A consultation leaves the peer on hold and its holder dialling (R140). -/
theorem State.consult_dials (s : State) (k : Calls) (hx : x ≠ c) :
    (∀ d, d ≠ c → d ≠ x → k.sameAt d (k.consult s.env c x)) ∧
    (k.consult s.env c x).stands x { (k.ses x).moved .held with heldBy := some c } (.tone .hold)
      ⟨false, (k.ses x).cls == .trunk⟩ (look k.notices x) ∧
    ({ s with calls := k.consulting c x } : State).dials c { k.ses c with holds := some x, peer := none } []
      (k.consult s.env c x) := by
  have dials := State.dials_of_onlyAt (s := { s with calls := k.consulting c x }) (ns := [])
    (Calls.onlyAt_refl [c] (k.consulting c x)) rfl
  rw [Calls.consulting_ses hx] at dials
  have ⟨others, _⟩ := dials
  exact ⟨fun d hd hdx => Calls.sameAt_trans (Calls.consulting_only.1 d (by simp [hd, hdx])) (others d (by simpa using hd)),
    Calls.stands_of_sameAt (Calls.sameAt_trans (Calls.sameAt_alter hx ..) (others x (by simpa using hx)))
      (k.toHeld_stands x c), dials⟩

end

/-- Settles O37: the refusals by the condition of a consultation, and the consultation as a start of dialling on the
records that have the peer on hold. -/
theorem consultationsStart : Obligations.ConsultationsStart := by
  unfold Obligations.ConsultationsStart
  intro q c s p hr
  refine ⟨fun h hq => ?refused, fun h hq => ?reported, fun x hcls hs hh hp hx hxc hm => ?consults⟩
  case refused =>
    subst hq
    rw [exec_hold hr, holdBody_refused (Calls.consultPeer_eq_none h)]
    rfl
  case reported =>
    subst hq
    refine ⟨_, exec_flash hr, ?_⟩
    rw [Calls.flash_reported (h.imp id fun ⟨hh, h⟩ => ⟨hh, Calls.consultPeer_eq_none (.inr (h.imp id .inr))⟩)]
    exact ⟨Request.noted_only (q := .flash), Request.noted_stands .flash (Request.flash.delivered s c) c⟩
  case consults =>
    refine ⟨_, Request.exec_consult hr (Calls.consultPeer_of hcls hs hh hp hx) hm, ?_⟩
    rw [q.delivered_eq s c]
    generalize (q.delivered s c).loopQ = w
    obtain ⟨hsc, -, -, hnc⟩ := Request.noted_stands q { s with loopQ := w } c
    obtain ⟨same, batt, ⟨pool, queue⟩, groups, bridges⟩ :
        s.calls.onlyAt [c] (q.noted ({ s with loopQ := w } : State).env c s.calls) := Request.noted_only
    generalize q.noted ({ s with loopQ := w } : State).env c s.calls = k at *
    obtain ⟨others, held, -, dbatt, dgroups, dbridges, pulse, lent, waits⟩ :=
      State.consult_dials { s with loopQ := w } k hxc
    obtain ⟨⟨hsx, -, -, hnx⟩, -⟩ := same x (by simpa using hxc)
    rw [hsx, hnx] at held
    rw [hsc] at pulse lent waits
    have hrx : ∀ r, s.calls.rx r = k.rx r := fun r => by rw [Calls.rx, ← pool]; rfl
    simp only [hrx, ← pool, ← queue, Calls.samePool]
    refine ⟨fun d hd hdx => Calls.sameAt_trans (same d (by simpa using hd)) (others d hd hdx), dbatt.trans batt,
      dgroups.trans groups, dbridges.trans bridges, held, ?_⟩
    rw [show s.recorded q.notices c = _ from hnc.symm]
    exact ⟨pulse, fun hmode r => lent r hmode, waits⟩

end Sys2Proof.Machine
end

section
/-! The return of a holder to its held party (R139, R141, R142, R149), and what its state held given up. -/

namespace Sys2Proof.Machine

section

variable {q : Request} {s : State} {c h : Chan} {p : Params} {e : Env} {k l : Calls}

/-! ### A holder gives up its state -/

/-- In TALK a holder gives up its partner; in every other state nobody in a session of theirs. -/
theorem SState.talk_or_aside {st : SState} (h : st.holder = true) : st = .talk ∨ st ∈ SState.aside := by
  revert h
  cases st <;> decide

theorem Calls.giveUp_talk {x : Chan} (hs : (k.ses c).state = .talk) (hp : (k.ses c).peer = some x) :
    k.giveUp e c = (k.alter c fun r => { r with peer := none }).dropPartner e x := by
  simp [Calls.giveUp, hs, hp]

theorem Calls.giveUp_talk_alone (hs : (k.ses c).state = .talk) (hp : (k.ses c).peer = none) : k.giveUp e c = k := by
  simp [Calls.giveUp, hs, hp]

/-- The stations to give up are told by the records alone. -/
theorem Calls.returning_congr (hs : ∀ d, l.ses d = k.ses d) : l.returning c = k.returning c := by
  simp only [Calls.returning, hs, Calls.ringSet_congr (fun d => congrArg _ (hs d)) fun d => congrArg _ (hs d)]

/-- A holder gives up the same where nothing but listen sources, levels and notices of its own line differ. -/
theorem Calls.onlyAt.giveUp_holder (h : k.onlyAt [c] l) (hs : ∀ d, l.ses d = k.ses d)
    (hst : (k.ses c).state.holder = true) : (k.giveUp e c).onlyAt [c] (l.giveUp e c) := by
  rcases SState.talk_or_aside hst with ht | ha
  · have hl : (l.ses c).state = .talk := by rw [hs, ht]
    cases hp : (k.ses c).peer with
    | none =>
      rw [Calls.giveUp_talk_alone ht hp, Calls.giveUp_talk_alone hl (by rw [hs, hp])]
      exact h
    | some x =>
      rw [Calls.giveUp_talk ht hp, Calls.giveUp_talk hl (by rw [hs, hp])]
      have hx : ((l.alter c fun r => { r with peer := none }).ses x).cls =
          ((k.alter c fun r => { r with peer := none }).ses x).cls := by
        rw [Calls.ses_alter, Calls.ses_alter, hs]
      unfold Calls.dropPartner
      rw [hx]
      split <;> exact (h.alter c _).enter ..
  · exact h.giveUp e (by rw [hs]) (by rw [hs]) (by rw [hs])
      (Calls.ringSet_congr (fun d => congrArg _ (hs d)) fun d => congrArg _ (hs d)) ha

/-- Its held party is none of those that a holder gives up. -/
theorem Calls.not_linked_of_holder (hst : (k.ses c).state.holder = true) (hh : (k.ses h).state = .held)
    (hq : h ∉ k.rxQueue) (hp : (k.ses c).peer ≠ some h) : ¬k.linked c h := by
  rintro (⟨-, hd⟩ | ⟨-, hd, -⟩ | ⟨-, hd⟩ | ⟨hs, -⟩ | ⟨hs, -⟩)
  · exact hq hd
  · rw [hh] at hd
    cases hd
  · exact hp hd
  · rw [hs] at hst
    cases hst
  · rw [hs] at hst
    cases hst

/-- The held party stands when its holder gives up its state. -/
theorem Calls.giveUp_holder_sameAt (hst : (k.ses c).state.holder = true) (hhc : h ≠ c) (hn : ¬k.linked c h) :
    k.sameAt h (k.giveUp e c) := by
  rcases SState.talk_or_aside hst with ht | ha
  · cases hp : (k.ses c).peer with
    | none =>
      rw [Calls.giveUp_talk_alone ht hp]
      exact Calls.sameAt_refl h k
    | some x =>
      have hx : h ≠ x := fun hx => hn (.inr (.inr (.inl ⟨by simp [ht], hx ▸ hp⟩)))
      rw [Calls.giveUp_talk ht hp]
      exact Calls.sameAt_trans (Calls.sameAt_alter hhc ..) ((Calls.dropPartner_only e (cs := [x]) (by simp) _).1 h
        (by simpa using hx))
  · exact Calls.giveUp_sameAt e hhc hn ha

/-- With the lines of a ringing set at rest and nobody queued, its going leads to nothing more (R27), whatever becomes of
the other parties of the event. -/
theorem State.gaveUp.stages_rest {cs : List Chan} (hg : s.gaveUp c cs k) (hm : s.mayGiveUp c) (hk : Reach s.calls k) :
    k.idleStages s.env (s.calls.returning c) = k := by
  obtain ⟨-, -, -, hrest⟩ := hm
  by_cases hst : (s.calls.ses c).state ∈ [SState.outring, .ringin]
  · exact State.idleStages_atRest hk.cls (hg.noQueue hst (hrest hst).1) fun d hd =>
      (hrest hst).2 d (Calls.mem_returning hd).2.1
  · have hr : s.calls.returning c = [] := List.eq_nil_iff_forall_not_mem.mpr fun d hd => hst (Calls.mem_returning hd).1
    rw [hr, Calls.idleStages_nil]

/-! ### The return -/

/-- The records of a return before stages 2 and 3 of R27 (R141, R142). -/
def Calls.returned (e : Env) (c h : Chan) (k : Calls) : Calls :=
  ((k.giveUp e c).alter c fun r => { r with holds := none }).pair c h

theorem Calls.returnToHeld_eq : k.returnToHeld e c h = (k.returned e c h).idleStages e (k.returning c) := rfl

theorem Calls.returned_only : (k.giveUp e c).onlyAt [c, h] (k.returned e c h) :=
  Calls.onlyAt_trans (Calls.onlyAt_alter (by simp) ..) (Calls.onlyAt_pair (by simp) (by simp) _)

/-- A holder back in TALK with its held party (R142). -/
theorem Calls.returned_stands (hch : c ≠ h) (hp : (k.ses c).peer ≠ some c)
    (hq : (k.ses c).state = .collecting → c ∉ k.rxQueue) (hsame : k.sameAt h (k.giveUp e c)) :
    (k.returned e c h).stands c { (k.ses c).moved .talk with holds := none, peer := some h } (.slot h)
      ⟨false, (k.ses c).cls == .trunk⟩ (look k.notices c) ∧
    (k.returned e c h).stands h { (k.ses h).moved .talk with peer := some c } (.slot c)
      ⟨false, (k.ses h).cls == .trunk⟩ (look k.notices h) := by
  obtain ⟨own, note⟩ := Calls.giveUp_own e c k hp hq
  obtain ⟨⟨hsh, -, -, hnh⟩, -⟩ := hsame
  obtain ⟨sc, sh⟩ := Calls.pair_stands hch ((k.giveUp e c).alter c fun r => { r with holds := none })
  rw [Calls.ses_alter_self, own, Calls.alter_notices, note] at sc
  rw [Calls.ses_alter_ne _ _ _ _ hch, hsh, Calls.alter_notices, hnh] at sh
  refine ⟨?_, sh⟩
  simpa [Calls.returned, Session.moved, SState.hasPeer, SState.rings] using sc

/-- The return of a holder, its own request noted, in the words of the statement (R11, R141, R142). -/
theorem State.returnToHeld_gaveUp (q : Request) (hst : (s.calls.ses c).state.holder = true) (hhc : h ≠ c)
    (hh : (s.calls.ses h).state = .held) (hq : h ∉ s.calls.rxQueue) (hp : (s.calls.ses c).peer ≠ some h)
    (hm : s.mayGiveUp c) :
    s.gaveUp c [c, h] ((q.noted s.env c s.calls).returnToHeld s.env c h) ∧
    ((q.noted s.env c s.calls).returnToHeld s.env c h).stands c
      { (s.calls.ses c).moved .talk with holds := none, peer := some h } (.slot h)
      ⟨false, (s.calls.ses c).cls == .trunk⟩ (s.recorded q.notices c) ∧
    ((q.noted s.env c s.calls).returnToHeld s.env c h).stands h
      { (s.calls.ses h).moved .talk with peer := some c } (.slot c) ⟨false, (s.calls.ses h).cls == .trunk⟩
      (s.noticesAt h) := by
  have only := Request.noted_only (q := q) (e := s.env) (c := c) (k := s.calls)
  have hses := fun d => Request.noted_ses (q := q) (e := s.env) (c := c) (k := s.calls) d
  have reach : Reach s.calls ((q.noted s.env c s.calls).returned s.env c h) :=
    ((Request.noted_reach.trans (Calls.giveUp_reach ..)).step (.fields _ c _ ⟨rfl, rfl, rfl, rfl, rfl, rfl, rfl⟩)).trans
      (Calls.pair_reach ..)
  obtain ⟨-, -, -, note⟩ := Request.noted_stands q s c
  generalize q.noted s.env c s.calls = k at *
  have ⟨others, _, ⟨_, hqueue⟩, _⟩ := only
  have linked : ¬s.calls.linked c h := Calls.not_linked_of_holder hst hh hq hp
  have ⟨hpc, hbc, hxc, _⟩ := hm
  have gave : s.gaveUp c [c, h] (k.returned s.env c h) := by
    refine State.gaveUp_trans s c [c, h] _ _ (State.giveUp_gaveUp hpc hbc hxc)
      (Calls.onlyAt_trans ((only.giveUp_holder hses hst).mono (by simp)) Calls.returned_only) (by simp) fun d hd => ?_
    simp only [List.mem_cons, List.not_mem_nil, or_false, not_or]
    exact ⟨Calls.linked_ne hpc hbc hxc hd, fun hdh => linked (hdh ▸ hd)⟩
  have rest : k.returnToHeld s.env c h = k.returned s.env c h := by
    rw [Calls.returnToHeld_eq, Calls.returning_congr hses]
    exact gave.stages_rest hm reach
  have same : k.sameAt h (k.giveUp s.env c) :=
    Calls.giveUp_holder_sameAt (by rwa [hses]) hhc
      (Calls.not_linked_of_holder (by rwa [hses]) (by rwa [hses]) (by rwa [hqueue]) (by rwa [hses]))
  obtain ⟨sc, sh⟩ := Calls.returned_stands hhc.symm (by rwa [hses]) (by rwa [hses, hqueue]) same
  rw [hses, note] at sc
  obtain ⟨⟨-, -, -, hnh⟩, -⟩ := others h (by simpa using hhc)
  rw [hses, hnh] at sh
  rw [rest]
  exact ⟨gave, sc, sh⟩

/-! ### The requests -/

theorem exec_retrieve (hr : Request.command.ready s .retrieve c p) : exec .retrieve s =
    .next ((retrieveBody c s).state.mail (Mailbox.post (retrieveBody c s).code (retrieveBody c s).bytes)) := by
  obtain ⟨ht, ho, hc⟩ := hr
  exact takeChecked _ ht (readChan_eq_some hc) (by rw [ho]; rfl)

/-- A return, asked for either way (R139, R149). -/
theorem Request.exec_return (hr : q.ready s .retrieve c p) (hh : (s.calls.ses c).holds = some h)
    (hst : (s.calls.ses c).state.holder = true) (hm : q = .flash → (s.calls.ses c).flashMode = .consult) :
    exec (q.row .retrieve c) s = .next (q.result s c h
      ((q.noted (q.delivered s c).env c s.calls).returnToHeld (q.delivered s c).env c h)) := by
  cases q with
  | command =>
    have hb : retrieveBody c s = withSessions c (some h) (s.calls.returnToHeld s.env c h) s := by
      unfold retrieveBody
      rw [hh]
    rw [Request.row, show Cmd.retrieve.row = .retrieve from rfl, exec_retrieve hr, hb, reply_sessions]
    rfl
  | flash =>
    have hf : s.calls.flash (Request.flash.delivered s c).env c =
        (s.calls.raise (Request.flash.delivered s c).env .flash c).returnToHeld (Request.flash.delivered s c).env c h := by
      unfold Calls.flash
      simp only [hm rfl, hh, hst, if_true]
    rw [exec_flash hr, hf]
    rfl

end

/-- Settles O38: a return gives up the holder's state, as a leaving does, and joins the two parties. -/
theorem holdersReturnToTheHeldParty : Obligations.HoldersReturnToTheHeldParty := by
  unfold Obligations.HoldersReturnToTheHeldParty
  intro q c s p hr
  refine ⟨fun hn hq => ?nobody, fun h hh hhc hheld hqueue hst hp hmay hm => ?returns⟩
  case nobody =>
    subst hq
    have hb : retrieveBody c s = refuse .badState s := by
      unfold retrieveBody
      rw [hn]
    rw [exec_retrieve hr, hb]
    rfl
  case returns =>
    have holder : (s.calls.ses c).state.holder = true := by
      revert hst
      cases (s.calls.ses c).state <;> decide
    have hlines := fun d => q.delivered_loopQ s (c := c) (d := d)
    refine ⟨_, Request.exec_return hr hh holder hm, ?_⟩
    rw [q.delivered_eq s c]
    generalize (q.delivered s c).loopQ = w at hlines
    exact State.returnToHeld_gaveUp (s := { s with loopQ := w }) q holder hhc hheld hqueue hp
      (hmay.congr rfl rfl rfl fun d hd => ⟨hlines d hd, rfl⟩)

end Sys2Proof.Machine
end

section
/-! The part at rest outside RUN (R170): what the Session Table holds there, the operations that leave it so, and the rows
that only RUN gives a meaning. -/

namespace Sys2Proof.Machine

/-! ### The records at rest -/

/-- The records of a part outside RUN (R170, R53, R59, R120, R128). -/
structure Calls.Quiet (k : Calls) : Prop where
  resting : ∀ c, (k.ses c).state = .idle ∨ (k.ses c).state = .blocked
  rxQueue : k.rxQueue = []
  queues : ∀ g, (k.group g).queue = []
  bridges : ∀ b, k.members b = []
  unassigned : ∀ r, (k.rx r).state.assigned = false

theorem State.quietLaw_iff (s : State) : s.quietLaw ↔ (s.op ≠ .run → s.calls.Quiet) :=
  ⟨fun h ho => let ⟨ses, rxq, queues, bridges, rx⟩ := h ho; ⟨ses, rxq, queues, bridges, rx⟩,
    fun h ho => let ⟨ses, rxq, queues, bridges, rx⟩ := h ho; ⟨ses, rxq, queues, bridges, rx⟩⟩

section

variable {k l : Calls} {s t : State}

/-- The law reads the states of the records, the queues, the bridges and the states of the receivers. -/
theorem Calls.Quiet.congr (h : k.Quiet) (hs : ∀ c, (l.ses c).state = (k.ses c).state) (hq : l.rxQueue = k.rxQueue)
    (hg : ∀ g, (l.group g).queue = (k.group g).queue) (hb : l.bridges = k.bridges)
    (hr : ∀ r, (l.rx r).state = (k.rx r).state) : l.Quiet where
  resting c := by rw [hs c]; exact h.resting c
  rxQueue := hq.trans h.rxQueue
  queues g := (hg g).trans (h.queues g)
  bridges b := by unfold Calls.members; rw [hb]; exact h.bridges b
  unassigned r := by rw [hr r]; exact h.unassigned r

theorem Calls.Quiet.setRx (h : k.Quiet) (r : RxIx) {x : Receiver} (hx : x.state.assigned = false) :
    (k.setRx r x).Quiet where
  resting := h.resting
  rxQueue := h.rxQueue
  queues := h.queues
  bridges := h.bridges
  unassigned q := by
    rw [Calls.rx_setRx]
    split
    · exact hx
    · exact h.unassigned q

/-- A channel that enters IDLE or BLOCKED (R156, R157). -/
theorem Calls.Quiet.enter (h : k.Quiet) (c : Chan) {st : SState} (hst : st = .idle ∨ st = .blocked) :
    (k.enter c st id).Quiet where
  resting d := by
    rw [Calls.ses_enter]
    split
    · exact hst
    · exact h.resting d
  rxQueue := h.rxQueue
  queues := h.queues
  bridges := h.bridges
  unassigned := h.unassigned

/-- Entering IDLE stops at its first stage outside RUN (R27). -/
theorem Calls.Quiet.enterIdle (h : k.Quiet) {e : Env} (he : e.op ≠ .run) (c : Chan) : (k.enterIdle e c).Quiet := by
  unfold Calls.enterIdle Calls.idleStages
  rw [if_neg he]
  exact h.enter c (.inl rfl)

theorem Calls.Quiet.alterGroup (h : k.Quiet) (g : GroupIx) {f : Group → Group}
    (hf : (f (k.group g)).queue = (k.group g).queue) : (k.alterGroup g f).Quiet :=
  h.congr (fun _ => rfl) rfl (fun j => by
    rw [Calls.group_alterGroup]
    split
    · next e => subst e; exact hf
    · rfl) rfl fun _ => rfl

/-- A receiver put back in service is FREE, with nobody waiting for it (R58, R59). -/
theorem Calls.Quiet.putInService (h : k.Quiet) (e : Env) (r : RxIx) : (k.putInService e r).Quiet := by
  have hr := h.unassigned r
  unfold Calls.putInService
  cases hs : (k.rx r).state with
  | free => exact h
  | offline =>
    have back : (k.setRx r .freed).returnReceiver e r = (k.setRx r .freed).setRx r .freed := by
      unfold Calls.returnReceiver
      simp only [Calls.rx_setRx_self, Calls.setRx_rxQueue, h.rxQueue, Receiver.freed]
    simp only [back]
    exact (h.setRx r rfl).setRx r rfl
  | quiet | onset | digit | gap => rw [hs] at hr; cases hr

theorem Calls.Quiet.withdraw (h : k.Quiet) (r : RxIx) : (k.withdraw r).Quiet := by
  have hr := h.unassigned r
  unfold Calls.withdraw
  cases hs : (k.rx r).state with
  | free => exact h.setRx r rfl
  | offline => exact h
  | quiet | onset | digit | gap => rw [hs] at hr; cases hr

theorem Receiver.stopped_unassigned (x : Receiver) : x.stopped.state.assigned = false := by
  unfold Receiver.stopped
  split
  · split <;> rfl
  · next h => simpa using h

/-- STOP leaves the records at rest (R28, R67, R120, R138). -/
theorem Calls.Quiet.stopAll (k : Calls) : k.stopAll.Quiet where
  resting := k.stopAll_quiet
  rxQueue := k.stopAll_rxQueue
  queues g := by rw [Calls.stopAll_group]
  bridges := k.stopAll_members
  unassigned r := by rw [Calls.stopAll_rx]; exact Receiver.stopped_unassigned _

/-- No session timer runs for a record at rest (R4). -/
theorem Calls.Quiet.not_due (h : k.Quiet) (kind : TimerKind) (c : Chan) : (k.ses c).due kind = false := by
  have hn : kind.runsIn (k.ses c).state = false := by
    rcases h.resting c with hs | hs <;> rw [hs] <;> cases kind <;> rfl
  rw [Session.due, hn, Bool.and_false]

/-! ### The law between events -/

theorem State.quietLaw_of_run (h : s.op = .run) : s.quietLaw := fun hn => absurd h hn

theorem State.quietLaw_of_quiet (h : s.calls.Quiet) : s.quietLaw := s.quietLaw_iff.mpr fun _ => h

/-- What does not lead out of RUN, and outside RUN leaves the records at rest, keeps the law. -/
theorem State.quietLaw_congr (hs : s.quietLaw) (ho : s.op = .run → t.op = .run)
    (hk : s.op ≠ .run → s.calls.Quiet → t.calls.Quiet) : t.quietLaw :=
  t.quietLaw_iff.mpr fun ht =>
    have hn : s.op ≠ .run := fun h => ht (ho h)
    hk hn (s.quietLaw_iff.mp hs hn)

theorem State.quietLaw_same (hs : s.quietLaw) (ho : t.op = s.op) (hk : t.calls = s.calls) : t.quietLaw :=
  State.quietLaw_congr hs (ho.trans ·) fun _ h => hk ▸ h

/-- An event that outside RUN leaves the records at rest keeps the law. -/
theorem State.close_quietLaw (hs : s.quietLaw) (hk : s.op ≠ .run → s.calls.Quiet → k.Quiet) : (s.close k).quietLaw :=
  State.quietLaw_congr hs (s.close_op k).trans fun ho h => by
    rw [State.close_calls]
    exact hk ho h

/-- A battery qualifier is no part of what is at rest. -/
theorem State.setBatt_quietLaw (hs : s.quietLaw) (c : Chan) (q : BattQual) :
    State.quietLaw { s with calls := s.calls.setBatt c q } := hs

/-- Outside RUN no delivery is taken up (R13). -/
theorem State.takeDelivery_quietLaw (hs : s.quietLaw) (v : Delivery) :
    (s.close (s.calls.takeDelivery s.env v)).quietLaw :=
  State.close_quietLaw hs fun ho h => by
    rw [Calls.takeDelivery_quiet ho]
    exact h

theorem State.hand_quietLaw (hs : s.quietLaw) (x : Taking) (v : Delivery) : (s.hand x v).quietLaw := by
  unfold State.hand
  split
  · exact State.takeDelivery_quietLaw hs v
  · exact hs

theorem State.deliver_quietLaw (hs : s.quietLaw) (x : Taking) (c : Chan) (ev : Option LineEvent) :
    (s.deliver x c ev).quietLaw := by
  unfold State.deliver
  split
  · exact State.hand_quietLaw hs x _
  · exact hs

theorem State.route_quietLaw (hs : s.quietLaw) (x : Taking) (r : Report) : (s.route x r).quietLaw := by
  unfold State.route
  split
  case h_1 => exact State.deliver_quietLaw (s := s.setLoopQ _ _) hs x _ _
  case h_2 => exact hs
  case h_3 => exact State.setBatt_quietLaw hs _ _
  all_goals exact hs

/-- A session timer runs out in RUN alone (R4, R170). -/
theorem State.expire_quietLaw (hs : s.quietLaw) (kind : TimerKind) (c : Chan) (f : Env → Chan → Calls → Calls) :
    (s.expire kind c f).quietLaw := by
  unfold State.expire
  split
  · next hd =>
    exact State.close_quietLaw hs fun _ h => absurd hd (by rw [h.not_due kind c]; exact Bool.false_ne_true)
  · exact hs

/-- A detector speaks to an assigned receiver alone (R61). -/
theorem State.indication_quietLaw (hs : s.quietLaw) (r : RxIx) (slot : Chan) (ind : Option Digit) :
    (s.indication r slot ind).quietLaw := by
  unfold State.indication
  split
  · exact State.quietLaw_congr hs id fun _ h => h.setRx r (by
      rw [Receiver.indicate_of_unassigned _ _ _ (h.unassigned r)]
      exact h.unassigned r)
  · exact hs

/-- A tone timer runs at an assigned receiver alone (R62, R63). -/
theorem Calls.Quiet.not_toneDue (h : k.Quiet) (r : RxIx) : (k.rx r).onDue = false ∧ (k.rx r).gapDue = false := by
  have hr := h.unassigned r
  unfold Receiver.onDue Receiver.gapDue
  cases hs : (k.rx r).state with
  | free | offline => exact ⟨rfl, rfl⟩
  | quiet | onset | digit | gap => rw [hs] at hr; cases hr

/-- An event of RUN leaves the part in RUN. -/
theorem State.Event.quietLaw_of_run (he : State.Event s t) (ho : s.op = .run) : t.quietLaw :=
  State.quietLaw_of_run (he.still.op.trans ho)

/-- An event that records at rest do not have happens in RUN alone. -/
theorem State.Event.quietLaw_of_not_quiet (he : State.Event s t) (hs : s.quietLaw) (ha : ¬ s.calls.Quiet) : t.quietLaw :=
  State.quietLaw_congr hs he.still.op.trans fun _ h => absurd h ha

/-! ### The commands of CONFIG -/

theorem withGroup_quietLaw (hs : s.quietLaw) (g : GroupIx) {f : Group → Group} (hf : ∀ x, (f x).queue = x.queue) :
    (withGroup g f s).state.quietLaw :=
  State.quietLaw_congr (t := (withGroup g f s).state) hs id fun _ h => h.alterGroup g (hf _)

/-- CONFIGURE_CHANNEL changes no session state (R7). -/
theorem Calls.Quiet.configured (h : k.Quiet) (a : ConfigArgs) : (k.alter a.chan (Session.configured a)).Quiet :=
  h.congr (fun d => by
    rw [Calls.ses_alter]
    split <;> rfl) rfl (fun _ => rfl) rfl fun _ => rfl

theorem configureBody_quietLaw (hs : s.quietLaw) (a : ConfigArgs) : (configureBody a s).state.quietLaw := by
  unfold configureBody
  split
  · exact hs
  · refine State.quietLaw_congr hs (s.configure_still a).op.trans fun _ h => ?_
    rw [carried_state]
    unfold State.configure
    dsimp only
    split
    · exact h.configured a
    · simp only [State.reclassed, State.kick_calls]
      exact (h.configured a).congr (fun _ => rfl) rfl (fun _ => rfl) rfl fun _ => rfl

theorem blockBody_quietLaw (hs : s.quietLaw) (c : Chan) : (blockBody c s).state.quietLaw := by
  unfold blockBody
  split
  · exact State.close_quietLaw hs fun _ h => h.enter c (.inr rfl)
  · exact hs

theorem restoreBody_quietLaw (hs : s.quietLaw) (c : Chan) : (restoreBody c s).state.quietLaw := by
  unfold restoreBody
  split
  · exact State.close_quietLaw hs fun ho h => h.enterIdle ho c
  · exact hs

theorem receiverServiceBody_quietLaw (hs : s.quietLaw) (a : RxIx × Bool) : (receiverServiceBody a s).state.quietLaw := by
  refine State.close_quietLaw hs fun _ h => ?_
  split
  · exact h.putInService ..
  · exact h.withdraw ..

theorem stopBody_quietLaw (s : State) : (stopBody () s).state.quietLaw :=
  State.quietLaw_of_quiet (by rw [stopBody_calls]; exact Calls.Quiet.stopAll s.calls)

theorem State.endStopping_op_of_run (h : s.op = .run) : s.endStopping.op = .run := by
  unfold State.endStopping
  rw [if_neg fun hn => by simp [h] at hn, h]

theorem State.completeFrame_op_of_run (o : Order) (h : s.op = .run) : (s.completeFrame o).op = .run := by
  unfold State.completeFrame
  rw [State.pick_op]
  exact State.endStopping_op_of_run h

/-! ### The step -/

/-- A command that only RUN accepts keeps the law, whatever its event does (R170). -/
theorem takeInRun_quietLaw {α : Type} {cmd : Cmd} {args : Params → Option α} {body : α → State → Reply}
    (hb : ∀ a, State.Event s (body a s).state) (hs : s.quietLaw)
    (h : takeCommand cmd (checked inRun args body) s = .next t) : t.quietLaw :=
  takeCommand_keeps (P := State.quietLaw) (fun _ _ h => h) hs
    (fun _ => checked_keeps hs fun a _ ho => (hb a).quietLaw_of_run (by simpa [inRun] using ho)) h

/-- Every command keeps the part quiet outside RUN. -/
theorem exec_quietLaw (i : Instr) (h : exec i s = .next t) (hs : s.quietLaw) : t.quietLaw := by
  have act : ∀ {f : State → State}, (f s).quietLaw → awake f s = .next t → t.quietLaw :=
    fun hf h => awake_keeps hs hf h
  have expiry : ∀ {kind : TimerKind} {c : Chan} {f : Env → Chan → Calls → Calls},
      awake (State.expire kind c f) s = .next t → t.quietLaw := fun h => act (State.expire_quietLaw hs _ _ _) h
  have taken : ∀ {α : Type} {cmd : Cmd} {allowed : OpState → Bool} {args : Params → Option α} {body : α → State → Reply},
      takeCommand cmd (checked allowed args body) s = .next t → (∀ a, (body a s).state.quietLaw) → t.quietLaw :=
    fun h hb => takeCommand_keeps (P := State.quietLaw) (fun _ _ h => h) hs
      (fun _ => checked_keeps hs fun a _ _ => hb a) h
  cases i with
  | hardwareReset =>
    dsimp only [exec, execHardwareReset] at h
    injection h with h; subst h; exact State.reset_quietLaw
  | resetEnd =>
    dsimp only [exec, execResetEnd] at h
    injection h with h; subst h
    split
    · exact State.quietLaw_same hs (by simp) (by simp)
    · exact hs
  | conditionReport byte0 byte1 stop start x =>
    refine act ?_ h
    split
    · split
      · exact State.route_quietLaw hs _ _
      · exact State.quietLaw_same hs (by simp) (by simp)
    · exact hs
  | frameCompletion =>
    dsimp only [exec, execFrameCompletion] at h
    refine act ?_ h
    split
    · exact State.quietLaw_congr hs (State.completeFrame_op_of_run _) fun _ h => by rwa [State.completeFrame_calls]
    · exact hs
  | frameSync v x =>
    refine act ?_ h
    obtain ⟨w, e⟩ := s.highwayFrame_same v x
    rw [e]
    exact hs
  | toneStepEnd x =>
    refine act ?_ h
    unfold State.toneStep
    dsimp only
    split <;> exact hs
  | detectorIndication r ind => exact act (State.indication_quietLaw hs _ _ _) h
  | toneOnMinExpiry r x =>
    refine act ?_ h
    split
    · next hd => exact (s.toneOn_event x r hd).quietLaw_of_not_quiet hs fun hq => by simp [hq.not_toneDue r] at hd
    · exact hs
  | toneGapMinExpiry r =>
    refine act ?_ h
    split
    · next hd =>
      exact (s.setCalls_event _ (Calls.toneGap_reach _ _ hd)).quietLaw_of_not_quiet hs fun hq => by
        simp [hq.not_toneDue r] at hd
    · exact hs
  | seizeQualExpiry c x =>
    refine act ?_ h
    unfold State.seizeQual
    dsimp only
    split
    · exact State.deliver_quietLaw (s := s.setLoopQ _ _) hs _ _ _
    · exact hs
  | flashMaxExpiry c x =>
    refine act ?_ h
    unfold State.flashMax
    dsimp only
    split
    · exact State.deliver_quietLaw (s := s.setLoopQ _ _) hs _ _ _
    · exact hs
  | pulseMakeEndExpiry c x =>
    refine act ?_ h
    unfold State.pulseMakeEnd
    dsimp only
    split
    · exact State.deliver_quietLaw (s := s.setLoopQ _ _) hs _ _ _
    · exact hs
  | burstTimerExpiry c x =>
    refine act ?_ h
    unfold State.burstEnd
    dsimp only
    split
    · split
      · exact State.deliver_quietLaw (s := s.setRingQ _ _) hs _ _ _
      all_goals exact hs
    · exact hs
  | gapTimerExpiry c x =>
    refine act ?_ h
    unfold State.gapEnd
    dsimp only
    split
    · exact State.deliver_quietLaw (s := s.setRingQ _ _) hs _ _ _
    · exact hs
  | battSeizeQualExpiry c x =>
    refine act ?_ h
    unfold State.battOn
    split
    · exact State.deliver_quietLaw (State.setBatt_quietLaw hs _ _) _ _ _
    · exact hs
  | farOpenMinExpiry c x =>
    refine act ?_ h
    unfold State.farOpen
    split
    · exact State.deliver_quietLaw (State.setBatt_quietLaw hs _ _) _ _ _
    · exact hs
  | firstDigitExpiry | interdigitExpiry | overlapExpiry | rxWaitExpiry | cadenceExpiry | queueWaitExpiry | toneoutExpiry
  | guardExpiry | seizeWaitExpiry | cutThroughExpiry => exact expiry h
  | statusRead =>
    dsimp only [exec, execStatusRead] at h
    exact act (by exact hs) h
  | resultRead k =>
    dsimp only [exec, execResultRead] at h
    exact act (by exact hs) h
  | completionRead =>
    dsimp only [exec, execCompletionRead] at h
    exact act (by exact hs) h
  | controlWrite b =>
    dsimp only [exec, execControlWrite] at h
    exact act (by exact hs) h
  | paramWrite | ignoredRegisterWrite | unknown | commandOffer => exact act hs h
  | start => exact taken h fun _ => State.quietLaw_of_run (startBody_op s)
  | stop => exact taken h fun _ => stopBody_quietLaw s
  | setParam | setNoticeMask | readParam | readSession | readDigits | readGroup | readBridge | clearEntry
  | setWatch | armWatch | disarmWatch => exact taken h fun _ => hs
  | applyParams => exact taken h fun _ => by unfold applyParamsBody; split <;> exact hs
  | writeEntry => exact taken h fun _ => by unfold writeEntryBody; split <;> exact hs
  | takeNotices => exact taken h fun _ => by unfold takeNoticesBody; split <;> exact hs
  | configureChannel => exact taken h fun a => configureBody_quietLaw hs a
  | block => exact taken h fun c => blockBody_quietLaw hs c
  | restore => exact taken h fun c => restoreBody_quietLaw hs c
  | writeGroup => exact taken h fun a => withGroup_quietLaw hs _ fun _ => rfl
  | setMembers =>
    refine taken h fun a => ?_
    unfold setMembersBody
    split
    · exact withGroup_quietLaw hs _ fun _ => rfl
    · exact hs
  | addMember =>
    refine taken h fun a => ?_
    unfold addMemberBody
    dsimp only
    split
    · exact hs
    · split
      · exact hs
      · exact withGroup_quietLaw hs _ fun _ => rfl
  | dropMember =>
    refine taken h fun a => ?_
    unfold dropMemberBody
    split
    · exact withGroup_quietLaw hs _ fun _ => rfl
    · exact hs
  | receiverService => exact taken h fun a => receiverServiceBody_quietLaw hs a
  | hold => exact takeInRun_quietLaw (holdBody_event · s) hs h
  | retrieve => exact takeInRun_quietLaw (retrieveBody_event · s) hs h
  | transfer => exact takeInRun_quietLaw (transferBody_event · s) hs h
  | drop => exact takeInRun_quietLaw (dropBody_event · s) hs h
  | place => exact takeInRun_quietLaw (placeBody_event · s) hs h
  | connect => exact takeInRun_quietLaw (connectBody_event · s) hs h
  | setListen => exact takeInRun_quietLaw (setListenBody_event · s) hs h
  | conference => exact takeInRun_quietLaw (conferenceBody_event · s) hs h
  | join => exact takeInRun_quietLaw (joinBody_event · s) hs h

theorem State.tick_quietLaw (hs : s.quietLaw) : s.tick.quietLaw :=
  State.quietLaw_congr hs id fun _ h =>
    h.congr (fun c => by rw [State.tick_ses]) s.tick_rxQueue (fun g => by unfold Calls.group; rw [State.tick_groups])
      s.tick_bridges fun r => by rw [State.tick_rx]

/-- The part's own time keeps it quiet outside RUN. -/
theorem State.idleStep_quietLaw (hs : s.quietLaw) : s.idleStep.quietLaw := by
  unfold State.idleStep
  split
  · exact hs
  · split
    · next v rest _ => exact State.takeDelivery_quietLaw (s := { s with deliveries := rest }) hs v
    · next c _ _ =>
      obtain ⟨w, e⟩ := s.nextSlot_same c
      rw [e]
      exact hs
    · split
      · exact State.tick_quietLaw hs
      · exact hs

end

/-- Settles O53: outside RUN no delivery is taken, no timer runs and no call command is accepted, and the rest leaves the
records at rest. -/
theorem everyStepKeepsOutsideRunQuiet : Obligations.EveryStepKeepsOutsideRunQuiet := by
  unfold Obligations.EveryStepKeepsOutsideRunQuiet
  intro s t h hs
  unfold step at h
  split at h
  · injection h with h
    subst h
    exact State.idleStep_quietLaw hs
  · next q _ => exact exec_quietLaw (s := { s with pending := q }) _ h hs

end Sys2Proof.Machine
end

section
/-! The processor port (R161 to R167): what each address reads as, the row that each strobe is, what the access rows do to
the mailbox, and the bits of STATUS and CONTROL. -/

namespace Sys2Proof.Machine

/-! ### Codes -/

theorem Cmd.mem_allCmds (cmd : Cmd) : cmd ∈ allCmds := by cases cmd <;> decide

/-- A code is defined when it is a command's (R165). -/
theorem definedCode_iff (b : Byte) : definedCode b = true ↔ ∃ cmd : Cmd, cmd.code = b := by
  unfold definedCode
  simp only [List.any_eq_true, beq_iff_eq, Cmd.mem_allCmds, true_and]

theorem Cmd.definedCode_code (cmd : Cmd) : definedCode cmd.code = true := (definedCode_iff _).mpr ⟨cmd, rfl⟩

theorem definedCode_of_no_cmd {b : Byte} (h : ∀ cmd : Cmd, cmd.code ≠ b) : definedCode b = false :=
  Bool.eq_false_iff.mpr fun hd => let ⟨cmd, hc⟩ := (definedCode_iff b).mp hd; h cmd hc

theorem resultBuffer_nil : resultBuffer [] = Vector.replicate 32 0 :=
  table_ext fun i => by rw [resultBuffer, look_tabulate, look_replicate]; rfl

/-! ### Registers -/

/-- The fields of STATUS, each in its bits (R161). -/
theorem statusBits (m o : Fin 4) (c e a b : Bool) :
    let v := byteOf (m + 4 * o + 16 * bit c + 32 * bit e + 64 * bit a + 128 * bit b)
    v.getLsbD 4 = c ∧ v.getLsbD 5 = e ∧ v.getLsbD 6 = a ∧ v.getLsbD 7 = b ∧ v.toNat % 4 = m ∧ v.toNat / 4 % 4 = o := by
  revert m o c e a b
  decide

theorem MailState.code_lt (x : MailState) : x.code < 4 := by cases x <;> decide
theorem OpState.code_lt (x : OpState) : x.code < 4 := by cases x <;> decide

theorem State.statusByte_fields (s : State) :
    s.statusByte.getLsbD 4 = s.mbox.collision ∧ s.statusByte.getLsbD 5 = s.link.errorFlag ∧
      s.statusByte.getLsbD 6 = s.irqa ∧ s.statusByte.getLsbD 7 = s.irqb ∧
      s.statusByte.toNat % 4 = s.mbox.state.code ∧ s.statusByte.toNat / 4 % 4 = s.op.code :=
  statusBits ⟨_, s.mbox.state.code_lt⟩ ⟨_, s.op.code_lt⟩ ..

/-- The bits of CONTROL (R162). -/
theorem controlBits (a b d : Bool) :
    let v := byteOf (bit a + 2 * bit b + 4 * bit d)
    v.getLsbD 0 = a ∧ v.getLsbD 1 = b ∧ v.getLsbD 2 = d ∧ v.toNat < 8 := by
  revert a b d
  decide

theorem State.register_result (s : State) (k : Fin 8) : s.register ⟨2 + k, by omega⟩ = s.mbox.resultByte k := by
  fin_cases k <;> rfl

theorem State.register_attn (s : State) (n : Fin 4) : s.register ⟨11 + n, by omega⟩ = s.attnByte n := by
  fin_cases n <;> rfl

/-! ### Strobes -/

section

variable {p : BusPins}

theorem BusPins.reads_iff (p : BusPins) : p.reads = true ↔ p.cs = true ∧ p.rd = true ∧ p.wr = false := by
  simp [BusPins.reads, and_assoc]

theorem BusPins.writes_iff (p : BusPins) : p.writes = true ↔ p.cs = true ∧ p.rd = false ∧ p.wr = true := by
  cases hr : p.rd <;> simp [BusPins.writes, hr]

theorem BusPins.row_of_read (hc : p.cs = true) (hr : p.rd = true) (hw : p.wr = false) : p.row = readRow p.address :=
  if_pos (p.reads_iff.mpr ⟨hc, hr, hw⟩)

theorem BusPins.row_of_write (hc : p.cs = true) (hr : p.rd = false) (hw : p.wr = true) :
    p.row = some (writeRow p.address p.data) := by
  have hn : ¬ p.reads = true := fun h => by simp [p.reads_iff, hr] at h
  unfold BusPins.row
  rw [if_neg hn, if_pos (p.writes_iff.mpr ⟨hc, hr, hw⟩)]

/-- With CS high nothing is strobed (R161). -/
theorem BusPins.row_of_cs_high (h : p.cs = false) : p.row = none := by
  simp [BusPins.row, BusPins.reads, BusPins.writes, h]

/-- A strobe of RD that is a row is a read of the row's address. -/
theorem BusPins.read_of_row {i : Instr} (hr : p.rd = true) (h : p.row = some i) :
    p.reads = true ∧ readRow p.address = some i := by
  have hn : ¬ p.writes = true := fun hw => by simp [p.writes_iff, hr] at hw
  unfold BusPins.row at h
  by_cases hp : p.reads = true
  · rw [if_pos hp] at h
    exact ⟨hp, h⟩
  · rw [if_neg hp, if_neg hn] at h
    cases h

end

theorem readRow_result (k : Fin 8) : readRow ⟨2 + k, by omega⟩ = some (.resultRead k) := by
  fin_cases k <;> rfl

/-- The addresses whose read has no row (log 11). -/
theorem readRow_none {a : Fin 16} (h : a ∈ [1, 11, 12, 13, 14, 15]) : readRow a = none := by
  revert a
  decide

theorem writeRow_defined {b : Byte} (h : definedCode b = true) : writeRow 1 b = .commandOffer b := if_pos h

theorem writeRow_undefined {b : Byte} (h : definedCode b = false) : writeRow 1 b = .unknown b := by
  show (if definedCode b then Instr.commandOffer b else .unknown b) = _
  rw [h]
  rfl

theorem writeRow_param (k : Fin 8) (b : Byte) : writeRow ⟨2 + k, by omega⟩ b = .paramWrite k b := by
  fin_cases k <;> rfl

theorem writeRow_ignored {a : Fin 16} (h : a ∈ [0, 10, 11, 12, 13, 14]) (b : Byte) :
    writeRow a b = .ignoredRegisterWrite a b := by
  simp only [List.mem_cons, List.not_mem_nil, or_false] at h
  rcases h with rfl | rfl | rfl | rfl | rfl | rfl <;> rfl

/-! ### Accesses -/

section

variable {s : State}

theorem exec_statusRead (h : s.resetAsserted = false) : exec .statusRead s = .next
    { s with lastRead := some s.statusByte, mbox := { s.mbox with collision := false } } := by
  rw [exec, execStatusRead, awake_on _ h]
  rfl

theorem exec_resultRead (h : s.resetAsserted = false) (k : Fin 8) : exec (.resultRead k) s = .next { s with
    lastRead := some (s.mbox.resultByte k)
    mbox := { s.mbox with readPage := if k = 7 then s.mbox.readPage + 1 else s.mbox.readPage } } := by
  rw [← State.register_result, exec, execResultRead, awake_on _ h]
  rfl

theorem exec_completionRead (h : s.resetAsserted = false) : exec .completionRead s = .next { s with
    lastRead := some s.mbox.completion.code
    mbox := { s.mbox with readPage := 0, state := if s.mbox.state = .done then .idle else s.mbox.state } } := by
  rw [exec, execCompletionRead, awake_on _ h]
  rfl

theorem exec_controlWrite (h : s.resetAsserted = false) (b : Byte) : exec (.controlWrite b) s = .next { s with
    attn := { s.attn with
      irqaEnable := b.getLsbD 0, irqbEnable := b.getLsbD 1, doneEnable := b.getLsbD 2 } } := by
  rw [exec, execControlWrite, awake_on _ h]

theorem exec_ignoredRegisterWrite (h : s.resetAsserted = false) (a : Fin 16) (b : Byte) :
    exec (.ignoredRegisterWrite a b) s = .next s := awake_on _ h

/-- A PARAM write: a collision while BUSY, else a byte of the buffer (R163, R164). -/
theorem exec_paramWrite (h : s.resetAsserted = false) (k : Fin 8) (b : Byte) : exec (.paramWrite k b) s =
    .next (s.mail fun m => if m.state = .busy then m.collided else m.writeParam k b) := awake_on _ h

/-- Both rows of a write to COMMAND do the same (R163 to R165; log 19). -/
theorem exec_writeCommand (h : s.resetAsserted = false) (code : Byte) :
    exec (.commandOffer code) s = .next (s.mail (Mailbox.writeCommand code)) ∧
      exec (.unknown code) s = .next (s.mail (Mailbox.writeCommand code)) := ⟨awake_on _ h, awake_on _ h⟩

theorem Mailbox.writeCommand_busy {m : Mailbox} (h : m.state = .busy) (code : Byte) : m.writeCommand code = m.collided :=
  if_pos h

theorem Mailbox.writeCommand_defined {m : Mailbox} (h : m.state ≠ .busy) {code : Byte} (hd : definedCode code = true) :
    m.writeCommand code = m.offer code := by
  unfold Mailbox.writeCommand
  rw [if_neg h, if_pos hd]

theorem Mailbox.writeCommand_undefined {m : Mailbox} (h : m.state ≠ .busy) {code : Byte} (hd : definedCode code = false) :
    m.writeCommand code = (m.offer code).post .unknown [] := by
  unfold Mailbox.writeCommand
  rw [if_neg h, if_neg (by simp [hd])]

/-- Outside BUSY a PARAM write fills the buffer (R163). -/
theorem exec_paramWrite_open (h : s.resetAsserted = false) (hb : s.mbox.state ≠ .busy) (k : Fin 8) (b : Byte) :
    exec (.paramWrite k b) s = .next (s.mail (Mailbox.writeParam k b)) := by
  rw [exec_paramWrite h]
  simp only [State.mail, if_neg hb]

/-- Outside BUSY a command is offered (R163). -/
theorem exec_commandOffer_open (h : s.resetAsserted = false) (hb : s.mbox.state ≠ .busy) (cmd : Cmd) :
    exec (.commandOffer cmd.code) s = .next (s.mail (Mailbox.offer cmd.code)) := by
  rw [(exec_writeCommand h _).1, State.mail, Mailbox.writeCommand_defined hb cmd.definedCode_code]
  rfl

/-- Outside BUSY an undefined code completes in the event of its offer, with every result byte 0 (R165, R166). -/
theorem exec_unknown_open (h : s.resetAsserted = false) (hb : s.mbox.state ≠ .busy) {code : Byte}
    (hd : ∀ cmd : Cmd, cmd.code ≠ code) : exec (.unknown code) s = .next { s with mbox := { s.mbox with
      inFlight := none
      lastCode := code
      completion := .unknown
      result := Vector.replicate 32 0
      readPage := 0
      writePage := 0
      state := .done } } := by
  rw [(exec_writeCommand h _).2, State.mail, Mailbox.writeCommand_undefined hb (definedCode_of_no_cmd hd),
    ← resultBuffer_nil]
  rfl

/-- Every write to COMMAND or PARAM collides while BUSY (R164). -/
theorem exec_write_busy (h : s.resetAsserted = false) (hb : s.mbox.state = .busy) {i : Instr}
    (hi : (∃ k b, i = .paramWrite k b) ∨ (∃ code, i = .commandOffer code) ∨ ∃ code, i = .unknown code) :
    exec i s = .next (s.mail Mailbox.collided) := by
  rcases hi with ⟨k, b, rfl⟩ | ⟨code, rfl⟩ | ⟨code, rfl⟩
  · rw [exec_paramWrite h]
    simp only [State.mail, if_pos hb]
  · rw [(exec_writeCommand h code).1, State.mail, Mailbox.writeCommand_busy hb]
    rfl
  · rw [(exec_writeCommand h code).2, State.mail, Mailbox.writeCommand_busy hb]
    rfl

end

/-- Settles O42: the registers and the strobes by address, the accesses by their rows, the codes as their tables list
them. -/
theorem portAccessesAndOffers : Obligations.PortAccessesAndOffers := by
  unfold Obligations.PortAccessesAndOffers
  refine ⟨fun s h => ?reads, fun s h hb => ?writes, fun s => ?registers, fun p s => ?bus, fun p => ?strobes, ?codes, rfl,
    rfl, rfl, rfl⟩
  case reads =>
    exact ⟨exec_statusRead h, exec_resultRead h, exec_completionRead h, exec_controlWrite h,
      exec_ignoredRegisterWrite h, s.statusByte_fields⟩
  case writes =>
    exact ⟨exec_paramWrite_open h hb, exec_commandOffer_open h hb, fun _ => exec_unknown_open h hb⟩
  case registers => exact ⟨rfl, rfl, rfl, s.register_result, s.register_attn, controlBits ..⟩
  case bus =>
    refine ⟨fun hn => State.dataBus_of_not_reads s ?_, fun hc hr hw =>
      State.dataBus_of_reads s (p.reads_iff.mpr ⟨hc, hr, hw⟩), fun i h hr hi => ?_⟩
    · rw [Bool.eq_false_iff, Ne, p.reads_iff]
      rintro ⟨hc, hr, hw⟩
      simp [hc, hr, hw] at hn
    · obtain ⟨hp, hrow⟩ := BusPins.read_of_row hr hi
      rw [State.dataBus_of_reads s hp]
      exact exec_readRow h hrow
  case strobes =>
    refine ⟨fun hn => hn.elim BusPins.row_of_cs_high BusPins.row_of_rd_eq_wr, fun hc hr hw => ?read,
      fun hc hr hw => ?write⟩
    case read =>
      rw [BusPins.row_of_read hc hr hw]
      refine ⟨fun ha => ?_, fun k ha => ?_, fun ha => ?_, readRow_none⟩
      · rw [ha]; rfl
      · rw [ha, readRow_result]
      · rw [ha]; rfl
    case write =>
      rw [BusPins.row_of_write hc hr hw]
      refine ⟨fun cmd ha hd => ?_, fun ha hd => ?_, fun k ha => ?_, fun ha => ?_, fun ha => ?_⟩
      · rw [ha, writeRow_defined (hd ▸ cmd.definedCode_code)]
      · rw [ha, writeRow_undefined (definedCode_of_no_cmd hd)]
      · rw [ha, writeRow_param]
      · rw [ha]; rfl
      · rw [writeRow_ignored ha]
  case codes => simp [Cmd.code, Cmd.row]

/-- Settles O43: the write collides, which is nothing new with the flag set, and STATUS shows the flag once. -/
theorem writesWhileBusyCollide : Obligations.WritesWhileBusyCollide := by
  unfold Obligations.WritesWhileBusyCollide
  intro s h hb i hi
  refine ⟨exec_write_busy h hb hi, fun hc => ?again, ?read⟩
  case again =>
    have same : s.mbox.collided = s.mbox := by
      unfold Mailbox.collided
      rw [← hc]
    rw [exec_write_busy h hb hi, State.mail, same]
  case read =>
    exact ⟨_, exec_statusRead (s := { s with mbox := { s.mbox with collision := true } }) h, rfl, rfl, _, rfl,
      (State.statusByte_fields _).1⟩

end Sys2Proof.Machine
end

section
/-! The taking of a command (R165, R166, R170): each command's row checks the parameters that `Cmd.inRange` bounds, then
the operating states of `Cmd.accepted`, and its body posts a completion of its own; and the commands of the Parameter
Store (R174 to R176, R183). -/

namespace Sys2Proof.Machine

/-! ### Parameters in range -/

theorem readTwoChans_isSome (p : Params) : (readTwoChans p).isSome = Cmd.inRange .connect p := by
  unfold readTwoChans Cmd.inRange readFin
  by_cases h0 : (look p 0).toNat < 32
  · by_cases h1 : (look p 1).toNat < 32
    · by_cases he : (look p 0).toNat = (look p 1).toNat <;> simp [h0, h1, he]
    · simp [h1]
  · simp [h0]

theorem readMember_isSome (p : Params) : (readMember p).isSome = Cmd.inRange .addMember p := by
  simp only [Cmd.inRange, ← readFin_isSome]
  unfold readMember
  cases readFin 8 (look p 0) with
  | none => rfl
  | some g => cases readFin 32 (look p 1) <;> rfl

theorem readJoin_isSome (p : Params) : (readJoin p).isSome = Cmd.inRange .join p := by
  simp only [Cmd.inRange, ← readFin_isSome]
  unfold readJoin
  cases readFin 4 (look p 0) with
  | none => rfl
  | some b => cases readFin 32 (look p 1) <;> rfl

theorem readWatch_isSome (p : Params) : (readWatch p).isSome = Cmd.inRange .setWatch p := by
  have hm : (readWatchMode (look p 1)).isSome = decide ((look p 1).toNat < 2) := readCode_isSome _ _
  simp only [Cmd.inRange, ← readFin_isSome 2 (look p 0), ← hm]
  unfold readWatch
  cases readFin 2 (look p 0) with
  | none => rfl
  | some w => cases readWatchMode (look p 1) <;> rfl

/-- A byte below 2 is one of the two. -/
theorem byte_lt_two (b : Byte) : b.toNat < 2 ↔ b = 0 ∨ b = 1 := by
  constructor
  · intro h
    have : b.toNat = 0 ∨ b.toNat = 1 := by omega
    exact this.imp BitVec.eq_of_toNat_eq BitVec.eq_of_toNat_eq
  · rintro (rfl | rfl) <;> decide

theorem readService_isSome (p : Params) : (readService p).isSome = Cmd.inRange .receiverService p := by
  simp only [Cmd.inRange, ← readFin_isSome 8, byte_lt_two]
  unfold readService
  cases readFin 8 (look p 0) with
  | none => rfl
  | some r => split <;> simp_all

theorem readPlace_isSome (p : Params) : (readPlace p).isSome = Cmd.inRange .place p := by
  simp only [Cmd.inRange, ← readFin_isSome]
  unfold readPlace
  cases readFin 32 (look p 0) with
  | none => rfl
  | some c => split <;> simp_all

theorem readListen_isSome (p : Params) : (readListen p).isSome = Cmd.inRange .setListen p := by
  have ht : (readTone (look p 2)).isSome = decide ((look p 2).toNat < 5) := readCode_isSome _ _
  simp only [Cmd.inRange, ← readFin_isSome, ← ht]
  unfold readListen
  cases readFin 32 (look p 0) with
  | none => rfl
  | some c => split <;> simp_all

/-! ### Completions -/

/-- A reply that completes its command and leaves the mailbox to the completion (R166). -/
structure Reply.Completes (r : Reply) (s : State) : Prop where
  code : r.code ≠ .noResult
  mbox : r.state.mbox = s.mbox

section

variable {s t : State}

theorem carried_completes (bytes : List Byte) (h : t.mbox = s.mbox) : (carried bytes t).Completes s :=
  ⟨by simp, h⟩

theorem refuse_completes {code : Completion} (h : code ≠ .noResult) (s : State) : (refuse code s).Completes s := ⟨h, rfl⟩

theorem withSessions_completes (c : Chan) (d : Option Chan) (k : Calls) (s : State) :
    (withSessions c d k s).Completes s :=
  carried_completes _ (State.close_mbox s k)

theorem withGroup_completes (g : GroupIx) (f : Group → Group) (s : State) : (withGroup g f s).Completes s :=
  carried_completes _ rfl

/-! ### The commands' bodies -/

theorem startBody_completes (a : Unit) (s : State) : (startBody a s).Completes s :=
  carried_completes _ (State.close_mbox ..)

theorem stopBody_completes (a : Unit) (s : State) : (stopBody a s).Completes s :=
  carried_completes _ (by rw [State.endStopping_mbox, State.close_mbox])

theorem applyParamsBody_completes (a : Unit) (s : State) : (applyParamsBody a s).Completes s := by
  unfold applyParamsBody
  split
  · exact carried_completes _ rfl
  · exact ⟨by simp, rfl⟩

theorem configureBody_completes (a : ConfigArgs) (s : State) : (configureBody a s).Completes s := by
  unfold configureBody
  split
  · exact refuse_completes (by decide) s
  · exact carried_completes _ (s.configure_still a).mbox

theorem blockBody_completes (c : Chan) (s : State) : (blockBody c s).Completes s := by
  unfold blockBody
  split
  · exact withSessions_completes ..
  · exact refuse_completes (by decide) s

theorem restoreBody_completes (c : Chan) (s : State) : (restoreBody c s).Completes s := by
  unfold restoreBody
  split
  · exact withSessions_completes ..
  · exact refuse_completes (by decide) s

theorem writeEntryBody_completes (a : SlotIx × Entry) (s : State) : (writeEntryBody a s).Completes s := by
  unfold writeEntryBody
  split
  · exact ⟨by simp, rfl⟩
  · exact carried_completes _ rfl

theorem setMembersBody_completes (a : GroupIx × List Chan) (s : State) : (setMembersBody a s).Completes s := by
  unfold setMembersBody
  split
  · exact withGroup_completes ..
  · exact refuse_completes (by decide) s

theorem addMemberBody_completes (a : GroupIx × Chan) (s : State) : (addMemberBody a s).Completes s := by
  unfold addMemberBody
  dsimp only
  split
  · exact refuse_completes (by decide) s
  · split
    · exact refuse_completes (by decide) s
    · exact withGroup_completes ..

theorem dropMemberBody_completes (a : GroupIx × Chan) (s : State) : (dropMemberBody a s).Completes s := by
  unfold dropMemberBody
  split
  · exact withGroup_completes ..
  · exact refuse_completes (by decide) s

theorem receiverServiceBody_completes (a : RxIx × Bool) (s : State) : (receiverServiceBody a s).Completes s :=
  carried_completes _ (State.close_mbox ..)

theorem holdBody_completes (c : Chan) (s : State) : (holdBody c s).Completes s := by
  unfold holdBody
  split
  · exact withSessions_completes ..
  · exact refuse_completes (by decide) s

theorem retrieveBody_completes (c : Chan) (s : State) : (retrieveBody c s).Completes s := by
  unfold retrieveBody
  split
  · exact withSessions_completes ..
  · exact refuse_completes (by decide) s

theorem transferBody_completes (c : Chan) (s : State) : (transferBody c s).Completes s := by
  unfold transferBody
  split
  · exact withSessions_completes ..
  · exact refuse_completes (by decide) s

theorem dropBody_completes (c : Chan) (s : State) : (dropBody c s).Completes s := by
  unfold dropBody
  split
  case h_1 | h_2 | h_3 => exact refuse_completes (by decide) s
  all_goals exact withSessions_completes ..

theorem placeBody_completes (a : Chan × PlaceOn) (s : State) : (placeBody a s).Completes s := by
  unfold placeBody
  split
  · split
    · exact withSessions_completes ..
    · split
      · exact withSessions_completes ..
      · exact refuse_completes (by decide) s
  · exact refuse_completes (by decide) s

theorem connectBody_completes (a : Chan × Chan) (s : State) : (connectBody a s).Completes s := by
  unfold connectBody
  split
  · exact withSessions_completes ..
  · exact refuse_completes (by decide) s

theorem setListenBody_completes (a : Chan × Listen) (s : State) : (setListenBody a s).Completes s := by
  unfold setListenBody
  split
  · exact carried_completes _ rfl
  · exact refuse_completes (by decide) s

theorem conferenceBody_completes (c : Chan) (s : State) : (conferenceBody c s).Completes s := by
  unfold conferenceBody
  split
  · exact refuse_completes (by decide) s
  · split
    · exact refuse_completes (by decide) s
    · exact carried_completes _ (State.close_mbox ..)

theorem joinBody_completes (a : BridgeIx × Chan) (s : State) : (joinBody a s).Completes s := by
  unfold joinBody
  split
  · exact refuse_completes (by decide) s
  · split
    · exact refuse_completes (by decide) s
    · split
      · exact carried_completes _ (State.close_mbox ..)
      · exact refuse_completes (by decide) s

theorem takeNoticesBody_completes (n : Fin 33) (s : State) : (takeNoticesBody n s).Completes s := by
  unfold takeNoticesBody
  split <;> exact carried_completes _ rfl

end

/-! ### The rows -/

/-- The row of `cmd` takes its command by the checks of R165: the arguments that `args` reads, the operating states that
`allowed` accepts, and then `body`, which completes. -/
structure Cmd.Runs {α : Type} (cmd : Cmd) (allowed : OpState → Bool) (args : Params → Option α)
    (body : α → State → Reply) : Prop where
  row : ∀ s, exec cmd.row s = takeCommand cmd (checked allowed args body) s
  accepted : ∀ o, allowed o = cmd.accepted o
  inRange : ∀ p, (args p).isSome = cmd.inRange p
  completes : ∀ a s, (body a s).Completes s

/-- Every command's row checks what the command tables say (R165; 08, sections 8.6 and 8.7). -/
theorem Cmd.runs (cmd : Cmd) : ∃ (α : Type) (allowed : OpState → Bool) (args : Params → Option α)
    (body : α → State → Reply), cmd.Runs allowed args body := by
  cases cmd with
  | start => exact ⟨_, inConfig, noArgs, startBody, fun _ => rfl, fun _ => rfl, fun _ => rfl, startBody_completes⟩
  | stop => exact ⟨_, inRun, noArgs, stopBody, fun _ => rfl, fun _ => rfl, fun _ => rfl, stopBody_completes⟩
  | setParam =>
    exact ⟨_, outsideStopping, readParamArgs, setParamBody, fun _ => rfl, fun _ => rfl,
      readParamArgs_isSome, fun _ _ => carried_completes _ rfl⟩
  | applyParams =>
    exact ⟨_, outsideStopping, noArgs, applyParamsBody, fun _ => rfl, fun _ => rfl,
      fun _ => rfl, applyParamsBody_completes⟩
  | readParam =>
    exact ⟨_, anyMode, fun p => readFin 23 (look p 0), readParamBody, fun _ => rfl, fun _ => rfl,
      fun _ => readFin_isSome .., fun _ _ => carried_completes _ rfl⟩
  | setNoticeMask =>
    exact ⟨_, outsideStopping, fun p => some (readMask p), setNoticeMaskBody, fun _ => rfl, fun _ => rfl,
      fun _ => rfl, fun _ _ => carried_completes _ rfl⟩
  | configureChannel =>
    exact ⟨_, outsideStopping, readConfig, configureBody, fun _ => rfl, fun _ => rfl,
      readConfig_isSome, configureBody_completes⟩
  | block =>
    exact ⟨_, outsideStopping, readChan, blockBody, fun _ => rfl, fun _ => rfl,
      fun _ => readFin_isSome .., blockBody_completes⟩
  | restore =>
    exact ⟨_, outsideStopping, readChan, restoreBody, fun _ => rfl, fun _ => rfl,
      fun _ => readFin_isSome .., restoreBody_completes⟩
  | readSession =>
    exact ⟨_, anyMode, readChan, fun c s => carried (sessionRecord s c) s, fun _ => rfl, fun _ => rfl,
      fun _ => readFin_isSome .., fun _ _ => carried_completes _ rfl⟩
  | readDigits =>
    exact ⟨_, anyMode, readChan, fun c s => carried (digitsResult s.calls c) s, fun _ => rfl, fun _ => rfl,
      fun _ => readFin_isSome .., fun _ _ => carried_completes _ rfl⟩
  | writeEntry =>
    exact ⟨_, outsideStopping, readEntry, writeEntryBody, fun _ => rfl, fun _ => rfl,
      readEntry_isSome, writeEntryBody_completes⟩
  | clearEntry =>
    exact ⟨_, outsideStopping, fun p => readFin 128 (look p 0),
      fun i s => carried [] { s with plan := put s.plan i none }, fun _ => rfl, fun _ => rfl,
      fun _ => readFin_isSome .., fun _ _ => carried_completes _ rfl⟩
  | writeGroup =>
    exact ⟨_, outsideStopping, readGroupArgs, fun a s => withGroup a.group (Group.written a) s, fun _ => rfl,
      fun _ => rfl, readGroupArgs_isSome, fun _ _ => withGroup_completes ..⟩
  | setMembers =>
    exact ⟨_, outsideStopping, readMembers, setMembersBody, fun _ => rfl, fun _ => rfl,
      readMembers_isSome, setMembersBody_completes⟩
  | addMember =>
    exact ⟨_, outsideStopping, readMember, addMemberBody, fun _ => rfl, fun _ => rfl,
      readMember_isSome, addMemberBody_completes⟩
  | dropMember =>
    exact ⟨_, outsideStopping, readMember, dropMemberBody, fun _ => rfl, fun _ => rfl,
      readMember_isSome, dropMemberBody_completes⟩
  | readGroup =>
    exact ⟨_, anyMode, fun p => readFin 8 (look p 0), fun g s => carried (groupResult s.calls g) s, fun _ => rfl,
      fun _ => rfl, fun _ => readFin_isSome .., fun _ _ => carried_completes _ rfl⟩
  | receiverService =>
    exact ⟨_, outsideStopping, readService, receiverServiceBody, fun _ => rfl, fun _ => rfl,
      readService_isSome, receiverServiceBody_completes⟩
  | hold =>
    exact ⟨_, inRun, readChan, holdBody, fun _ => rfl, fun _ => rfl,
      fun _ => readFin_isSome .., holdBody_completes⟩
  | retrieve =>
    exact ⟨_, inRun, readChan, retrieveBody, fun _ => rfl, fun _ => rfl,
      fun _ => readFin_isSome .., retrieveBody_completes⟩
  | transfer =>
    exact ⟨_, inRun, readChan, transferBody, fun _ => rfl, fun _ => rfl,
      fun _ => readFin_isSome .., transferBody_completes⟩
  | drop =>
    exact ⟨_, inRun, readChan, dropBody, fun _ => rfl, fun _ => rfl,
      fun _ => readFin_isSome .., dropBody_completes⟩
  | place => exact ⟨_, inRun, readPlace, placeBody, fun _ => rfl, fun _ => rfl, readPlace_isSome, placeBody_completes⟩
  | connect =>
    exact ⟨_, inRun, readTwoChans, connectBody, fun _ => rfl, fun _ => rfl,
      readTwoChans_isSome, connectBody_completes⟩
  | setListen =>
    exact ⟨_, inRun, readListen, setListenBody, fun _ => rfl, fun _ => rfl,
      readListen_isSome, setListenBody_completes⟩
  | conference =>
    exact ⟨_, inRun, readChan, conferenceBody, fun _ => rfl, fun _ => rfl,
      fun _ => readFin_isSome .., conferenceBody_completes⟩
  | join => exact ⟨_, inRun, readJoin, joinBody, fun _ => rfl, fun _ => rfl, readJoin_isSome, joinBody_completes⟩
  | readBridge =>
    exact ⟨_, anyMode, fun p => readFin 4 (look p 0), fun b s => carried (bridgeResult s.calls b) s, fun _ => rfl,
      fun _ => rfl, fun _ => readFin_isSome .., fun _ _ => carried_completes _ rfl⟩
  | takeNotices =>
    exact ⟨_, anyMode, fun p => readFin 33 (look p 0), takeNoticesBody, fun _ => rfl, fun _ => rfl,
      fun _ => readFin_isSome .., takeNoticesBody_completes⟩
  | setWatch =>
    exact ⟨_, outsideStopping, readWatch, setWatchBody, fun _ => rfl, fun _ => rfl,
      readWatch_isSome, fun _ _ => carried_completes _ rfl⟩
  | armWatch =>
    exact ⟨_, outsideStopping, fun p => readFin 2 (look p 0), armWatchBody, fun _ => rfl, fun _ => rfl,
      fun _ => readFin_isSome .., fun _ _ => carried_completes _ rfl⟩
  | disarmWatch =>
    exact ⟨_, outsideStopping, fun p => readFin 2 (look p 0), disarmWatchBody, fun _ => rfl, fun _ => rfl,
      fun _ => readFin_isSome .., fun _ _ => carried_completes _ rfl⟩

section

variable {α : Type} {cmd : Cmd} {allowed : OpState → Bool} {args : Params → Option α} {body : α → State → Reply}
  {s : State} {p : Params}

/-- Parameters out of range are refused first (R165). -/
theorem Cmd.Runs.badArg (hr : cmd.Runs allowed args body) (ht : s.taking cmd p) (hp : cmd.inRange p = false) :
    exec cmd.row s = .next (s.mail (Mailbox.post .badArg [])) := by
  rw [hr.row]
  exact takeBadArg body ht (by simpa using (hr.inRange p).trans hp)

/-- Then an operating state that does not accept the command (R165, R170). -/
theorem Cmd.Runs.wrongMode (hr : cmd.Runs allowed args body) (ht : s.taking cmd p) (hp : cmd.inRange p = true)
    (ho : cmd.accepted s.op = false) : exec cmd.row s = .next (s.mail (Mailbox.post .wrongMode [])) := by
  obtain ⟨a, ha⟩ := Option.isSome_iff_exists.mp ((hr.inRange p).trans hp)
  rw [hr.row]
  exact takeWrongMode body ht ha ((hr.accepted _).trans ho)

theorem checked_completes (hb : ∀ a s, (body a s).Completes s) (p : Params) (s : State) :
    (checked allowed args body p s).Completes s := by
  rcases checked_cases allowed args body p s with ⟨-, h⟩ | ⟨a, -, -, h⟩ | ⟨a, -, -, h⟩
  · rw [h]; exact refuse_completes (by decide) s
  · rw [h]; exact refuse_completes (by decide) s
  · rw [h]; exact hb a s

/-- A command taken completes, whatever it does (R166). -/
theorem Cmd.Runs.completed (hr : cmd.Runs allowed args body) (ht : s.taking cmd p) :
    ∃ (t : State) (code : Completion) (bytes : List Byte), exec cmd.row s = .next t ∧ code ≠ .noResult ∧
      t.mbox = s.mbox.post code bytes := by
  have hc := checked_completes (allowed := allowed) (args := args) hr.completes p s
  refine ⟨_, _, (checked allowed args body p s).bytes, (hr.row s).trans (takeCommand_taken _ ht.1 ht.2), hc.code, ?_⟩
  rw [State.mail, hc.mbox]

/-- A command row finds nothing to take without its own command in flight (log 2). -/
theorem takeCommand_absent {body : Params → State → Reply} (h : ∀ p, s.mbox.inFlight ≠ some ⟨cmd.code, p⟩) :
    takeCommand cmd body s = .next s := by
  obtain ⟨t, ht⟩ : ∃ t, takeCommand cmd body s = .next t := ⟨_, rfl⟩
  rcases takeCommand_next ht with rfl | ⟨f, -, hf, hc, -⟩
  · exact ht
  · exact absurd (hc ▸ hf) (h f.params)

end

/-- Settles O44: the checks of each command's row, in their order, and the completion of what its body does. -/
theorem refusalsFollowTheOrderOfChecks : Obligations.RefusalsFollowTheOrderOfChecks := by
  unfold Obligations.RefusalsFollowTheOrderOfChecks
  intro cmd s
  obtain ⟨α, allowed, args, body, hr⟩ := cmd.runs
  refine ⟨fun p ht => ⟨fun hp => ?badArg, fun hp ho => ?wrongMode, hr.completed ht⟩, fun hn => ?absent, fun _ _ => rfl⟩
  case badArg =>
    rw [← resultBuffer_nil]
    exact ⟨_, hr.badArg ht hp, rfl, rfl⟩
  case wrongMode =>
    rw [← resultBuffer_nil]
    exact ⟨_, hr.wrongMode ht hp ho, rfl, rfl⟩
  case absent =>
    rw [hr.row]
    exact takeCommand_absent hn

/-! ### The Parameter Store -/

section

variable {s : State} {p : Params}

theorem readParamArgs_eq_some {i : ParamIx} {v : Nat} (h0 : (look p 0).toNat = i)
    (hv : (look p 1).toNat + 256 * (look p 2).toNat = v) (hl : look paramLow i ≤ v) (hh : v ≤ look paramHigh i) :
    readParamArgs p = some (i, v) := by
  have hr : paramInRange i v = true := by simp [paramInRange, hl, hh]
  have hw : readWord (look p 1) (look p 2) = v := hv
  unfold readParamArgs
  rw [readFin_eq_some h0]
  simp only [hw, hr, if_true]

theorem exec_setParam {i : ParamIx} {v : Nat} (ht : s.taking .setParam p) (ho : s.op ≠ .stopping)
    (ha : readParamArgs p = some (i, v)) : exec .setParam s = .next { s with
      params := { s.params with staged := put s.params.staged i v }
      mbox := s.mbox.post .ok [byteOf i, byteOf v, byteOf (v / 256), byteOf (look s.params.current i),
        byteOf (look s.params.current i / 256)] } := by
  have result : paramResult { s with params := { s.params with staged := put s.params.staged i v } } i =
      [byteOf i, byteOf v, byteOf (v / 256), byteOf (look s.params.current i),
        byteOf (look s.params.current i / 256)] := by
    simp [paramResult, wordBytes]
  refine (takeChecked setParamBody ht ha (outsideStopping_of_ne ho)).trans ?_
  rw [← result]
  rfl

/-- The four relations of R176, tried in their order. -/
theorem failedRelation_eq (v : ParamSet) {a b c d e f : Nat} (ha : look v Param.hitMax = a)
    (hb : look v Param.pulseBreakMax = b) (hc : look v Param.flashMin = c) (hd : look v Param.flashMax = d)
    (he : look v Param.overlapTime = e) (hf : look v Param.interdigitTime = f) :
    failedRelation v = if ¬ a < b then 1 else if ¬ b < c then 2 else if ¬ c < d then 3 else if ¬ e ≤ f then 4 else 0 := by
  subst ha hb hc hd he hf
  rfl

theorem exec_applyParams (ht : s.taking .applyParams p) (ho : s.op ≠ .stopping) : exec .applyParams s =
    .next ((applyParamsBody () s).state.mail
      (Mailbox.post (applyParamsBody () s).code (applyParamsBody () s).bytes)) :=
  takeChecked applyParamsBody ht (a := ()) rfl (outsideStopping_of_ne ho)

/-- A consistent staged set becomes the current one (R176). -/
theorem exec_applyParams_consistent (ht : s.taking .applyParams p) (ho : s.op ≠ .stopping)
    (h : failedRelation s.params.staged = 0) : exec .applyParams s = .next { s with
      params := { s.params with current := s.params.staged }, mbox := s.mbox.post .ok [0] } := by
  rw [exec_applyParams ht ho, applyParamsBody, if_pos h]
  rfl

/-- An inconsistent staged set is refused, with the number of the first relation that fails (R176). -/
theorem exec_applyParams_inconsistent (ht : s.taking .applyParams p) (ho : s.op ≠ .stopping) {n : Nat} (hn : n ≠ 0)
    (h : failedRelation s.params.staged = n) :
    exec .applyParams s = .next (s.mail (Mailbox.post .inconsistent [byteOf n])) := by
  subst h
  rw [exec_applyParams ht ho, applyParamsBody, if_neg hn]

/-! ### The notice mask -/

/-- The bits of a mask byte by byte, the last reading as 0 (R183). -/
theorem readMask_getLsbD (p : Params) (i : Nat) : (readMask p).getLsbD i =
    (decide (i < 15) && if i < 8 then (look p 0).getLsbD i else (look p 1).getLsbD (i - 8)) := by
  have low : (0x7FFF : BitVec 16).getLsbD i = decide (i < 15) := by
    by_cases hi : i < 16
    · interval_cases i <;> rfl
    · rw [BitVec.getLsbD_of_ge _ _ (by omega), decide_eq_false (by omega)]
  show ((look p 1 ++ look p 0) &&& (0x7FFF : BitVec 16)).getLsbD i = _
  rw [BitVec.getLsbD_and, low, BitVec.getLsbD_append, Bool.and_comm]

theorem noticeBytes_readMask (p : Params) : noticeBytes (readMask p) = [look p 0, look p 1 &&& 0x7F] := by
  have first : (readMask p).setWidth 8 = look p 0 := BitVec.eq_of_getLsbD_eq fun i hi => by
    rw [BitVec.getLsbD_setWidth, readMask_getLsbD, if_pos hi]
    simp [hi, show i < 15 by omega]
  have second : (readMask p >>> 8).setWidth 8 = look p 1 &&& 0x7F := BitVec.eq_of_getLsbD_eq fun i hi => by
    have low : (0x7F : BitVec 8).getLsbD i = decide (i < 7) := by
      interval_cases i <;> rfl
    rw [BitVec.getLsbD_setWidth, BitVec.getLsbD_ushiftRight, readMask_getLsbD, if_neg (by omega), BitVec.getLsbD_and, low,
      Nat.add_sub_cancel_left]
    simp [hi, Bool.and_comm, show (8 + i < 15) = (i < 7) by simp; omega]
  rw [noticeBytes, first, second]

theorem exec_setNoticeMask (ht : s.taking .setNoticeMask p) (ho : s.op ≠ .stopping) : exec .setNoticeMask s = .next
    { s with
      params := { s.params with mask := readMask p }
      mbox := s.mbox.post .ok [look p 0, look p 1 &&& 0x7F] } := by
  rw [← noticeBytes_readMask]
  exact takeChecked (args := fun p => some (readMask p)) setNoticeMaskBody ht rfl (outsideStopping_of_ne ho)

end

/-- Settles O47: the table of R174 read off, and each command by what its body leaves, APPLY_PARAMS by the first relation
that fails. -/
theorem parametersAreStagedAndApplied : Obligations.ParametersAreStagedAndApplied := by
  unfold Obligations.ParametersAreStagedAndApplied
  refine ⟨rfl, fun i v s p ht ho h0 hv hl hh => exec_setParam ht ho (readParamArgs_eq_some h0 hv hl hh),
    fun s p ht ho a b c d e f ha hb hc hd he hf => ?apply,
    fun s p ht ho => ⟨readMask p, readMask_getLsbD p, exec_setNoticeMask ht ho⟩⟩
  case apply =>
    have relations := failedRelation_eq s.params.staged ha hb hc hd he hf
    refine ⟨fun h1 h2 h3 h4 => exec_applyParams_consistent ht ho ?_,
      fun h1 => exec_applyParams_inconsistent ht ho (n := 1) (by decide) ?_,
      fun h1 h2 => exec_applyParams_inconsistent ht ho (n := 2) (by decide) ?_,
      fun h1 h2 h3 => exec_applyParams_inconsistent ht ho (n := 3) (by decide) ?_,
      fun h1 h2 h3 h4 => exec_applyParams_inconsistent ht ho (n := 4) (by decide) ?_⟩
    · rw [relations, if_neg (by omega), if_neg (by omega), if_neg (by omega), if_neg (by omega)]
    · rw [relations, if_pos (by omega)]
    · rw [relations, if_neg (by omega), if_pos (by omega)]
    · rw [relations, if_neg (by omega), if_neg (by omega), if_pos (by omega)]
    · rw [relations, if_neg (by omega), if_neg (by omega), if_neg (by omega), if_pos (by omega)]

end Sys2Proof.Machine
end

section
/-! The attention of the processor: the condition of a watch and its firing at the close of an event (R189, R190), the two
request lines (R186, R190) and the attention summary (R185). -/

namespace Sys2Proof.Machine

/-! ### The condition of a watch -/

/-- ANY: a selected channel stands in a state of the set (R189). -/
theorem Watch.condition_any {w : Watch} (hm : w.mode = .any) (k : Calls) : w.condition k = true ↔
    ∃ c, w.selects c = true ∧ w.states.getLsbD (k.ses c).state.code = true := by
  simp [Watch.condition, hm, mem_allChans]

/-- ALL: some channel is selected, and every one stands in a state of the set (R189). -/
theorem Watch.condition_all {w : Watch} (hm : w.mode = .all) (k : Calls) : w.condition k = true ↔
    (∃ c, w.selects c = true) ∧ ∀ c, w.selects c = true → w.states.getLsbD (k.ses c).state.code = true := by
  have nonempty : (allChans.filter w.selects != []) = true ↔ ∃ c, w.selects c = true := by
    simp [List.filter_eq_nil_iff, mem_allChans]
  have each : (allChans.filter w.selects).all (fun c => w.states.getLsbD (k.ses c).state.code) = true ↔
      ∀ c, w.selects c = true → w.states.getLsbD (k.ses c).state.code = true := by
    simp only [List.all_eq_true, List.mem_filter, mem_allChans, true_and]
  rw [Watch.condition, hm, ← nonempty, ← each]
  exact Bool.and_eq_true_iff

theorem Watch.condition_iff (w : Watch) (k : Calls) : w.condition k = true ↔
    (w.mode = .any ∧ (∃ c, w.selects c = true ∧ w.states.getLsbD (k.ses c).state.code = true) ∨
      w.mode = .all ∧ (∃ c, w.selects c = true) ∧
        ∀ c, w.selects c = true → w.states.getLsbD (k.ses c).state.code = true) := by
  cases hm : w.mode with
  | any => rw [Watch.condition_any hm]; simp
  | all => rw [Watch.condition_all hm]; simp

/-! ### The firing of a watch -/

/-- What fires a watch at the close of an event that leads from the records `k0` to `k1` (R189, R190). -/
def Watch.Fires (w : Watch) (k0 k1 : Calls) : Prop :=
  w.armed = true ∧ w.condition k1 = true ∧ ∃ c, w.selects c = true ∧ (k0.ses c).state ≠ (k1.ses c).state

theorem Watch.concerned_iff (w : Watch) (k0 k1 : Calls) :
    w.concerned k0 k1 = true ↔ ∃ c, w.selects c = true ∧ (k0.ses c).state ≠ (k1.ses c).state := by
  simp [Watch.concerned, mem_allChans]

theorem Watch.close_fires {w : Watch} {k0 k1 : Calls} (h : w.Fires k0 k1) :
    w.close k0 k1 = { w with armed := false, fired := true } := by
  obtain ⟨harmed, hcond, hchanged⟩ := h
  rw [Watch.close, if_pos ((w.concerned_iff k0 k1).mpr hchanged), Watch.evaluate, harmed, hcond]
  rfl

theorem Watch.close_waits {w : Watch} {k0 k1 : Calls} (h : ¬ w.Fires k0 k1) : w.close k0 k1 = w := by
  unfold Watch.close Watch.evaluate
  split
  · next hc =>
    refine if_neg fun he => h ?_
    obtain ⟨harmed, hcond⟩ := Bool.and_eq_true_iff.mp he
    exact ⟨harmed, hcond, (w.concerned_iff k0 k1).mp hc⟩
  · rfl

theorem State.look_close_watches (s : State) (k : Calls) (i : WatchIx) :
    look (s.close k).attn.watches i = (look s.attn.watches i).close s.calls k := by
  rw [State.close_attn, look_every]

/-- A busy transmitter picks nothing at the close (R34). -/
theorem State.close_link_busy {s : State} (h : s.link.flight.isSome = true) (k : Calls) :
    (s.close k).link = s.link := by
  rw [State.close_link, if_pos h]

/-! ### The request lines -/

theorem State.noticePending_eq (s : State) (c : Chan) : s.noticePending c = decide (s.noticesAt c ≠ 0) := by
  rw [Bool.eq_iff_iff, decide_eq_true_iff]
  exact bne_iff_ne

theorem State.irqa_iff (s : State) : s.irqa = true ↔
    s.attn.irqaEnable = true ∧ ((∃ c, s.noticesAt c ≠ 0) ∨ s.attn.linkErr = true) ∨
      s.attn.doneEnable = true ∧ s.mbox.state = .done := by
  simp [State.irqa, State.noticePending_eq, mem_allChans]

theorem State.irqb_iff (s : State) :
    s.irqb = true ↔ s.attn.irqbEnable = true ∧ ∃ i, (look s.attn.watches i).fired = true := by
  rw [Fin.exists_fin_two]
  simp [State.irqb]

/-! ### The attention summary -/

/-- A sum of the powers of two that `f` selects is the number with the bits `f`. -/
theorem sum_pow_eq_ofBits {n : Nat} (f : Fin n → Bool) :
    ((List.finRange n).map fun i => if f i then 2 ^ (i : Nat) else 0).sum = Nat.ofBits f := by
  induction n with
  | zero => rfl
  | succ n ih =>
    have rest : ((List.finRange n).map fun i => if f i.succ then 2 ^ (i.succ : Nat) else 0) =
        (List.finRange n).map fun i => 2 * if (f ∘ Fin.succ) i then 2 ^ (i : Nat) else 0 :=
      List.map_congr_left fun i _ => by simp [pow_succ']
    have first : (if f 0 then 2 ^ ((0 : Fin (n + 1)) : Nat) else 0) = (f 0).toNat := by cases f 0 <;> rfl
    rw [List.finRange_succ, List.map_cons, List.map_map, List.sum_cons, Nat.ofBits_succ, ← ih, ← List.sum_map_mul_left,
      ← rest, first, Nat.add_comm]
    rfl

theorem State.attnByte_eq (s : State) (n : Fin 4) :
    s.attnByte n = byteOf (Nat.ofBits fun k : Fin 8 => s.noticePending ⟨8 * n + k, by omega⟩) :=
  congrArg byteOf (sum_pow_eq_ofBits _)

theorem State.attnByte_getLsbD (s : State) (n : Fin 4) (j : Fin 8) :
    (s.attnByte n).getLsbD j = decide (s.noticesAt ⟨8 * n + j, by omega⟩ ≠ 0) := by
  rw [State.attnByte_eq, byteOf, BitVec.getLsbD_ofNat, Nat.testBit_ofBits_lt _ _ j.isLt, State.noticePending_eq,
    decide_eq_true j.isLt, Bool.true_and]

/-- Settles O51: the condition by the mode, each watch at the close by whether it fires, the lines by what enables them. -/
theorem firedWatchesAndRequestLines : Obligations.FiredWatchesAndRequestLines := by
  unfold Obligations.FiredWatchesAndRequestLines
  refine ⟨Watch.condition_iff, fun s k i => ⟨s.close_calls k, fun h => ?fires, fun h => ?waits, s.close_eq k,
    fun h => State.close_link_busy h k⟩, fun s => ⟨s.irqa_iff, s.irqb_iff, s.attnByte_getLsbD⟩⟩
  case fires => rw [State.look_close_watches, Watch.close_fires h]
  case waits => rw [State.look_close_watches, Watch.close_waits h]

end Sys2Proof.Machine
end

section
/-! The PCM highway (R122, R124, R125, R129; log 10): the sample of a slot by its source, a frame as far as the clocks run,
and the steps of the tone generators (R126). -/

namespace Sys2Proof.Machine

section

variable {s : State} {c : Chan} {incoming : Vector Byte 32}

/-! ### The sample of a slot -/

/-- A generator's output depends on its step alone (R126). -/
theorem ToneGen.sounding_eq (t : Tone) (g : ToneGen) : g.sounding t = ToneGen.sounding t ⟨g.step, none⟩ := rfl

/-- The silence steps of the tone generators (R126). -/
theorem ToneGen.silence_steps : ∀ y ∈
    ([(.ringback, 1), (.busy, 1), (.reorder, 1), (.hold, 1), (.hold, 3)] : List (Tone × Nat)),
    ToneGen.sounding y.1 ⟨y.2, none⟩ = false := by decide

/-- The tone steps of the tone generators, with the frequencies that sound in them (R126). -/
theorem ToneGen.burst_steps : ∀ y ∈
    ([(.dial, 0, [425, 475]), (.ringback, 0, [425, 475]), (.busy, 0, [475, 625]), (.reorder, 0, [475, 625]),
      (.hold, 0, [525]), (.hold, 2, [525])] : List (Tone × Nat × List Nat)),
    ToneGen.sounding y.1 ⟨y.2.1, none⟩ = true ∧ toneFrequencies y.1 = y.2.2 := by decide

theorem toneOut_silence {x : Tone} {g : ToneGen} (h : g.sounding x = false) (n : Nat) :
    toneOut n g x = Config.silence := by
  simp [toneOut, h]

theorem toneOut_burst {x : Tone} {g : ToneGen} (h : g.sounding x = true) (n : Nat) :
    toneOut n g x = Config.toneSample (toneIx x) (toneFrequencies x) n := if_pos h

theorem State.slotSample_unused (h : (s.calls.ses c).cls = .unused) : s.slotSample incoming c = Config.silence :=
  if_pos h

theorem State.slotSample_none (hu : (s.calls.ses c).cls ≠ .unused) (hl : look s.calls.listen c = .none) :
    s.slotSample incoming c = Config.silence := by
  rw [State.slotSample, if_neg hu, hl]

theorem State.slotSample_slot {d : Chan} (hu : (s.calls.ses c).cls ≠ .unused) (hl : look s.calls.listen c = .slot d) :
    s.slotSample incoming c = receivedFor incoming s.highway.received c d := by
  rw [State.slotSample, if_neg hu, hl]

theorem State.slotSample_bridge {b : BridgeIx} (hu : (s.calls.ses c).cls ≠ .unused)
    (hl : look s.calls.listen c = .bridge b) :
    s.slotSample incoming c = mixed incoming s.highway.received c (s.calls.members b) := by
  rw [State.slotSample, if_neg hu, hl]
  rfl

theorem State.slotSample_tone {x : Tone} (hu : (s.calls.ses c).cls ≠ .unused) (hl : look s.calls.listen c = .tone x) :
    s.slotSample incoming c = toneOut s.highway.frames (look s.tones (toneIx x)) x := by
  rw [State.slotSample, if_neg hu, hl]

/-- A slot that begins carries the sample of its source. -/
theorem State.slotSample_fills (s : State) (incoming : Vector Byte 32) (c : Chan) :
    s.fills incoming s.highway.frames c (s.slotSample incoming c) := by
  refine ⟨fun h => ?silent, fun d hu hl => State.slotSample_slot hu hl, fun b hu hl => State.slotSample_bridge hu hl,
    fun x hu hl => ?tone⟩
  case silent =>
    by_cases hu : (s.calls.ses c).cls = .unused
    · exact State.slotSample_unused hu
    · exact State.slotSample_none hu (h.resolve_left hu)
  case tone =>
    rw [State.slotSample_tone hu hl]
    refine ⟨fun h => ?_, fun fs h => ?_⟩
    · exact toneOut_silence ((ToneGen.sounding_eq ..).trans (ToneGen.silence_steps _ h)) _
    · obtain ⟨sounds, freqs⟩ := ToneGen.burst_steps _ h
      rw [toneOut_burst ((ToneGen.sounding_eq ..).trans sounds), freqs]

/-! ### Slots one after the other -/

theorem State.sendSlots_carried (a b : Chan) (s : State) (d : Chan) : look (s.sendSlots a b).highway.carried d =
    if a ≤ d ∧ d ≤ b then some (s.slotSample s.highway.arriving d) else look s.highway.carried d := by
  simp only [State.sendSlots, look_tabulate]

theorem State.sendSlots_received (a b : Chan) (s : State) (d : Chan) : look (s.sendSlots a b).highway.received d =
    if d < b then look s.highway.arriving d else look s.highway.received d := by
  simp only [State.sendSlots, look_tabulate]

theorem State.endSlot_of_slot (h : s.highway.slot = some c) : s.endSlot = { s with highway := { s.highway with
    received := put s.highway.received c (look s.highway.arriving c), slot := none } } := by
  unfold State.endSlot
  rw [h]

/-- A single slot begins. -/
theorem State.sendSlots_one (a : Chan) (s : State) : s.sendSlots a a = { s with highway := { s.highway with
    received := (s.sendSlots a a).highway.received, slot := some a
    carried := put s.highway.carried a (some (s.slotSample s.highway.arriving a)) } } := by
  have carried : (s.sendSlots a a).highway.carried =
      put s.highway.carried a (some (s.slotSample s.highway.arriving a)) := table_ext fun d => by
    rw [State.sendSlots_carried, look_put]
    by_cases e : a = d
    · subst e
      rw [if_pos ⟨le_rfl, le_rfl⟩, if_pos rfl]
    · rw [if_neg fun h => e (le_antisymm h.1 h.2), if_neg e]
  rw [← carried]
  rfl

/-- The number of the slot after one before the last does not wrap. -/
theorem Chan.lt_succ_iff {c d last : Chan} (h : c < last) : d < c + 1 ↔ d ≤ c := by
  have succ : (c + 1).val = c.val + 1 := Fin.val_add_one_of_lt (lt_of_lt_of_le h (Fin.le_last last))
  rw [Fin.lt_def, Fin.le_def, succ, Nat.lt_succ_iff]

/-! ### A frame -/

/-- What PCMO has carried when a frame stands in the middle of slot `c`: each slot to it the sample of its source. -/
theorem State.beginFrame_carried (incoming : Vector Byte 32) (last c : Chan) (s : State) :
    (∀ d ≤ c, ∃ v, look ((s.beginFrame incoming last).sendSlots 0 c).highway.carried d = some v ∧
      s.fills incoming (s.highway.frames + 1) d v) ∧
    ∀ d, c < d → look ((s.beginFrame incoming last).sendSlots 0 c).highway.carried d = look s.highway.carried d := by
  refine ⟨fun d hd => ⟨(s.beginFrame incoming last).slotSample incoming d, ?_, ?_⟩, fun d hd => ?_⟩
  · rw [State.sendSlots_carried, if_pos ⟨Fin.zero_le d, hd⟩]
    rfl
  · exact (s.beginFrame incoming last).slotSample_fills incoming d
  · rw [State.sendSlots_carried, if_neg fun h => absurd h.2 (not_le.mpr hd)]
    rfl

/-- What has been received when the last slot of a frame has ended. -/
theorem State.beginFrame_received (incoming : Vector Byte 32) (last : Chan) (s : State) (d : Chan) :
    look ((s.beginFrame incoming last).sendSlots 0 last).endSlot.highway.received d =
      if d ≤ last then look incoming d else look s.highway.received d := by
  have sent := (s.beginFrame incoming last).sendSlots_received 0 last d
  rw [State.endSlot_of_slot (c := last) rfl, look_put, sent]
  by_cases e : last = d
  · subst e
    rw [if_pos rfl, if_pos le_rfl]
    rfl
  · rw [if_neg e]
    by_cases hd : d < last
    · rw [if_pos hd, if_pos hd.le]
      rfl
    · rw [if_neg hd, if_neg fun hl => hd (lt_of_le_of_ne hl (Ne.symm e))]
      rfl

theorem State.highwayFrame_pauses {clocks : Clocking} (hp : clocks.pause = some c) (hc : c ≤ clocks.last) :
    s.highwayFrame incoming clocks = (s.beginFrame incoming clocks.last).sendSlots 0 c := by
  unfold State.highwayFrame
  rw [hp]
  exact if_pos hc

/-- Without a slot in which an event comes between, the frame runs to the end of its last slot. -/
theorem State.highwayFrame_runs {clocks : Clocking} (hp : ∀ c, clocks.pause = some c → clocks.last < c) :
    s.highwayFrame incoming clocks = ((s.beginFrame incoming clocks.last).sendSlots 0 clocks.last).endSlot := by
  unfold State.highwayFrame
  split
  · next c hc => exact if_neg (not_le.mpr (hp c hc))
  · rfl

theorem State.endSlot_kept (s : State) : s.endSlot.highway.frames = s.highway.frames ∧
    s.endSlot.highway.arriving = s.highway.arriving ∧ s.endSlot.highway.last = s.highway.last ∧
    s.endSlot.highway.carried = s.highway.carried := by
  unfold State.endSlot
  split <;> exact ⟨rfl, rfl, rfl, rfl⟩

/-- What FS gives the frame stands through it. -/
theorem State.highwayFrame_kept (incoming : Vector Byte 32) (clocks : Clocking) (s : State) :
    (s.highwayFrame incoming clocks).highway.frames = s.highway.frames + 1 ∧
      (s.highwayFrame incoming clocks).highway.arriving = incoming ∧
      (s.highwayFrame incoming clocks).highway.last = clocks.last := by
  by_cases hp : ∃ c, clocks.pause = some c ∧ c ≤ clocks.last
  · obtain ⟨c, hp, hc⟩ := hp
    rw [State.highwayFrame_pauses hp hc]
    exact ⟨rfl, rfl, rfl⟩
  · rw [State.highwayFrame_runs fun c hc => not_le.mp fun hl => hp ⟨c, hc, hl⟩]
    obtain ⟨frames, arriving, last, -⟩ := ((s.beginFrame incoming clocks.last).sendSlots 0 clocks.last).endSlot_kept
    exact ⟨frames, arriving, last⟩

theorem exec_frameSync (slots : Vector Byte 32) (clocks : Clocking) (h : s.resetAsserted = false) :
    exec (.frameSync slots clocks) s = .next (s.highwayFrame slots clocks) := awake_on _ h

/-! ### The next slot of a frame -/

theorem step_nextSlot (hp : s.pending = []) (hr : s.resetAsserted = false) (hd : s.deliveries = [])
    (hs : s.highway.slot = some c) : step s = .next (s.nextSlot c) := by
  rw [step_idle hp]
  simp [State.idleStep, hr, hd, hs]

/-! ### Tone generators -/

theorem exec_toneStepEnd (x : Tone) (h : s.resetAsserted = false) : exec (.toneStepEnd x) s = .next (s.toneStep x) :=
  awake_on _ h

/-- The steps of the tone generators that have run out, each with the step after it (R126). -/
theorem ToneGen.run_out_steps : ∀ y ∈
    ([(.ringback, ⟨0, some 0⟩, ⟨1, some 3000⟩), (.ringback, ⟨1, some 0⟩, ⟨0, some 1000⟩),
      (.busy, ⟨0, some 0⟩, ⟨1, some 500⟩), (.busy, ⟨1, some 0⟩, ⟨0, some 500⟩),
      (.reorder, ⟨0, some 0⟩, ⟨1, some 250⟩), (.reorder, ⟨1, some 0⟩, ⟨0, some 250⟩),
      (.hold, ⟨0, some 0⟩, ⟨1, some 200⟩), (.hold, ⟨1, some 0⟩, ⟨2, some 200⟩),
      (.hold, ⟨2, some 0⟩, ⟨3, some 4400⟩), (.hold, ⟨3, some 0⟩, ⟨0, some 200⟩)] : List (Tone × ToneGen × ToneGen)),
    y.2.1.left = some 0 ∧ ToneGen.atStep y.1 (ToneGen.after y.1 y.2.1.step) = y.2.2 := by decide

/-- A generator whose step has run out goes to its next (R126). -/
theorem State.toneStep_due {x : Tone} (h : (look s.tones (toneIx x)).left = some 0) : s.toneStep x = { s with
    tones := put s.tones (toneIx x) (ToneGen.atStep x (ToneGen.after x (look s.tones (toneIx x)).step)) } := if_pos h

theorem State.toneStep_running {x : Tone} (h : (look s.tones (toneIx x)).left ≠ some 0) : s.toneStep x = s := if_neg h

end

/-- Settles O35: a frame as far as its pause or its end, the slots that follow, PCMO, and the steps of the tones. -/
theorem highwayFramesAndToneSteps : Obligations.HighwayFramesAndToneSteps := by
  unfold Obligations.HighwayFramesAndToneSteps
  refine ⟨fun slots clocks s hr => ?frame, fun c s hp hr hd hs => ⟨fun hl => ?ends, fun hl => ?next⟩, fun s => ?pcmo,
    fun x s hr => ?tone⟩
  case frame =>
    obtain ⟨frames, arriving, last⟩ := s.highwayFrame_kept slots clocks
    obtain ⟨w, same⟩ := s.highwayFrame_same slots clocks
    refine ⟨_, exec_frameSync slots clocks hr, by rw [same], frames, arriving, last, fun c hp hc => ?pauses,
      fun hp => ?runs⟩
    case pauses =>
      rw [State.highwayFrame_pauses hp hc]
      exact ⟨rfl, (s.beginFrame slots clocks.last).sendSlots_received 0 c, s.beginFrame_carried slots clocks.last c⟩
    case runs =>
      rw [State.highwayFrame_runs hp]
      obtain ⟨-, -, -, carried⟩ := ((s.beginFrame slots clocks.last).sendSlots 0 clocks.last).endSlot_kept
      rw [carried]
      exact ⟨rfl, s.beginFrame_received slots clocks.last, s.beginFrame_carried slots clocks.last clocks.last⟩
  case ends =>
    rw [step_nextSlot hp hr hd hs, State.nextSlot, if_pos hl, State.endSlot_of_slot hs]
  case next =>
    rw [step_nextSlot hp hr hd hs, State.nextSlot, if_neg (not_le.mpr hl)]
    refine ⟨_, _, rfl, s.slotSample_fills s.highway.arriving (c + 1), fun d => ?_, s.sendSlots_one (c + 1)⟩
    rw [State.sendSlots_received]
    simp only [Chan.lt_succ_iff hl]
  case pcmo =>
    refine ⟨fun hs => ?_, fun c hs => ?_⟩ <;> rw [State.pcmo, hs] <;> rfl
  case tone =>
    rw [exec_toneStepEnd x hr]
    refine ⟨fun before after hb hm => ?_, fun hn => by rw [State.toneStep_running hn]⟩
    subst hb
    obtain ⟨due, following⟩ := ToneGen.run_out_steps _ hm
    rw [State.toneStep_due due, following]

end Sys2Proof.Machine
end

section
/-! Conferences (R130 to R133): CONFERENCE forms a bridge of three parties, JOIN adds a fourth. -/

namespace Sys2Proof.Machine

section

variable {s : State} {p : Params} {k m : Calls} {b : BridgeIx} {c h x : Chan} {cs l : List Chan}

/-! ### Members of a bridge -/

/-- A member of a bridge hears it, and a trunk's loop is closed (R131, R133). -/
theorem Calls.toConfer_stands (c : Chan) (b : BridgeIx) (k : Calls) : (k.toConfer c b).stands c
    { (k.ses c).moved .confer with bridge := some b } (.bridge b) ⟨false, (k.ses c).cls == .trunk⟩
    (look k.notices c) := by
  have := Calls.stands_enter c .confer (fun r => { r with bridge := some b }) k
  simpa [Calls.toConfer, Session.listen, Session.levels] using this

theorem Calls.sameAt_toConfer {d : Chan} (h : d ≠ c) (b : BridgeIx) (k : Calls) : k.sameAt d (k.toConfer c b) :=
  Calls.sameAt_enter h ..

theorem Calls.onlyAt_toConfer (h : c ∈ cs) (b : BridgeIx) (k : Calls) : k.onlyAt cs (k.toConfer c b) :=
  Calls.onlyAt_enter h ..

/-- A channel whose record stands as in `k` enters CONFER as it does from `k`. -/
theorem Calls.toConfer_stands_of_sameAt (hd : k.sameAt c m) (b : BridgeIx) : (m.toConfer c b).stands c
    { (k.ses c).moved .confer with bridge := some b } (.bridge b) ⟨false, (k.ses c).cls == .trunk⟩
    (look k.notices c) := by
  obtain ⟨⟨record, -, -, notices⟩, -⟩ := hd
  rw [← record, ← notices]
  exact m.toConfer_stands c b

/-- What stands when the members of bridge `b` have become `l` and only the channels `cs` have changed after that. -/
theorem Calls.onlyAt.bridge_frame (hm : (k.setMembers b l).onlyAt cs m) :
    (∀ d, d ∉ cs → k.sameAt d m) ∧ m.battQ = k.battQ ∧ k.samePool m ∧ m.groups = k.groups ∧ m.members b = l ∧
      ∀ a, a ≠ b → m.members a = k.members a := by
  obtain ⟨others, batt, pool, groups, bridges⟩ := hm
  have members : m.members = (k.setMembers b l).members := funext fun a => congrArg (look · a) bridges
  refine ⟨others, batt, pool, groups, ?_, fun a ha => ?_⟩
  · rw [members, Calls.members_setMembers_self]
  · rw [members, Calls.members_setMembers, if_neg ha.symm]

/-! ### The forming of a bridge -/

/-- The lowest-numbered bridge without members (R131). -/
theorem Calls.lowestFreeBridge_of_lowest (hb : k.members b = []) (hl : ∀ a < b, k.members a ≠ []) :
    k.lowestFreeBridge = some b := by
  unfold Calls.lowestFreeBridge allBridges
  rw [List.find?_eq_some_iff_getElem]
  refine ⟨by simpa using hb, b, by simp, by simp, fun j hj => ?_⟩
  simpa using hl ⟨j, by omega⟩ (by simpa [Fin.lt_def] using hj)

theorem Calls.lowestFreeBridge_eq_none (h : ∀ b, k.members b ≠ []) : k.lowestFreeBridge = none := by
  unfold Calls.lowestFreeBridge
  exact List.find?_eq_none.mpr fun b _ => by simpa using h b

theorem Calls.formBridge_only (b : BridgeIx) (c h x : Chan) (k : Calls) :
    (k.setMembers b [c, h, x]).onlyAt [c, h, x] (k.formBridge b c h x) :=
  Calls.onlyAt_trans (Calls.onlyAt_alter (by simp) ..)
    (Calls.onlyAt_trans (Calls.onlyAt_toConfer (by simp) ..)
      (Calls.onlyAt_trans (Calls.onlyAt_toConfer (by simp) ..) (Calls.onlyAt_toConfer (by simp) ..)))

/-- Three channels that enter CONFER one after the other do not disturb one another. -/
theorem Calls.toConfer_three_stands (hch : c ≠ h) (hhx : h ≠ x) (hxc : x ≠ c) (b : BridgeIx) (k : Calls) :
    (((k.toConfer c b).toConfer h b).toConfer x b).stands c { (k.ses c).moved .confer with bridge := some b } (.bridge b)
        ⟨false, (k.ses c).cls == .trunk⟩ (look k.notices c) ∧
      (((k.toConfer c b).toConfer h b).toConfer x b).stands h { (k.ses h).moved .confer with bridge := some b }
        (.bridge b) ⟨false, (k.ses h).cls == .trunk⟩ (look k.notices h) ∧
      (((k.toConfer c b).toConfer h b).toConfer x b).stands x { (k.ses x).moved .confer with bridge := some b }
        (.bridge b) ⟨false, (k.ses x).cls == .trunk⟩ (look k.notices x) := by
  refine ⟨?_, ?_, ?_⟩
  · exact Calls.stands_of_sameAt (Calls.sameAt_trans (Calls.sameAt_toConfer hch ..) (Calls.sameAt_toConfer hxc.symm ..))
      (k.toConfer_stands c b)
  · exact Calls.stands_of_sameAt (Calls.sameAt_toConfer hhx ..)
      (Calls.toConfer_stands_of_sameAt (Calls.sameAt_toConfer hch.symm ..) b)
  · exact Calls.toConfer_stands_of_sameAt
      (Calls.sameAt_trans (Calls.sameAt_toConfer hxc ..) (Calls.sameAt_toConfer hhx.symm ..)) b

/-- The three parties of a bridge that is formed: the first holds nobody any more (R131). -/
theorem Calls.formBridge_stands (hch : c ≠ h) (hhx : h ≠ x) (hxc : x ≠ c) (b : BridgeIx) (k : Calls) :
    (k.formBridge b c h x).stands c { (k.ses c).moved .confer with holds := none, bridge := some b } (.bridge b)
        ⟨false, (k.ses c).cls == .trunk⟩ (look k.notices c) ∧
      (k.formBridge b c h x).stands h { (k.ses h).moved .confer with bridge := some b } (.bridge b)
        ⟨false, (k.ses h).cls == .trunk⟩ (look k.notices h) ∧
      (k.formBridge b c h x).stands x { (k.ses x).moved .confer with bridge := some b } (.bridge b)
        ⟨false, (k.ses x).cls == .trunk⟩ (look k.notices x) := by
  have three := Calls.toConfer_three_stands hch hhx hxc b
    ((k.setMembers b [c, h, x]).alter c fun r => { r with holds := none })
  rw [Calls.ses_alter_self, Calls.ses_alter_ne _ _ _ _ hch, Calls.ses_alter_ne _ _ _ _ hxc.symm] at three
  exact three

/-! ### CONFERENCE -/

theorem exec_conference (ht : s.taking .conference p) (ho : s.op = .run) (hc : (look p 0).toNat = c) :
    exec .conference s = .next ((conferenceBody c s).state.mail
      (Mailbox.post (conferenceBody c s).code (conferenceBody c s).bytes)) :=
  takeChecked _ ht (readChan_eq_some hc) (by rw [ho]; rfl)

theorem Calls.conferenceParties_of_talk (hs : (k.ses c).state = .talk) (hh : (k.ses c).holds = some h)
    (hp : (k.ses c).peer = some x) (hx : (k.ses x).holds = none) : k.conferenceParties c = some (h, x) := by
  unfold Calls.conferenceParties
  rw [hs, hh, hp]
  exact if_pos hx

/-- The conditions of R130, one of which fails. -/
theorem Calls.conferenceParties_eq_none (hn : (k.ses c).state ≠ .talk ∨ (k.ses c).holds = none ∨
    (∃ x, (k.ses c).peer = some x ∧ (k.ses x).holds ≠ none)) : k.conferenceParties c = none := by
  by_contra hsome
  obtain ⟨⟨h, x⟩, hp⟩ := Option.ne_none_iff_exists'.mp hsome
  obtain ⟨talks, holds, peer, peerHolds⟩ := Calls.conferenceParties_eq_some hp
  rcases hn with hn | hn | ⟨y, hy, hn⟩
  · exact hn talks
  · exact nomatch holds.symm.trans hn
  · obtain rfl : x = y := Option.some.inj (peer.symm.trans hy)
    exact hn peerHolds

theorem conferenceBody_badState (hp : s.calls.conferenceParties c = none) : conferenceBody c s = refuse .badState s := by
  unfold conferenceBody
  rw [hp]

theorem conferenceBody_noResource (hp : s.calls.conferenceParties c = some (h, x))
    (hb : s.calls.lowestFreeBridge = none) : conferenceBody c s = refuse .noResource s := by
  unfold conferenceBody
  rw [hp, hb]

theorem conferenceBody_forms (hp : s.calls.conferenceParties c = some (h, x))
    (hb : s.calls.lowestFreeBridge = some b) :
    conferenceBody c s = carried [byteOf b, 3] (s.close (s.calls.formBridge b c h x)) := by
  unfold conferenceBody
  rw [hp, hb]

/-! ### JOIN -/

theorem readJoin_eq_some (hb : (look p 0).toNat = b) (hc : (look p 1).toNat = c) : readJoin p = some (b, c) := by
  simp [readJoin, readFin_eq_some hb, readFin_eq_some hc]

theorem exec_join (ht : s.taking .join p) (ho : s.op = .run) (hb : (look p 0).toNat = b) (hc : (look p 1).toNat = c) :
    exec .join s = .next ((joinBody (b, c) s).state.mail
      (Mailbox.post (joinBody (b, c) s).code (joinBody (b, c) s).bytes)) :=
  takeChecked _ ht (readJoin_eq_some hb hc) (by rw [ho]; rfl)

theorem Calls.mayJoin_iff : k.mayJoin c = true ↔ (k.ses c).state = .held ∨
    (k.ses c).state = .hostwait ∧ ((k.ses c).cls = .station → (k.ses c).holds = none) := by
  unfold Calls.mayJoin
  split
  · next hs => simp [hs]
  · next hs => simp [hs, imp_iff_not_or]
  · next held hostwait => exact iff_of_false Bool.false_ne_true fun h => h.elim held fun h => hostwait h.1

/-- A channel that R132 refuses. -/
theorem Calls.mayJoin_eq_false (hn : (k.ses c).state ≠ .hostwait ∧ (k.ses c).state ≠ .held ∨
    (k.ses c).state = .hostwait ∧ (k.ses c).cls = .station ∧ (k.ses c).holds ≠ none) : ¬ k.mayJoin c = true := by
  rw [Calls.mayJoin_iff]
  rcases hn with ⟨hostwait, held⟩ | ⟨hs, hc, hh⟩
  · exact fun hj => hj.elim held fun hj => hostwait hj.1
  · rw [hs]
    exact fun hj => hj.elim (fun h => nomatch h) fun hj => hh (hj.2 hc)

theorem joinBody_full (hl : 4 ≤ (s.calls.members b).length) : joinBody (b, c) s = refuse .noResource s := if_pos hl

theorem joinBody_free (hb : s.calls.members b = []) : joinBody (b, c) s = refuse .badState s := by
  simp [joinBody, bridgeLimit, hb]

theorem joinBody_refused (hl : (s.calls.members b).length < 4) (hj : ¬ s.calls.mayJoin c = true) :
    joinBody (b, c) s = refuse .badState s := by
  simp [joinBody, bridgeLimit, Nat.not_le.mpr hl, hj]

theorem joinBody_joins (hl : (s.calls.members b).length = 3) (hj : s.calls.mayJoin c = true) :
    joinBody (b, c) s = carried [byteOf b, 4] (s.close (s.calls.joinBridge b c)) := by
  have hne : s.calls.members b ≠ [] := fun e => by simp [e] at hl
  simp [joinBody, bridgeLimit, hl, hne, hj]

/-- A channel that nobody holds joins a bridge. -/
theorem Calls.joinBridge_unheld (hs : (k.ses c).state ≠ .held) :
    k.joinBridge b c = (k.setMembers b (k.members b ++ [c])).toConfer c b := by
  unfold Calls.joinBridge
  rw [if_neg hs]

/-- A held channel joins a bridge, and its holder holds nobody any more (R133). -/
theorem Calls.joinBridge_held (hs : (k.ses c).state = .held) (hh : (k.ses c).heldBy = some h) :
    k.joinBridge b c =
      ((k.setMembers b (k.members b ++ [c])).alter h fun r => { r with holds := none }).toConfer c b := by
  unfold Calls.joinBridge Calls.freeHolder
  rw [if_pos hs, hh]
  rfl

theorem Calls.joinBridge_unheld_only (hs : (k.ses c).state ≠ .held) :
    (k.setMembers b (k.members b ++ [c])).onlyAt [c] (k.joinBridge b c) := by
  rw [Calls.joinBridge_unheld hs]
  exact Calls.onlyAt_toConfer (by simp) ..

theorem Calls.joinBridge_held_only (hs : (k.ses c).state = .held) (hh : (k.ses c).heldBy = some h) :
    (k.setMembers b (k.members b ++ [c])).onlyAt [c, h] (k.joinBridge b c) := by
  rw [Calls.joinBridge_held hs hh]
  exact Calls.onlyAt_trans (Calls.onlyAt_alter (by simp) ..) (Calls.onlyAt_toConfer (by simp) ..)

theorem Calls.joinBridge_unheld_stands (hs : (k.ses c).state ≠ .held) : (k.joinBridge b c).stands c
    { (k.ses c).moved .confer with bridge := some b } (.bridge b) ⟨false, (k.ses c).cls == .trunk⟩
    (look k.notices c) := by
  rw [Calls.joinBridge_unheld hs]
  exact Calls.toConfer_stands_of_sameAt (Calls.sameAt_setMembers ..) b

/-- The holder of a channel that joins, and the channel itself (R133). -/
theorem Calls.joinBridge_held_stands (hs : (k.ses c).state = .held) (hh : (k.ses c).heldBy = some h) (hhc : h ≠ c) :
    (k.joinBridge b c).stands h { k.ses h with holds := none } (look k.listen h) (k.levels h) (look k.notices h) ∧
      (k.joinBridge b c).stands c { (k.ses c).moved .confer with bridge := some b } (.bridge b)
        ⟨false, (k.ses c).cls == .trunk⟩ (look k.notices c) := by
  rw [Calls.joinBridge_held hs hh]
  exact ⟨Calls.stands_of_sameAt (Calls.sameAt_toConfer hhc ..) ⟨Calls.ses_alter_self .., rfl, rfl, rfl⟩,
    Calls.toConfer_stands_of_sameAt
      (Calls.sameAt_trans (Calls.sameAt_setMembers ..) (Calls.sameAt_alter hhc.symm ..)) b⟩

end

/-- Settles O36: the two commands by their conditions; the channels of a bridge enter CONFER one after the other. -/
theorem conferencesFormAndGrow : Obligations.ConferencesFormAndGrow := by
  unfold Obligations.ConferencesFormAndGrow
  refine ⟨fun c s p ht ho hc => ?conference, fun b c s p ht ho hb hc => ?join⟩
  case conference =>
    rw [exec_conference ht ho hc]
    refine ⟨fun hn => ?refused, fun h x talks holds peer peerHolds => ?asked⟩
    case refused =>
      rw [conferenceBody_badState (Calls.conferenceParties_eq_none hn)]
      rfl
    have parties := Calls.conferenceParties_of_talk talks holds peer peerHolds
    refine ⟨fun hfull => ?full, fun b hch hhx hxc hfree hlow => ?formed⟩
    case full =>
      rw [conferenceBody_noResource parties (Calls.lowestFreeBridge_eq_none hfull)]
      rfl
    case formed =>
      rw [conferenceBody_forms parties (Calls.lowestFreeBridge_of_lowest hfree hlow)]
      obtain ⟨others, batt, pool, groups, members, rest⟩ := (s.calls.formBridge_only b c h x).bridge_frame
      exact ⟨_, rfl, fun d hdc hdh hdx => others d (by simp [hdc, hdh, hdx]), batt, pool, groups, members, rest,
        Calls.formBridge_stands hch hhx hxc b s.calls⟩
  case join =>
    rw [exec_join ht ho hb hc]
    refine ⟨fun hfull => ?full, fun hfree => ?free, fun hl hn => ?refused, fun hl hs hh => ?hostwait,
      fun h hl hs hh hhc => ?held⟩
    case full =>
      rw [joinBody_full hfull]
      rfl
    case free =>
      rw [joinBody_free hfree]
      rfl
    case refused =>
      rw [joinBody_refused hl (Calls.mayJoin_eq_false hn)]
      rfl
    case hostwait =>
      have unheld : (s.calls.ses c).state ≠ .held := by simp [hs]
      rw [joinBody_joins hl (Calls.mayJoin_iff.mpr (.inr ⟨hs, hh⟩))]
      obtain ⟨others, batt, pool, groups, members, rest⟩ := (Calls.joinBridge_unheld_only (b := b) unheld).bridge_frame
      exact ⟨_, rfl, fun d hd => others d (by simpa using hd), batt, pool, groups, members, rest,
        Calls.joinBridge_unheld_stands unheld⟩
    case held =>
      rw [joinBody_joins hl (Calls.mayJoin_iff.mpr (.inl hs))]
      obtain ⟨others, batt, pool, groups, members, rest⟩ := (Calls.joinBridge_held_only (b := b) hs hh).bridge_frame
      exact ⟨_, rfl, fun d hdc hdh => others d (by simp [hdc, hdh]), batt, pool, groups, members, rest,
        Calls.joinBridge_held_stands hs hh hhc⟩

end Sys2Proof.Machine
end
